-- ==== Sys2Proof/Word.lean ====
section
/-! DEFINITION. Bytes, counts that saturate, timers and fixed-size banks of like records (spec/00_scope.md, Conventions). -/

namespace Sys2Proof

/-- One byte of a frame, a record or a payload. -/
abbrev Byte := BitVec 8

/-- A timer: stopped, or running and due at a moment of the part's clock, in microseconds. -/
abbrev Timer := Option Nat

/-- A count one higher, staying at the largest value of its width (00_scope.md, Counts). -/
def satInc (most n : Nat) : Nat := min (n + 1) most

/-- `n` like records, numbered from 0: the slots, the channels, the rules, the lamps, the parameters. -/
structure Bank (α : Type) (n : Nat) where
  items : List α
  len : items.length = n
  deriving DecidableEq, Repr

/-- Every place of the bank holds `a`. -/
def Bank.fill {α : Type} (n : Nat) (a : α) : Bank α n := ⟨List.replicate n a, List.length_replicate⟩

/-- The record at place `i`, or `d` where the bank has no such place. -/
def Bank.get {α : Type} {n : Nat} (b : Bank α n) (i : Nat) (d : α) : α := b.items.getD i d

/-- The bank with place `i` replaced; a place it does not have changes nothing. -/
def Bank.put {α : Type} {n : Nat} (b : Bank α n) (i : Nat) (a : α) : Bank α n :=
  ⟨b.items.set i a, by rw [List.length_set]; exact b.len⟩

/-- Every record changed alike. -/
def Bank.map {α β : Type} {n : Nat} (f : α → β) (b : Bank α n) : Bank β n :=
  ⟨b.items.map f, by rw [List.length_map]; exact b.len⟩

end Sys2Proof
end

