-- ==== Sys2Proof/Config.lean ====
section
/-! DEFINITION. What the manual fixes as numbers of its own, and the free values: results the manual does not state (log 14). -/

namespace Sys2Proof

/-- The pending target field of GAUGE_READ selector 2 while no pending target is present (R46 states a present mark and no value). -/
opaque Config.absentPending : Nat → BitVec 16

/-- GAUGE_READ selector 3 of a live curve point at or beyond the point count (R41 gives the live record no such point). -/
opaque Config.absentCurvePoint : Nat → BitVec 32

/-- The attempt field of TACHO_READ selector 2 while the transfer record is IDLE (R145 states none). -/
opaque Config.idleAttempt : Nat → BitVec 2

/-- The DATA count field of TACHO_READ selector 2 while the transfer record is IDLE (R145 states none). -/
opaque Config.idleDataCount : Nat → BitVec 8

/-- The 15 bits of a daily or weekly drive in TACHO_READ of a valid summary that holds none (R145 states a present mark and no value). -/
opaque Config.absentDrive : Nat → BitVec 15

/-- The two bytes of a daily drive in a DRIVER_PAGE record of a valid summary that holds none (R160). -/
opaque Config.absentPageDaily : Nat → BitVec 16

/-- The two bytes of a weekly drive in a DRIVER_PAGE record of a valid summary that holds none (R160); nothing ties them to the
daily drive's. -/
opaque Config.absentPageWeekly : Nat → BitVec 16

/-- How many pushes and releases one step hands to the alert block before it leaves the rest in the backlog (log 7). -/
def Config.alertFuel : Nat := 256

/-- One millisecond in microseconds. -/
def ms (n : Nat) : Nat := n * 1000

/-- The intake queue holds up to 32 records (R7). -/
def intakeRoom : Nat := 32
/-- The transmit queue holds up to 8 frames (R9). -/
def transmitRoom : Nat := 8
/-- The Route Table holds up to 128 entries (R11). -/
def routeRoom : Nat := 128
/-- The Alert Stack holds up to 16 entries (R89). -/
def stackRoom : Nat := 16
/-- The calibration history holds up to 8 entries (R117). -/
def historyRoom : Nat := 8
/-- The interval ring holds up to 8 intervals (R109). -/
def ringRoom : Nat := 8

/-- The largest value of a 16-bit count. -/
def count16 : Nat := 65535
/-- The largest value of an 8-bit count. -/
def count8 : Nat := 255

end Sys2Proof
end

