-- ==== Sys2Proof/Syntax.lean ====
section
/-! DEFINITION. The commands of the part: one constructor for each row of spec/opcode_table.json. -/

namespace Sys2Proof

/-- The two CAN ports (R1): T on the tractor segment, L on the trailer segment. -/
inductive Port where
  | tractor
  | trailer
  deriving DecidableEq, Repr

/-- The two phases of the speed sensor (R106). -/
inductive Pin where
  | spa
  | spb
  deriving DecidableEq, Repr

/-- What a coil's half-bridge pair reports (R64). -/
inductive CoilFault where
  | openA
  | openB
  | overA
  | overB
  deriving DecidableEq, Repr

/-- A frame that completed without error on a segment (R1): its identifier format, whether it is a remote frame,
its identifier, its data length code (0–15) and its data bytes. -/
structure BusFrame where
  extended : Bool
  remote : Bool
  identifier : Nat
  dlc : Nat
  data : List Byte
  deriving DecidableEq, Repr

/-- The commands. A management request and a classifier path carry no operand: what they act on is the record at
the head of the intake queue (R8, R193). Operands are what only the outside can say. -/
inductive Instr where
  /-- POWER_ON (R192). -/
  | powerOn
  /-- SUPPLY_LOSS (R192, R180). -/
  | supplyLoss
  /-- IGN_CHANGE (R187): the line is now high or low. -/
  | ignChange (high : Bool)
  /-- IGN_TIMER_EXPIRY (R187). -/
  | ignTimerExpiry
  /-- PARKING_TIMER_EXPIRY (R190). -/
  | parkingTimerExpiry
  /-- SECOND_TIMER_EXPIRY (R188). -/
  | secondTimerExpiry
  /-- VALID_FRAME_RECEIVED (R1). -/
  | validFrameReceived (port : Port) (frame : BusFrame)
  /-- RX_ERROR_DETECTED (R2). -/
  | rxErrorDetected (port : Port)
  /-- TX_ERROR_DETECTED (R2). -/
  | txErrorDetected (port : Port)
  /-- BUS_OFF_RECOVERY_EXPIRY (R3). -/
  | busOffRecoveryExpiry (port : Port)
  /-- SILENCE_TIMER_EXPIRY (R4). -/
  | silenceTimerExpiry (port : Port)
  /-- TX_FRAME_COMPLETE (R9). -/
  | txFrameComplete
  /-- ROUTED_FRAME (R15). -/
  | routedFrame
  /-- UNROUTED_FRAME (R8). -/
  | unroutedFrame
  /-- FOREIGN_MGMT (R8). -/
  | foreignMgmt
  /-- BAD_REQUEST (R164). -/
  | badRequest
  /-- READ_EVENTS (R169). -/
  | readEvents
  /-- SET_NOTICE_MASK (R170). -/
  | setNoticeMask
  /-- READ_COUNTERS (R172). -/
  | readCounters
  /-- SET_PARAM (R174). -/
  | setParam
  /-- GET_PARAM (R175). -/
  | getParam
  /-- RESTART (R177). -/
  | restart
  /-- RESTART_EXECUTE (R177). -/
  | restartExecute
  /-- CONFIG_SAVE (R179). -/
  | configSave
  /-- CONFIG_SAVE_END (R179): whether the read-back equals the image. -/
  | configSaveEnd (equal : Bool)
  /-- CONFIG_ERASE (R181). -/
  | configErase
  /-- ROUTE_OPEN (R18). -/
  | routeOpen
  /-- EXT_A (R19). -/
  | extA
  /-- EXT_B (R20). -/
  | extB
  /-- EXT_C (R20). -/
  | extC
  /-- ROUTE_DELETE (R22). -/
  | routeDelete
  /-- ROUTE_READ (R23). -/
  | routeRead
  /-- SLOT_EXPIRY (R27). -/
  | slotExpiry (slot : Nat)
  /-- READ_SLOT (R36). -/
  | readSlot
  /-- GAUGE_FIELD (R42). -/
  | gaugeField
  /-- GAUGE_COMMIT (R43). -/
  | gaugeCommit
  /-- GAUGE_READ (R46). -/
  | gaugeRead
  /-- STEP_EVENT (R53). -/
  | stepEvent (channel : Nat)
  /-- HOMING_STEP (R55). -/
  | homingStep (channel : Nat)
  /-- REST_DELAY_EXPIRY (R50). -/
  | restDelayExpiry (channel : Nat)
  /-- COIL_FAULT_REPORT (R65). -/
  | coilFaultReport (channel : Nat) (cause : CoilFault)
  /-- RULE_A (R68). -/
  | ruleA
  /-- RULE_B (R68). -/
  | ruleB
  /-- RULE_C (R68). -/
  | ruleC
  /-- RULE_D (R69). -/
  | ruleD
  /-- RULE_ENABLE (R70). -/
  | ruleEnable
  /-- RULE_CLEAR (R71). -/
  | ruleClear
  /-- RULE_READ (R72). -/
  | ruleRead
  /-- LAMP_READ (R85). -/
  | lampRead
  /-- CONFIRM_TIMER_EXPIRY (R76). -/
  | confirmTimerExpiry (rule : Nat)
  /-- PHASE_EVENT (R80). -/
  | phaseEvent
  /-- PROVE_OUT_END (R82). -/
  | proveOutEnd
  /-- LAMP_TURN_ON_CHECK (R86): whether the lamp's driver senses current. -/
  | lampTurnOnCheck (lamp : Nat) (current : Bool)
  /-- ACK_PRESS (R95). -/
  | ackPress
  /-- ALERT_ACK (R97). -/
  | alertAck
  /-- ALERT_READ (R99). -/
  | alertRead
  /-- CHIME_INTERVAL_END (R102). -/
  | chimeIntervalEnd
  /-- TONE_COUNTER_EXPIRY (R101). -/
  | toneCounterExpiry
  /-- PIN_RAW_CHANGE (R106): the pin's raw level is now high or low. -/
  | pinRawChange (pin : Pin) (high : Bool)
  /-- FILTER_STABILITY_EXPIRY (R106). -/
  | filterStabilityExpiry (pin : Pin)
  /-- ZERO_TIMER_EXPIRY (R111). -/
  | zeroTimerExpiry
  /-- SET_KFACTOR (R118). -/
  | setKfactor
  /-- SET_ODOMETER (R120). -/
  | setOdometer
  /-- SEAL (R121). -/
  | sealOdometer
  /-- READ_CAL_HISTORY (R119). -/
  | readCalHistory
  /-- DISTANCE_READ (R122). -/
  | distanceRead
  /-- CAL_WRITE_COMPLETE (R182). -/
  | calWriteComplete
  /-- MINUTE_TIMER_EXPIRY (R129). -/
  | minuteTimerExpiry
  /-- CARD_READ (R135). -/
  | cardRead
  /-- XFER_OPEN (R138). -/
  | xferOpen
  /-- XFER_DATA (R139). -/
  | xferData
  /-- XFER_CLOSE (R140). -/
  | xferClose
  /-- XFER_ABORT (R138). -/
  | xferAbort
  /-- XFER_STRAY (R137). -/
  | xferStray
  /-- TRANSFER_TIMER_EXPIRY (R138). -/
  | transferTimerExpiry
  /-- TACHO_READ (R145). -/
  | tachoRead
  /-- MISMATCH_TIMER_EXPIRY (R147). -/
  | mismatchTimerExpiry
  /-- SILENCE_WATCH_EXPIRY (R148). -/
  | silenceWatchExpiry
  /-- READY_RISE (R154). -/
  | readyRise
  /-- READY_TIMER_EXPIRY (R154). -/
  | readyTimerExpiry
  /-- RETRY_TIMER_EXPIRY (R155). -/
  | retryTimerExpiry
  /-- DISPLAY_TRANSFER_START (R156). -/
  | displayTransferStart
  /-- DISPLAY_TRANSFER_COMPLETE (R154). -/
  | displayTransferComplete
  /-- PAGE_SHORT_PRESS (R158). -/
  | pageShortPress
  /-- PAGE_LONG_PRESS (R158). -/
  | pageLongPress
  /-- DISPLAY_READ (R162). -/
  | displayRead
  /-- READY_FALL (R154). -/
  | readyFall
  /-- ACK_INPUT_CHANGE (R95): the input is now pressed or released. -/
  | ackInputChange (pressed : Bool)
  /-- PAGE_INPUT_CHANGE (R157): the input is now pressed or released. -/
  | pageInputChange (pressed : Bool)
  deriving DecidableEq, Repr

end Sys2Proof
end

