-- ==== Sys2Proof/WellFormed.lean ====
section
/-! DEFINITION. Which commands are well formed: operands within what the part has (R1, R11, R12, R41, R67). -/

namespace Sys2Proof

/-- A frame the segment can carry: an identifier of its format's width (R1, 29 bits extended, 11 bits standard), a
4-bit data length code, and as many data bytes as the code gives; a remote frame carries none. -/
def BusFrame.wf (f : BusFrame) : Bool :=
  decide (f.identifier < if f.extended then 2 ^ 29 else 2 ^ 11) && decide (f.dlc < 16) &&
    decide (f.data.length = if f.remote then 0 else min f.dlc 8)

/-- The command names a port, channel, rule, lamp or slot that exists. -/
def Instr.wf (i : Instr) : Bool :=
  match i with
  | .validFrameReceived _ f => f.wf
  | .slotExpiry n => decide (16 ≤ n) && decide (n < 96)
  | .stepEvent c | .homingStep c | .restDelayExpiry c | .coilFaultReport c _ => decide (c < 8)
  | .confirmTimerExpiry r => decide (r < 64)
  | .lampTurnOnCheck l _ => decide (l < 32)
  | .powerOn | .supplyLoss | .ignChange _ | .ignTimerExpiry | .parkingTimerExpiry | .secondTimerExpiry
  | .rxErrorDetected _ | .txErrorDetected _ | .busOffRecoveryExpiry _ | .silenceTimerExpiry _ | .txFrameComplete
  | .routedFrame | .unroutedFrame | .foreignMgmt | .badRequest | .readEvents | .setNoticeMask | .readCounters
  | .setParam | .getParam | .restart | .restartExecute | .configSave | .configSaveEnd _ | .configErase
  | .routeOpen | .extA | .extB | .extC | .routeDelete | .routeRead | .readSlot | .gaugeField | .gaugeCommit
  | .gaugeRead | .ruleA | .ruleB | .ruleC | .ruleD | .ruleEnable | .ruleClear | .ruleRead | .lampRead
  | .phaseEvent | .proveOutEnd | .ackPress | .alertAck | .alertRead | .chimeIntervalEnd | .toneCounterExpiry
  | .pinRawChange _ _ | .filterStabilityExpiry _ | .zeroTimerExpiry | .setKfactor | .setOdometer | .sealOdometer
  | .readCalHistory | .distanceRead | .calWriteComplete | .minuteTimerExpiry | .cardRead | .xferOpen | .xferData
  | .xferClose | .xferAbort | .xferStray | .transferTimerExpiry | .tachoRead | .mismatchTimerExpiry
  | .silenceWatchExpiry | .readyRise | .readyTimerExpiry | .retryTimerExpiry | .displayTransferStart
  | .displayTransferComplete | .pageShortPress | .pageLongPress | .displayRead | .readyFall | .ackInputChange _
  | .pageInputChange _ => true

end Sys2Proof
end

