-- ==== Sys2Proof/Machine/State.lean ====
section
/-! DEFINITION. The state of the part, block by block, as plain data, and the state right after reset. -/

namespace Sys2Proof.Machine

/-! ### Ignition controller (chapter 11) -/

/-- The four power states (R186). -/
inductive PowerState where
  | sleep
  | waking
  | run
  | parking
  deriving DecidableEq, Repr

/-- The latest report of a gauge channel to the controller (R186). -/
inductive ChannelReport where
  | none
  | tracking
  | parked
  | fault
  deriving DecidableEq, Repr

/-- The ignition controller's state (R186). -/
structure Ignition where
  power : PowerState
  hold : Bool
  level : Bool
  timer : Timer
  reports : Bank ChannelReport 8
  proveOutRunning : Bool
  saveMark : Bool
  writeMark : Bool
  parkingTimer : Timer
  runSeconds : Nat
  secondTimer : Timer
  deriving DecidableEq, Repr

/-- The levels outside on the part's inputs (section 12.4): IGN, SPA, SPB and READY high, ACK and PAGE pressed. -/
structure Pins where
  ign : Bool
  spa : Bool
  spb : Bool
  ack : Bool
  page : Bool
  ready : Bool
  deriving DecidableEq, Repr

/-! ### Ports, queues and the Route Table (chapter 1) -/

/-- The state of a port (R2, R3). -/
inductive PortState where
  | active
  | passive
  | busOff
  deriving DecidableEq, Repr

/-- One port (R1 to R6). `awaiting`: the next valid frame writes the OK slot with 1 (R4). -/
structure PortBlock where
  on : Bool
  state : PortState
  txErrors : Nat
  rxErrors : Nat
  silence : Timer
  recovery : Timer
  lost : Bool
  awaiting : Bool
  received : Nat
  unrouted : Nat
  queueDrop : Nat
  stdDiscard : Nat
  foreignMgmt : Nat
  txDrop : Nat
  deriving DecidableEq, Repr

/-- A frame record of the intake queue (R1): its data holds exactly the data length's bytes. -/
structure FrameRecord where
  port : Port
  identifier : Nat
  data : List Byte
  deriving DecidableEq, Repr

/-- A frame of the transmit queue (R9). -/
structure TxFrame where
  identifier : Nat
  data : List Byte
  deriving DecidableEq, Repr

/-- The byte order of an extractor's field (R12). -/
inductive FieldOrder where
  | lowFirst
  | highFirst
  deriving DecidableEq, Repr

/-- Part A of an extractor (R17). -/
structure ExtractorA where
  start : Nat
  width : Nat
  order : FieldOrder
  signed : Bool
  coded : Bool
  slot : Nat
  deriving DecidableEq, Repr

/-- Part B of an extractor (R17). -/
structure ExtractorB where
  multiplier : Int
  divisor : Nat
  deriving DecidableEq, Repr

/-- An extractor (R12): its three parts. -/
structure Extractor where
  a : ExtractorA
  b : ExtractorB
  offset : Int
  deriving DecidableEq, Repr

/-- A route key (R11). -/
structure RouteKey where
  port : Port
  identifier : Nat
  deriving DecidableEq, Repr

/-- The fields of a Route Table entry that stay fixed while it is ACTIVE and that the configuration store holds (R11, R178). -/
structure Route where
  key : RouteKey
  length : Nat
  timeout : Nat
  extractors : List Extractor
  deriving DecidableEq, Repr

/-- An ACTIVE entry (R11). -/
structure RouteEntry where
  route : Route
  hits : Nat
  rejects : Nat
  deriving DecidableEq, Repr

/-- The three parts of one extractor index of a build, each present or absent (R17). -/
structure BuildParts where
  a : Option ExtractorA
  b : Option ExtractorB
  c : Option Int
  deriving DecidableEq, Repr

/-- The build slot while BUILDING (R17): one `BuildParts` for each declared index. -/
structure Build where
  key : RouteKey
  length : Nat
  timeout : Nat
  parts : List BuildParts
  deriving DecidableEq, Repr

/-- The intake block: both queues, the Route Table and the build slot (EMPTY is `none`). -/
structure Intake where
  queue : List FrameRecord
  transmit : List TxFrame
  routes : List RouteEntry
  build : Option Build
  deriving DecidableEq, Repr

/-! ### Signal Table (chapter 2) -/

/-- The five slot states (R25). -/
inductive SlotState where
  | never
  | fresh
  | stale
  | notAvailable
  | error
  deriving DecidableEq, Repr

/-- Who last wrote a slot (R24). -/
inductive Writer where
  | none
  | part
  | route (key : RouteKey)
  deriving DecidableEq, Repr

/-- A slot record (R24). The age is held as `stamp`, the moment of the last write; `timeout` is in milliseconds. -/
structure SlotRecord where
  value : Int
  state : SlotState
  stamp : Nat
  timeout : Option Nat
  writer : Writer
  deriving DecidableEq, Repr

/-- The Signal Table (R24, R35). `frozenAt`: the moment the ages were held still at SLEEP entry (R37). -/
structure SignalTable where
  slots : Bank SlotRecord 96
  silentMark : Bool
  phaseBMark : Bool
  frozenAt : Option Nat
  deriving DecidableEq, Repr

/-! ### Gauge block (chapter 3) -/

/-- What the target does while no slot is FRESH (R41). -/
inductive StalePolicy where
  | hold
  | rest
  | restAfter
  deriving DecidableEq, Repr

/-- A calibration point (R41). -/
structure CurvePoint where
  value : Int
  position : Nat
  deriving DecidableEq, Repr

/-- The fields the live and the staged record share (R41, R42); the rest delay is in units of 0.1 s. -/
structure GaugeSettings where
  source : Nat
  fallback : Option Nat
  fullScale : Nat
  rest : Nat
  policy : StalePolicy
  restDelay : Nat
  deadBand : Nat
  intervals : Bank Nat 8
  deriving DecidableEq, Repr

/-- A live record (R41): the point count is the length of the curve. -/
structure LiveRecord where
  settings : GaugeSettings
  curve : List CurvePoint
  deriving DecidableEq, Repr

/-- A staged record (R42): eight points whatever the point count. -/
structure StagedRecord where
  settings : GaugeSettings
  points : Bank CurvePoint 8
  deriving DecidableEq, Repr

/-- A channel's condition (R47). -/
inductive ChannelState where
  | unhomed
  | homing
  | tracking
  | parking
  | parked
  | fault
  deriving DecidableEq, Repr

/-- The direction of a needle (R47). -/
inductive Direction where
  | up
  | down
  | none
  deriving DecidableEq, Repr

/-- A gauge channel: its two records and its dynamic fields (R41, R42, R47). -/
structure Channel where
  live : LiveRecord
  staged : StagedRecord
  state : ChannelState
  position : Nat
  target : Nat
  pending : Option Nat
  level : Nat
  direction : Direction
  driveIndex : Nat
  homingLeft : Nat
  stepTimer : Timer
  restTimer : Timer
  restMark : Bool
  parkMark : Bool
  cause : Option CoilFault
  deriving DecidableEq, Repr

/-! ### Telltale block (chapter 4) -/

/-- The life state of a rule (R67). -/
inductive RuleLife where
  | free
  | editing
  | live
  deriving DecidableEq, Repr

/-- The live state of a rule (R67). -/
inductive RuleLive where
  | inactive
  | pending
  | active
  deriving DecidableEq, Repr

/-- A rule's test (R67). -/
inductive RuleTest where
  | above
  | below
  | equal
  | notEqual
  | anyBit
  deriving DecidableEq, Repr

/-- A lit lamp's pattern (R67). -/
inductive LampPattern where
  | steady
  | slow
  | fast
  deriving DecidableEq, Repr

/-- What a rule finds while its slot has no current value (R67, R74). -/
inductive StaleAction where
  | toFalse
  | toTrue
  | keep
  deriving DecidableEq, Repr

/-- The three severities (00_scope.md, Severities). -/
inductive Severity where
  | info
  | caution
  | stop
  deriving DecidableEq, Repr

/-- Part A of a rule (R67). -/
structure RulePartA where
  lamp : Nat
  slot : Nat
  test : RuleTest
  pattern : LampPattern
  priority : Nat
  deriving DecidableEq, Repr

/-- Part C of a rule (R67); the confirm time is in units of 100 ms. -/
structure RulePartC where
  hysteresis : Nat
  staleAction : StaleAction
  errorAction : Bool
  confirmTime : Nat
  deriving DecidableEq, Repr

/-- Part D of a rule (R69): an alert code with its severity, or none. -/
structure RulePartD where
  alert : Option (Nat × Severity)
  deriving DecidableEq, Repr

/-- A rule record (R67); part B is the threshold. -/
structure Rule where
  life : RuleLife
  live : RuleLive
  a : Option RulePartA
  b : Option Int
  c : Option RulePartC
  d : Option RulePartD
  condition : Bool
  confirm : Timer
  releaseOwed : Bool
  deriving DecidableEq, Repr

/-- A lamp output (R86). `checked`: the lit interval under way has had its check. -/
structure Lamp where
  openMark : Bool
  checked : Bool
  deriving DecidableEq, Repr

/-- The telltale block (R67, R80, R82, R84, R86). -/
structure Telltale where
  rules : Bank Rule 64
  phase : Nat
  phaseTimer : Timer
  proveOut : Timer
  duty : Nat
  lamps : Bank Lamp 32
  deriving DecidableEq, Repr

/-! ### Alert block (chapter 5) -/

/-- The origin of an alert (R89). -/
inductive Origin where
  | rule (n : Nat)
  | gauge (n : Nat)
  | lamp (n : Nat)
  | speed
  | sensor
  | tacho (n : Nat)
  | port
  | config
  deriving DecidableEq, Repr

/-- An entry of the Alert Stack (R89). -/
structure AlertEntry where
  code : Nat
  severity : Severity
  origin : Origin
  held : Bool
  repeats : Nat
  raisedAt : Nat
  deriving DecidableEq, Repr

/-- A push (R90) or a release (R94) on its way to the alert block. -/
inductive AlertAction where
  | push (code : Nat) (severity : Severity) (origin : Origin)
  | release (code : Nat) (origin : Origin)
  deriving DecidableEq, Repr

/-- The four chime patterns (R102). -/
inductive ChimePattern where
  | info
  | refuse
  | caution
  | stop
  deriving DecidableEq, Repr

/-- The pattern that is playing (R103): the interval it is in and the moment it began. -/
structure Playing where
  pattern : ChimePattern
  interval : Nat
  began : Nat
  deriving DecidableEq, Repr

/-- The alert block with the chime and the ACK debounce (R89, R95, R101, R103). -/
structure AlertBlock where
  stack : List AlertEntry
  lost : Nat
  backlog : List AlertAction
  playing : Option Playing
  chimeTimer : Timer
  tone : Bool
  toneTimer : Timer
  ackArmed : Bool
  ackHold : Timer
  ackRelease : Timer
  deriving DecidableEq, Repr

/-! ### Distance block (chapter 6) -/

/-- An entry of the calibration history (R117). -/
structure CalEntry where
  oldK : Nat
  newK : Nat
  odometer : Nat
  deriving DecidableEq, Repr

/-- The distance block (R106 to R125). `reverse`: the direction held is REVERSE. -/
structure Distance where
  spaLevel : Bool
  spbLevel : Bool
  spaTimer : Timer
  spbTimer : Timer
  filterReject : Nat
  reverse : Bool
  phaseB : Nat
  ring : List Nat
  lastPulse : Option Nat
  zeroTimer : Timer
  accumulator : Nat
  liveOdo : Nat
  storedOdo : Nat
  kFactor : Nat
  history : List CalEntry
  sealed : Bool
  deriving DecidableEq, Repr

/-! ### Tachograph block (chapter 7) -/

/-- The two drivers. -/
inductive Driver where
  | one
  | two
  deriving DecidableEq, Repr

/-- A driver counter record's state (R128). -/
inductive DriverState where
  | noDriver
  | estimating
  | confirmed
  deriving DecidableEq, Repr

/-- How the latest card transfer of a driver ended (R128). -/
inductive TransferOutcome where
  | none
  | ok
  | timeout
  | sequence
  | length
  | crc
  | format
  | aborted
  | stopped
  deriving DecidableEq, Repr

/-- The fields of a valid card summary (R144). -/
structure Summary where
  card : List Byte
  year : Nat
  month : Nat
  day : Nat
  contDrive : Nat
  daily : Option Nat
  weekly : Option Nat
  name : List Byte
  deriving DecidableEq, Repr

/-- A driver counter record (R128) with the driver's card summary record (R144; not valid is `none`). -/
structure DriverRecord where
  state : DriverState
  contDrive : Nat
  breakAccum : Nat
  stretch : Nat
  sinceReconcile : Nat
  outcome : TransferOutcome
  summary : Option Summary
  deriving DecidableEq, Repr

/-- An entry of the readout queue (R134). -/
structure Readout where
  driver : Driver
  attempt : Nat
  deriving DecidableEq, Repr

/-- The transfer record (R136, R138, R139). -/
inductive Transfer where
  | idle
  | requested (driver : Driver) (attempt : Nat)
  | receiving (driver : Driver) (attempt total expected count : Nat) (payload : List Byte)
  deriving DecidableEq, Repr

/-- The side being timed by the mismatch monitor (R147). -/
inductive MismatchSide where
  | none
  | inside
  | outside
  deriving DecidableEq, Repr

/-- The tachograph block (R126 to R150). -/
structure Tacho where
  d1 : DriverRecord
  d2 : DriverRecord
  readout : List Readout
  transfer : Transfer
  transferTimer : Timer
  /-- The moment of the timer's expiry of which the transfer in flight is the retry; the model's own (R143, log 34). -/
  restarted : Option Nat
  minuteTimer : Timer
  side : MismatchSide
  mismatchTimer : Timer
  watch : Timer
  stray : Nat
  deriving DecidableEq, Repr

/-! ### Display link (chapter 8) -/

/-- The five link states (R152). -/
inductive LinkState where
  | off
  | idle
  | waiting
  | sending
  | fault
  deriving DecidableEq, Repr

/-- The six record kinds (R153). -/
inductive RecordKind where
  | topAlert
  | pageSelect
  | driverPage1
  | driverPage2
  | distancePage
  | alertList
  deriving DecidableEq, Repr

/-- The dirty set (R153): one mark for each kind. -/
structure DirtySet where
  topAlert : Bool
  pageSelect : Bool
  driverPage1 : Bool
  driverPage2 : Bool
  distancePage : Bool
  alertList : Bool
  deriving DecidableEq, Repr

/-- The transfer under way (R156): the bytes built at its start. -/
structure Sending where
  kind : RecordKind
  bytes : List Byte
  deriving DecidableEq, Repr

/-- The display link and the PAGE debounce (R151 to R158). `csFree`: 4 µs after chip select was last released. -/
structure Display where
  link : LinkState
  page : Nat
  dirty : DirtySet
  readyTimer : Timer
  retryTimer : Timer
  startTimer : Timer
  sending : Option Sending
  doneTimer : Timer
  csFree : Nat
  sent : Nat
  readyTimeout : Nat
  pageArmed : Bool
  pagePress : Option Nat
  pageKnown : Bool
  pageRelease : Timer
  deriving DecidableEq, Repr

/-! ### Management and stores (chapters 9 and 10) -/

/-- A pending restart (R177): how many frames must leave the transmit queue until the RESTART response has left,
and the moment of the 250 ms limit. -/
structure PendingRestart where
  ahead : Nat
  limit : Nat
  deriving DecidableEq, Repr

/-- Management's own state (R168, R170, R173, R177). -/
structure Management where
  flags : BitVec 12
  mask : BitVec 12
  held : Bank Int 27
  inEffect : Bank Int 27
  restart : Option PendingRestart
  deriving DecidableEq, Repr

/-- A LIVE rule as the configuration store holds it (R178). -/
structure StoredRule where
  index : Nat
  a : RulePartA
  b : Int
  c : RulePartC
  d : RulePartD
  deriving DecidableEq, Repr

/-- The image of the configuration store (R178). -/
structure ConfigImage where
  routes : List Route
  gauges : Bank LiveRecord 8
  rules : List StoredRule
  params : Bank Int 27
  deriving DecidableEq, Repr

/-- The image of the calibration store (R182). -/
structure CalImage where
  kFactor : Nat
  history : List CalEntry
  sealed : Bool
  odometer : Nat
  deriving DecidableEq, Repr

/-- What a store holds: nothing, bytes whose CRC does not match, or an image with its matching CRC (log 10). -/
inductive StoreContents (α : Type) where
  | blank
  | bad
  | image (contents : α)
  deriving DecidableEq, Repr

/-- The calibration write state (R182), with the image being written. -/
inductive CalWrite where
  | idle
  | writing (contents : CalImage)
  | writingPending (contents : CalImage)
  deriving DecidableEq, Repr

/-- The store block (R178 to R185). `report`: VALID. `saveCut`: the last SLEEP entry cut a save short (R180). -/
structure Store where
  config : StoreContents ConfigImage
  report : Bool
  save : Option ConfigImage
  saveLimit : Timer
  saveCut : Bool
  calibration : StoreContents CalImage
  write : CalWrite
  writeTimer : Timer
  deriving DecidableEq, Repr

/-! ### The whole part -/

/-- The state of the part. `clock` (microseconds), `powered`, `fresh` (free values used, log 14) and `pending` (the
commands waiting, first in first out) are the model's own. -/
structure State where
  clock : Nat
  powered : Bool
  ign : Ignition
  pins : Pins
  portT : PortBlock
  portL : PortBlock
  intake : Intake
  table : SignalTable
  gauges : Bank Channel 8
  telltale : Telltale
  alert : AlertBlock
  dist : Distance
  tacho : Tacho
  display : Display
  mgmt : Management
  store : Store
  fresh : Nat
  pending : List Instr
  deriving DecidableEq, Repr

/-- Why a command could stop the machine with a fault: no command does. Safe: nothing is claimed of a stop. -/
inductive Fault where
  deriving DecidableEq, Repr

/-- Why a command has no meaning. -/
inductive Refusal where
  /-- Raised by an arm of exec that has no meaning yet. Safe: the model stops where the part goes on. -/
  | notModelled (mnemonic : String)
  deriving DecidableEq, Repr

/-! ### Power-on values of each block -/

/-- R186. -/
def Ignition.powerOn : Ignition :=
  { power := .sleep, hold := false, level := false, timer := none, reports := Bank.fill 8 .none,
    proveOutRunning := false, saveMark := false, writeMark := false, parkingTimer := none, runSeconds := 0,
    secondTimer := none }

/-- R6. The lost mark is clear: the manual gives it only from a turn-on (R4), so its value here is the model's choice (log 9). -/
def PortBlock.off : PortBlock :=
  { on := false, state := .active, txErrors := 0, rxErrors := 0, silence := none, recovery := none, lost := false,
    awaiting := false, received := 0, unrouted := 0, queueDrop := 0, stdDiscard := 0, foreignMgmt := 0, txDrop := 0 }

/-- R10, R16, R17. -/
def Intake.empty : Intake := { queue := [], transmit := [], routes := [], build := none }

/-- A frame slot with no write since its reset (R28, R37). -/
def SlotRecord.frameNever : SlotRecord := { value := 0, state := .never, stamp := 0, timeout := none, writer := .none }

/-- An internal slot with no write since its reset (R37). -/
def SlotRecord.internalNever : SlotRecord := { SlotRecord.frameNever with writer := .part }

/-- Slots 0 to 15 are internal slots, 16 to 95 frame slots (00_scope.md, Slots; R37). -/
def SignalTable.reset : SignalTable :=
  { slots := ⟨List.replicate 16 SlotRecord.internalNever ++ List.replicate 80 SlotRecord.frameNever, by
      rw [List.length_append, List.length_replicate, List.length_replicate]⟩,
    silentMark := false, phaseBMark := false, frozenAt := none }

/-- The settings of the factory record (R45). -/
def GaugeSettings.factory : GaugeSettings :=
  { source := 0, fallback := none, fullScale := 1, rest := 0, policy := .rest, restDelay := 0, deadBand := 0,
    intervals := Bank.fill 8 2000 }

/-- The factory record (R45): curve points (0, 0) and (1, 0). -/
def LiveRecord.factory : LiveRecord := { settings := GaugeSettings.factory, curve := [⟨0, 0⟩, ⟨1, 0⟩] }

/-- The staged copy of the factory record (R45). -/
def StagedRecord.factory : StagedRecord :=
  { settings := GaugeSettings.factory, points := (Bank.fill 8 ⟨0, 0⟩).put 1 ⟨1, 0⟩ }

/-- A channel after power-on (R45, R47). -/
def Channel.powerOn : Channel :=
  { live := LiveRecord.factory, staged := StagedRecord.factory, state := .unhomed, position := 0, target := 0,
    pending := none, level := 0, direction := .none, driveIndex := 0, homingLeft := 0, stepTimer := none,
    restTimer := none, restMark := false, parkMark := false, cause := none }

/-- A FREE rule (R67). -/
def Rule.blank : Rule :=
  { life := .free, live := .inactive, a := none, b := none, c := none, d := none, condition := false, confirm := none,
    releaseOwed := false }

/-- R87. -/
def Telltale.powerOn : Telltale :=
  { rules := Bank.fill 64 Rule.blank, phase := 0, phaseTimer := none, proveOut := none, duty := 100,
    lamps := Bank.fill 32 ⟨false, false⟩ }

/-- R100, R105, R95. -/
def AlertBlock.powerOn : AlertBlock :=
  { stack := [], lost := 0, backlog := [], playing := none, chimeTimer := none, tone := false, toneTimer := none,
    ackArmed := true, ackHold := none, ackRelease := none }

/-- R123. -/
def Distance.powerOn : Distance :=
  { spaLevel := false, spbLevel := false, spaTimer := none, spbTimer := none, filterReject := 0, reverse := false,
    phaseB := 0, ring := [], lastPulse := none, zeroTimer := none, accumulator := 0, liveOdo := 0, storedOdo := 0,
    kFactor := 8000, history := [], sealed := false }

/-- R149. -/
def DriverRecord.cleared : DriverRecord :=
  { state := .noDriver, contDrive := 0, breakAccum := 0, stretch := 0, sinceReconcile := 0, outcome := .none,
    summary := none }

/-- R149. -/
def Tacho.powerOn : Tacho :=
  { d1 := DriverRecord.cleared, d2 := DriverRecord.cleared, readout := [], transfer := .idle, transferTimer := none, restarted := none,
    minuteTimer := none, side := .none, mismatchTimer := none, watch := none, stray := 0 }

/-- No mark set. -/
def DirtySet.clean : DirtySet :=
  { topAlert := false, pageSelect := false, driverPage1 := false, driverPage2 := false, distancePage := false,
    alertList := false }

/-- R163. -/
def Display.powerOn : Display :=
  { link := .off, page := 0, dirty := DirtySet.clean, readyTimer := none, retryTimer := none, startTimer := none,
    sending := none, doneTimer := none, csFree := 0, sent := 0, readyTimeout := 0, pageArmed := true,
    pagePress := none, pageKnown := false, pageRelease := none }

/-- The defaults of the parameters, ids 0 to 26 (R173). -/
def defaultParams : Bank Int 27 :=
  ⟨[250, 250, 1000, 3000, -1, 10, 16, 0, 20, 2000, -1, -1, -1, -1, -1, -1, -1, 270, 45, 15, 10, 3, 10,
    0x1B7A0010, 0x1B7A0011, 0x1B7A0020, 0x1B7A0021], rfl⟩

/-- R168, R170, R173, R177. -/
def Management.powerOn : Management :=
  { flags := 0, mask := 0, held := defaultParams, inEffect := defaultParams, restart := none }

/-- A store block that has never written (log 9). -/
def Store.blankPart : Store :=
  { config := .blank, report := true, save := none, saveLimit := none, saveCut := false, calibration := .blank,
    write := .idle, writeTimer := none }

/-- The part right after power-on with IGN low and stores never written: SLEEP, every block at its power-on value
(R6, R10, R16, R17, R37, R45, R47, R87, R100, R105, R123, R149, R163, R168, R170, R173, R185, R186); the input
levels and the stores' contents are the model's choice (log 9). -/
def State.reset : State :=
  { clock := 0, powered := true, ign := Ignition.powerOn, pins := ⟨false, false, false, false, false, false⟩,
    portT := PortBlock.off, portL := PortBlock.off, intake := Intake.empty, table := SignalTable.reset,
    gauges := Bank.fill 8 Channel.powerOn, telltale := Telltale.powerOn, alert := AlertBlock.powerOn,
    dist := Distance.powerOn, tacho := Tacho.powerOn, display := Display.powerOn, mgmt := Management.powerOn,
    store := Store.blankPart, fresh := 0, pending := [] }

end Sys2Proof.Machine
end

