-- ==== Sys2Proof/Machine/Operands.lean ====
section
/-! DEFINITION. How the part reads the fields of a frame and writes the fields of a response or record (R193 to R196), takes
an extractor's field (R13, R14), and reads a transfer frame and a card summary payload (R137, R140, R141, R194, R195). -/

namespace Sys2Proof.Machine

/-! ### Numbers in bytes (R193) -/

/-- The integer of some bytes, the first least significant (R193). -/
def leNat : List Byte → Nat
  | [] => 0
  | b :: rest => b.toNat + 256 * leNat rest

/-- `k` bytes of a number, the first least significant (R193). -/
def leBytes : Nat → Nat → List Byte
  | 0, _ => []
  | k + 1, v => BitVec.ofNat 8 v :: leBytes k (v / 256)

/-- A pattern of `w` bits read in two's complement (R13, R193). -/
def toSigned (w n : Nat) : Int := if n < 2 ^ (w - 1) then (n : Int) else (n : Int) - 2 ^ w

/-- The `w`-bit two's complement pattern of a number (R193). -/
def ofSigned (w : Nat) (v : Int) : Nat := (v % (2 : Int) ^ w).toNat

/-- One mark as a bit. -/
def bit (b : Bool) : Nat := if b then 1 else 0

/-- One byte of data. -/
def u8 (n : Nat) : List Byte := leBytes 1 n
/-- Two bytes of data. -/
def u16 (n : Nat) : List Byte := leBytes 2 n
/-- Four bytes of data. -/
def u32 (n : Nat) : List Byte := leBytes 4 n
/-- Four bytes of signed data. -/
def s32 (v : Int) : List Byte := u32 (ofSigned 32 v)

/-- Byte `i` of a record; a byte beyond the data length reads as 0 (R164). -/
def FrameRecord.byte (r : FrameRecord) (i : Nat) : Nat := (r.data.getD i 0).toNat

/-- The two-byte field at byte `i`. -/
def FrameRecord.word (r : FrameRecord) (i : Nat) : Nat := r.byte i + 256 * r.byte (i + 1)

/-- The four-byte field at byte `i`. -/
def FrameRecord.long (r : FrameRecord) (i : Nat) : Nat := r.word i + 65536 * r.word (i + 2)

/-- The signed four-byte field at byte `i`. -/
def FrameRecord.signedLong (r : FrameRecord) (i : Nat) : Int := toSigned 32 (r.long i)

/-! ### Route keys (R193) -/

/-- The port bit of a route key word. -/
def portBit (p : Port) : Nat :=
  match p with
  | .tractor => 0
  | .trailer => 1

/-- The route key of a key word: bits 0–28 the identifier, bit 31 the port. -/
def keyOfWord (w : Nat) : RouteKey :=
  { port := if w / 2 ^ 31 % 2 = 1 then .trailer else .tractor, identifier := w % 2 ^ 29 }

/-- Bits 29–30 of a key word. -/
def keySpare (w : Nat) : Nat := w / 2 ^ 29 % 4

/-- The key word of a route key, bits 29–30 being 0. -/
def keyWord (k : RouteKey) : Nat := k.identifier + 2 ^ 31 * portBit k.port

/-! ### Extraction (R13, R14) -/

/-- The frame bits as one number, bit n of it being frame bit n (00_scope.md, Frame bytes and bits). -/
def frameBits (data : List Byte) : Nat := leNat data

/-- The whole bytes of a HIGH_FIRST field, the first most significant. -/
def beNat (bytes : List Byte) : Nat := bytes.foldl (fun acc b => acc * 256 + b.toNat) 0

/-- The raw field of an extractor (R13). -/
def rawField (a : ExtractorA) (data : List Byte) : Nat :=
  match a.order with
  | .lowFirst => frameBits data / 2 ^ a.start % 2 ^ a.width
  | .highFirst => beNat ((data.drop (a.start / 8)).take (a.width / 8))

/-- The raw value of a pattern (R13). -/
def rawValue (a : ExtractorA) (raw : Nat) : Int := if a.signed then toSigned a.width raw else (raw : Int)

/-- What a write carries to a slot (R26). -/
inductive SlotWrite where
  | fresh (value : Int)
  | notAvailable
  | error
  deriving DecidableEq, Repr

/-- A signed 32-bit number (00_scope.md, Signal values). -/
def fits32 (v : Int) : Bool := decide (-2147483648 ≤ v) && decide (v ≤ 2147483647)

/-- The write an extractor forms from a frame's data (R14). -/
def extract (e : Extractor) (data : List Byte) : SlotWrite :=
  let raw := rawField e.a data
  if e.a.coded && decide (2 ≤ e.a.width) && decide (raw = 2 ^ e.a.width - 1) then .notAvailable
  else if e.a.coded && decide (2 ≤ e.a.width) && decide (raw = 2 ^ e.a.width - 2) then .error
  else
    let v := Int.tdiv (rawValue e.a raw * e.b.multiplier) e.b.divisor + e.offset
    if fits32 v then .fresh v else .error

/-! ### CRC-16 (R140) -/

/-- One bit shifted out of the register. -/
def crcBit (r : BitVec 16) : BitVec 16 := if r.msb then (r <<< 1) ^^^ 0x1021#16 else r <<< 1

/-- One byte taken into the register. -/
def crcByte (r : BitVec 16) (b : Byte) : BitVec 16 :=
  let x := r ^^^ (BitVec.ofNat 16 b.toNat <<< 8)
  crcBit (crcBit (crcBit (crcBit (crcBit (crcBit (crcBit (crcBit x)))))))

/-- The CRC-16 of some bytes in order. -/
def crc16 (bytes : List Byte) : BitVec 16 := bytes.foldl crcByte 0xFFFF#16

/-! ### Transfer frames and payloads (R137, R141, R194, R195) -/

/-- A transfer frame of the tachograph with the driver it names (R194). -/
inductive XferFrame where
  | opening (driver : Driver) (total : Nat)
  | data (driver : Driver) (number : Nat) (bytes : List Byte)
  | closing (driver : Driver) (crc : BitVec 16)
  | aborting (driver : Driver)
  deriving DecidableEq, Repr

/-- The driver of a driver number. -/
def driverOf (n : Nat) : Option Driver :=
  match n with
  | 1 => some .one
  | 2 => some .two
  | _ => none

/-- The number of a driver. -/
def Driver.number (d : Driver) : Nat :=
  match d with
  | .one => 1
  | .two => 2

/-- A record on TACHO_XFER_ID read as a transfer frame; none for a kind, driver or length that R194 calls stray. -/
def readXfer (r : FrameRecord) : Option XferFrame :=
  match driverOf (r.byte 0 % 16) with
  | none => none
  | some d =>
    match r.byte 0 / 16 with
    | 1 => if 2 ≤ r.data.length then some (.opening d (r.byte 1)) else none
    | 2 => if 8 ≤ r.data.length then some (.data d (r.byte 1) ((r.data.drop 2).take 6)) else none
    | 3 => if 3 ≤ r.data.length then some (.closing d (BitVec.ofNat 16 (r.byte 1 * 256 + r.byte 2))) else none
    | 4 => if 1 ≤ r.data.length then some (.aborting d) else none
    | _ => none

/-- The driver a transfer frame names. -/
def XferFrame.driver (f : XferFrame) : Driver :=
  match f with
  | .opening d _ => d
  | .data d _ _ => d
  | .closing d _ => d
  | .aborting d => d

/-- A character a card number or name may hold (R141). -/
def printable (b : Byte) : Bool := decide (0x20 ≤ b.toNat) && decide (b.toNat ≤ 0x7E)

/-- A payload parsed (R141, R195); none is a failure with FORMAT. Its two-byte fields are read with the first byte
least significant (DEDUCED from R193, log 15). -/
def parseSummary (total : Nat) (p : List Byte) : Option Summary :=
  let at8 := fun i => (p.getD i 0).toNat
  let at16 := fun i => at8 i + 256 * at8 (i + 1)
  let hasDaily := at8 23 % 2 = 1
  let hasWeekly := at8 23 / 2 % 2 = 1
  let weeklyAt := if hasDaily then 26 else 24
  let lengthAt := if hasWeekly then weeklyAt + 2 else weeklyAt
  let nameLength := at8 lengthAt
  let card := (p.drop 1).take 16
  let name := (p.drop (lengthAt + 1)).take nameLength
  let daily := if hasDaily then some (at16 24) else none
  let weekly := if hasWeekly then some (at16 weeklyAt) else none
  if lengthAt < total ∧ lengthAt + 1 + nameLength = total ∧ at8 0 = 1 ∧ card.all printable = true ∧
      name.all printable = true ∧ 1 ≤ at8 19 ∧ at8 19 ≤ 12 ∧ 1 ≤ at8 20 ∧ at8 20 ≤ 31 ∧ at16 21 ≤ 1439 ∧
      nameLength ≤ 20 ∧ daily.getD 0 ≤ 1440 ∧ weekly.getD 0 ≤ 10080 then
    some { card := card, year := at16 17, month := at8 19, day := at8 20, contDrive := at16 21, daily := daily,
           weekly := weekly, name := name }
  else none

/-! ### Codes of the response and record fields -/

/-- R25. -/
def SlotState.code (s : SlotState) : Nat :=
  match s with
  | .never => 0
  | .fresh => 1
  | .stale => 2
  | .notAvailable => 3
  | .error => 4

/-- R36, selector 1. -/
def Writer.code (w : Writer) : Nat :=
  match w with
  | .none => 0
  | .part => 1
  | .route k => 2 + portBit k.port

/-- R36, selector 2. -/
def Writer.identifier (w : Writer) : Nat :=
  match w with
  | .none => 0
  | .part => 0
  | .route k => k.identifier

/-- R172, selectors 2 and 6. -/
def PortState.code (p : PortState) : Nat :=
  match p with
  | .active => 0
  | .passive => 1
  | .busOff => 2

/-- R165: the power states of a response; in SLEEP no response is made. -/
def PowerState.code (p : PowerState) : Nat :=
  match p with
  | .sleep => 0
  | .waking => 0
  | .run => 1
  | .parking => 2

/-- R46, selector 0. -/
def ChannelState.code (c : ChannelState) : Nat :=
  match c with
  | .unhomed => 0
  | .homing => 1
  | .tracking => 2
  | .parking => 3
  | .parked => 4
  | .fault => 5

/-- R46, selector 0. -/
def Direction.code (d : Direction) : Nat :=
  match d with
  | .none => 0
  | .up => 1
  | .down => 2

/-- R46, selector 0. -/
def causeCode (c : Option CoilFault) : Nat :=
  match c with
  | none => 0
  | some .openA => 1
  | some .openB => 2
  | some .overA => 3
  | some .overB => 4

/-- R42, field 4. -/
def StalePolicy.code (p : StalePolicy) : Nat :=
  match p with
  | .hold => 0
  | .rest => 1
  | .restAfter => 2

/-- R42, field 4. -/
def StalePolicy.ofCode (n : Nat) : StalePolicy :=
  match n with
  | 0 => .hold
  | 1 => .rest
  | _ => .restAfter

/-- R72, selector 0. -/
def RuleLife.code (l : RuleLife) : Nat :=
  match l with
  | .free => 0
  | .editing => 1
  | .live => 2

/-- R72, selector 0. -/
def RuleLive.code (l : RuleLive) : Nat :=
  match l with
  | .inactive => 0
  | .pending => 1
  | .active => 2

/-- R68. -/
def RuleTest.code (t : RuleTest) : Nat :=
  match t with
  | .above => 0
  | .below => 1
  | .equal => 2
  | .notEqual => 3
  | .anyBit => 4

/-- R68. -/
def RuleTest.ofCode (n : Nat) : Option RuleTest :=
  match n with
  | 0 => some .above
  | 1 => some .below
  | 2 => some .equal
  | 3 => some .notEqual
  | 4 => some .anyBit
  | _ => none

/-- R68. -/
def LampPattern.code (p : LampPattern) : Nat :=
  match p with
  | .steady => 0
  | .slow => 1
  | .fast => 2

/-- R68. -/
def LampPattern.ofCode (n : Nat) : Option LampPattern :=
  match n with
  | 0 => some .steady
  | 1 => some .slow
  | 2 => some .fast
  | _ => none

/-- R68. -/
def StaleAction.code (a : StaleAction) : Nat :=
  match a with
  | .toFalse => 0
  | .toTrue => 1
  | .keep => 2

/-- R68. -/
def StaleAction.ofCode (n : Nat) : Option StaleAction :=
  match n with
  | 0 => some .toFalse
  | 1 => some .toTrue
  | 2 => some .keep
  | _ => none

/-- 00_scope.md, Severities: 1 INFO, 2 CAUTION, 3 STOP. -/
def Severity.rank (s : Severity) : Nat :=
  match s with
  | .info => 1
  | .caution => 2
  | .stop => 3

/-- 00_scope.md, Severities. -/
def Severity.ofCode (n : Nat) : Option Severity :=
  match n with
  | 1 => some .info
  | 2 => some .caution
  | 3 => some .stop
  | _ => none

/-- R99, selector 1. -/
def Origin.kindCode (o : Origin) : Nat :=
  match o with
  | .rule _ => 0
  | .gauge _ => 1
  | .lamp _ => 2
  | .speed => 3
  | .sensor => 4
  | .tacho _ => 5
  | .port => 6
  | .config => 7

/-- R99, selector 1. -/
def Origin.number (o : Origin) : Nat :=
  match o with
  | .rule n => n
  | .gauge n => n
  | .lamp n => n
  | .tacho n => n
  | .speed => 0
  | .sensor => 0
  | .port => 0
  | .config => 0

/-- R102: the rank of a pattern, which is also its code in ALERT_READ (R99). -/
def ChimePattern.rank (p : ChimePattern) : Nat :=
  match p with
  | .info => 1
  | .refuse => 2
  | .caution => 3
  | .stop => 4

/-- R145, selector 0. -/
def DriverState.code (d : DriverState) : Nat :=
  match d with
  | .noDriver => 0
  | .estimating => 1
  | .confirmed => 2

/-- R145, selector 1. -/
def TransferOutcome.code (o : TransferOutcome) : Nat :=
  match o with
  | .none => 0
  | .ok => 1
  | .timeout => 2
  | .sequence => 3
  | .length => 4
  | .crc => 5
  | .format => 6
  | .aborted => 7
  | .stopped => 8

/-- R145, selector 6. -/
def MismatchSide.code (m : MismatchSide) : Nat :=
  match m with
  | .none => 0
  | .inside => 1
  | .outside => 2

/-- R162, selector 0. -/
def LinkState.code (l : LinkState) : Nat :=
  match l with
  | .off => 0
  | .idle => 1
  | .waiting => 2
  | .sending => 3
  | .fault => 4

/-- The result codes (R166). -/
inductive ResultCode where
  | ok
  | installed
  | badRequest
  | badArg
  | busy
  | sealed
  | full
  | present
  | notFound
  | conflict
  | historyFull
  | noChange
  | empty
  | refused
  | wrongState
  deriving DecidableEq, Repr

/-- The value of a result code (R166). -/
def ResultCode.code (r : ResultCode) : Nat :=
  match r with
  | .ok => 0
  | .installed => 1
  | .badRequest => 2
  | .badArg => 3
  | .busy => 4
  | .sealed => 5
  | .full => 6
  | .present => 7
  | .notFound => 8
  | .conflict => 9
  | .historyFull => 10
  | .noChange => 11
  | .empty => 12
  | .refused => 13
  | .wrongState => 14

end Sys2Proof.Machine
end

