-- ==== Sys2Proof/Machine/Ops.lean ====
section
/-! DEFINITION. The operations every block shares: the clock and its timers, the parameters, the ports' counts, the transmit
queue and the responses, and the slot records. -/

namespace Sys2Proof.Machine

/-- What a command answers. -/
abbrev Answer := Host.Outcome State Fault Refusal

/-! ### The clock and its timers (log 1, log 2) -/

/-- The clock stands at the moment `due`, or stays where that moment has passed. -/
def State.reach (s : State) (due : Nat) : State := { s with clock := max s.clock due }

/-- A timer started now with `us` microseconds. -/
def State.after (s : State) (us : Nat) : Timer := some (s.clock + us)

/-- The expiry of timer `t`: nothing while it is stopped (log 3); otherwise its moment comes and `f` follows. -/
def onExpiry (t : Timer) (f : State → State) (s : State) : Answer :=
  match t with
  | none => .next s
  | some due => .next (f (s.reach due))

/-! ### Parameters (R173) -/

/-- The deferred parameters: those whose change acts at the next WAKING entry (R173). -/
def deferred (id : Nat) : Bool :=
  id == 0 || id == 1 || id == 3 || id == 7 || id == 8 || (23 ≤ id && id ≤ 26)

/-- The held value of a parameter (R173). -/
def State.held (s : State) (id : Nat) : Int := s.mgmt.held.get id 0

/-- The value in effect of a parameter (R173). -/
def State.param (s : State) (id : Nat) : Int := if deferred id then s.mgmt.inEffect.get id 0 else s.held id

/-- The value in effect of a parameter that is never negative. -/
def State.paramNat (s : State) (id : Nat) : Nat := (s.param id).toNat

/-- The slot a parameter names, or none while it is unset (−1). -/
def State.paramSlot (s : State) (id : Nat) : Option Nat := if 0 ≤ s.param id then some (s.paramNat id) else none

/-- MGMT_REQ_ID (R176). -/
def State.mgmtReqId (s : State) : Nat := s.paramNat 23
/-- MGMT_RSP_ID (R176). -/
def State.mgmtRspId (s : State) : Nat := s.paramNat 24
/-- TACHO_REQ_ID (R176). -/
def State.tachoReqId (s : State) : Nat := s.paramNat 25
/-- TACHO_XFER_ID (R176). -/
def State.tachoXferId (s : State) : Nat := s.paramNat 26

/-! ### Ports -/

/-- One port. -/
def State.port (s : State) (p : Port) : PortBlock :=
  match p with
  | .tractor => s.portT
  | .trailer => s.portL

/-- One port replaced. -/
def State.setPort (s : State) (p : Port) (b : PortBlock) : State :=
  match p with
  | .tractor => { s with portT := b }
  | .trailer => { s with portL := b }

/-- The state the error counts give a port that is not in BUS_OFF (R2). -/
def PortBlock.judge (b : PortBlock) : PortBlock :=
  { b with state := if b.txErrors < 128 && b.rxErrors < 128 then .active else .passive }

/-- The port takes part in its segment: it is on and not in BUS_OFF (R1, R3). -/
def PortBlock.working (b : PortBlock) : Bool := b.on && decide (b.state ≠ .busOff)

/-! ### The transmit queue and the responses (R9, R165) -/

/-- A frame offered to the transmit queue: it joins the tail, or is dropped at a full queue and counted (R9). -/
def State.offer (s : State) (f : TxFrame) : State :=
  if s.intake.transmit.length < transmitRoom then { s with intake.transmit := s.intake.transmit ++ [f] }
  else { s with portT.txDrop := satInc count16 s.portT.txDrop }

/-- Byte 3 of a response and byte 6 of a notice: the power state and the SAVING mark (R165, section 12.1). -/
def State.statusByte (s : State) : Nat := s.ign.power.code + 128 * bit s.store.save.isSome

/-- The response code of a request code (R165). -/
def responseCode (code : Nat) : Nat := if code % 128 = 127 then 128 else code % 128 + 128

/-- The response to record `r` (R165, section 12.1): code, tag, result, status and four data bytes. -/
def State.response (s : State) (r : FrameRecord) (result : ResultCode) (data : List Byte) : TxFrame :=
  { identifier := s.mgmtRspId,
    data := u8 (responseCode (r.byte 0)) ++ u8 (r.byte 1) ++ u8 result.code ++ u8 s.statusByte ++
      (data ++ [0, 0, 0, 0]).take 4 }

/-- What a request comes to: its result, its data, and its effect, which follows the response (R165, R171, log 8). -/
structure Verdict where
  result : ResultCode
  data : List Byte
  effect : State → State

/-- A request answered with `result` and nothing else. -/
def refuse (result : ResultCode) : Verdict := { result := result, data := [], effect := id }

/-- A request answered OK with data and no effect: a read. -/
def reads (data : List Byte) : Verdict := { result := .ok, data := data, effect := id }

/-- A request answered OK without data. -/
def accepts (effect : State → State) : Verdict := { result := .ok, data := [], effect := effect }

/-- The first check of a request that R167 lists as BUSY during a save. -/
def unlessSaving (s : State) (v : Verdict) : Verdict := if s.store.save.isSome then refuse .busy else v

/-- The codes that name a request (section 12.1). -/
def requestCodes : List Nat :=
  [0x01, 0x02, 0x03, 0x04, 0x05, 0x06, 0x08, 0x09, 0x10, 0x11, 0x12, 0x13, 0x14, 0x15, 0x18, 0x20, 0x21, 0x22, 0x28,
   0x29, 0x2A, 0x2B, 0x2C, 0x2D, 0x2E, 0x2F, 0x30, 0x31, 0x38, 0x39, 0x3A, 0x3B, 0x3C, 0x40, 0x41, 0x48]

/-- The record is a management request: port T and MGMT_REQ_ID (R8, case 1). -/
def State.isMgmt (s : State) (r : FrameRecord) : Bool :=
  decide (r.port = .tractor) && decide (r.identifier = s.mgmtReqId)

/-- The record passes the form check and its code names the request `code` (R164). -/
def State.isRequest (s : State) (code : Nat) (r : FrameRecord) : Bool :=
  s.isMgmt r && decide (r.data.length = 8) && decide (r.byte 0 = code)

/-- The classifier takes the record at the head of the intake queue if it is on the path `path` (R8); while a restart
is pending it takes none (R177). The record leaves the queue before `f` acts on it. -/
def takeHead (path : State → FrameRecord → Bool) (f : FrameRecord → State → State) (s : State) : Answer :=
  match s.intake.queue with
  | [] => .next s
  | r :: rest =>
    if s.mgmt.restart.isNone && path s r then .next (f r { s with intake.queue := rest }) else .next s

/-- The response is offered and then the verdict's effect follows (R165, log 8). -/
def State.answer (s : State) (r : FrameRecord) (v : Verdict) : State := v.effect (s.offer (s.response r v.result v.data))

/-- The request `code` at the head of the intake queue is judged, answered and carried out (R164, R165). -/
def onRequest (code : Nat) (judge : FrameRecord → State → Verdict) (s : State) : Answer :=
  takeHead (fun t r => t.isRequest code r) (fun r t => t.answer r (judge r t)) s

/-! ### Slots (R24 to R30) -/

/-- One slot record. -/
def State.slot (s : State) (n : Nat) : SlotRecord := s.table.slots.get n SlotRecord.frameNever

/-- One slot record replaced. -/
def State.putSlot (s : State) (n : Nat) (r : SlotRecord) : State := { s with table.slots := s.table.slots.put n r }

/-- The moment by which ages are counted: the clock, or the moment of SLEEP entry while the table is held still (R37). -/
def State.slotTime (s : State) : Nat := s.table.frozenAt.getD s.clock

/-- The age of a record in whole milliseconds (R24, R27). A slot that has not expired is below its timeout (log 5). -/
def SlotRecord.age (r : SlotRecord) (now : Nat) : Nat :=
  let elapsed := min ((now - r.stamp) / 1000) 65535
  match r.state, r.timeout with
  | .never, _ => 65535
  | .stale, _ => elapsed
  | _, some t => min elapsed (t - 1)
  | _, none => elapsed

/-- Why an update event came (R30). -/
inductive Cause where
  | write
  | expiry
  | reset
  deriving DecidableEq, Repr

/-- An update event (R30). -/
structure UpdateEvent where
  slot : Nat
  cause : Cause
  state : SlotState
  value : Int
  prevState : SlotState
  prevValue : Int
  writer : Writer
  deriving DecidableEq, Repr

/-- The event of slot `n` going from record `old` to record `new` (R30). -/
def eventOf (n : Nat) (cause : Cause) (old new : SlotRecord) : UpdateEvent :=
  { slot := n, cause := cause, state := new.state, value := new.value, prevState := old.state, prevValue := old.value,
    writer := new.writer }

/-- The record after a write (R26): `from?` is the timeout and route key a route extractor carries, none for an
internal slot's own block. -/
def SlotRecord.written (old : SlotRecord) (w : SlotWrite) (sender : Option (Nat × RouteKey)) (now : Nat) : SlotRecord :=
  { value := match w with
      | .fresh v => v
      | .notAvailable => old.value
      | .error => old.value,
    state := match w with
      | .fresh _ => .fresh
      | .notAvailable => .notAvailable
      | .error => .error,
    stamp := now,
    timeout := sender.map (·.1),
    writer := match sender with
      | some (_, k) => .route k
      | none => .part }

/-- The record after its expiry (R27). -/
def SlotRecord.expired (old : SlotRecord) : SlotRecord := { old with state := .stale }

/-- A FRESH, NOT_AVAILABLE or ERROR record with a timeout can expire, at this moment (R27). -/
def SlotRecord.expiresAt (r : SlotRecord) : Option Nat :=
  match r.state, r.timeout with
  | .never, _ => none
  | .stale, _ => none
  | _, some t => some (r.stamp + ms t)
  | _, none => none

/-! ### Gauge channels, rules, lamps and drivers -/

/-- One gauge channel. -/
def State.channel (s : State) (c : Nat) : Channel := s.gauges.get c Channel.powerOn

/-- One gauge channel replaced. -/
def State.putChannel (s : State) (c : Nat) (ch : Channel) : State := { s with gauges := s.gauges.put c ch }

/-- One rule. -/
def State.rule (s : State) (i : Nat) : Rule := s.telltale.rules.get i Rule.blank

/-- One rule replaced. -/
def State.putRule (s : State) (i : Nat) (r : Rule) : State := { s with telltale.rules := s.telltale.rules.put i r }

/-- One lamp. -/
def State.lamp (s : State) (n : Nat) : Lamp := s.telltale.lamps.get n ⟨false, false⟩

/-- One lamp replaced. -/
def State.putLamp (s : State) (n : Nat) (l : Lamp) : State := { s with telltale.lamps := s.telltale.lamps.put n l }

/-- One driver counter record. -/
def State.driver (s : State) (d : Driver) : DriverRecord :=
  match d with
  | .one => s.tacho.d1
  | .two => s.tacho.d2

/-- One driver counter record replaced. -/
def State.putDriver (s : State) (d : Driver) (r : DriverRecord) : State :=
  match d with
  | .one => { s with tacho.d1 := r }
  | .two => { s with tacho.d2 := r }

/-- A free value used: the next one is another (log 14). -/
def State.useFree (s : State) : State := { s with fresh := s.fresh + 1 }

end Sys2Proof.Machine
end

