-- ==== Sys2Proof/Machine/Flags.lean ====
section
/-! DEFINITION. The event flags and their notices (R168, R171), the event-flag word (R193), and the value of slot 12 (R35). -/

namespace Sys2Proof.Machine

/-- The twelve event flags (R168). -/
inductive EventFlag where
  | intakeOverflow
  | busOffT
  | busOffL
  | configInvalid
  | saveDone
  | saveFailed
  | alertLost
  | lampFault
  | gaugeFault
  | sensorFault
  | tachoReadFailed
  | buildAbandoned
  deriving DecidableEq, Repr

/-- The bit of a flag in the event-flag word (R193). -/
def EventFlag.index (f : EventFlag) : Nat :=
  match f with
  | .intakeOverflow => 0
  | .busOffT => 1
  | .busOffL => 2
  | .configInvalid => 3
  | .saveDone => 4
  | .saveFailed => 5
  | .alertLost => 6
  | .lampFault => 7
  | .gaugeFault => 8
  | .sensorFault => 9
  | .tachoReadFailed => 10
  | .buildAbandoned => 11

/-- The flag word with that flag alone. -/
def EventFlag.mask (f : EventFlag) : BitVec 12 := 1#12 <<< f.index

/-- The flag stands in the word. -/
def EventFlag.inWord (f : EventFlag) (w : BitVec 12) : Bool := w.getLsbD f.index

/-- The EVENT_NOTICE of the present flags and mask (R171, section 12.1). -/
def State.notice (s : State) : TxFrame :=
  { identifier := s.mgmtRspId,
    data := u8 0xFF ++ u8 0 ++ u16 s.mgmt.flags.toNat ++ u16 s.mgmt.mask.toNat ++ u8 s.statusByte ++ u8 0 }

/-- A flag set without a notice: in SLEEP none arises (R171). -/
def State.setFlag (s : State) (f : EventFlag) : State := { s with mgmt.flags := s.mgmt.flags ||| f.mask }

/-- The event of a flag (R168): a flag that goes from clear to set and is masked gives one notice (R171). -/
def State.raise (s : State) (f : EventFlag) : State :=
  if f.inWord s.mgmt.flags then s
  else if f.inWord s.mgmt.mask then (s.setFlag f).offer (s.setFlag f).notice
  else s.setFlag f

/-- The value of slot 12 that the two marks give (R35). -/
def sensorFaultValue (silent phaseB : Bool) : Int := if silent then 2 else if phaseB then 1 else 0

end Sys2Proof.Machine
end

