-- ==== Sys2Proof/Machine/Needle.lean ====
section
/-! DEFINITION. One gauge channel by itself: from signal to target, motion, homing, parking and coil drive (chapter 3).
What a channel tells the controller is in Machine/Power.lean. -/

namespace Sys2Proof.Machine

/-- The interval of a level (R41). -/
def Channel.interval (c : Channel) (level : Nat) : Nat := c.live.settings.intervals.get level 0

/-- The coils are driven in HOMING, TRACKING and PARKING (R63). -/
def Channel.driven (c : Channel) : Bool :=
  match c.state with
  | .homing => true
  | .tracking => true
  | .parking => true
  | .unhomed => false
  | .parked => false
  | .fault => false

/-! ### Coil drive (R62, R63) -/

/-- Entries 0 to 12 of the sine table, in thousandths (R62). -/
def sineQuarter : List Nat := [0, 131, 259, 383, 500, 609, 707, 793, 866, 924, 966, 991, 1000]

/-- The magnitude of entry `k` of the first half of the sine table (R62). -/
def sineMagnitude (k : Nat) : Nat := sineQuarter.getD (if k ≤ 12 then k else 24 - k) 0

/-- Entry `k` of the sine table, signed thousandths (R62). -/
def sineEntry (k : Nat) : Int := if k < 24 then (sineMagnitude k : Int) else -(sineMagnitude (k - 24) : Int)

/-- The duties of coils A and B, or none while the coils are turned off (R62, R63). A new duty counts at the microstep itself, where
R62 has it from the next drive period: the phase of the periods is not given (the model's choice, log 13). -/
def Channel.duties (c : Channel) : Option (Int × Int) :=
  if c.driven then some (sineEntry c.driveIndex, sineEntry ((c.driveIndex + 12) % 48)) else none

/-- The channel's coils can give this report: they are driven, and OPEN needs a coil whose duty is not 0 (R64). -/
def Channel.reports (c : Channel) (cause : CoilFault) : Bool :=
  match c.duties, cause with
  | none, _ => false
  | some (a, _), .openA => decide (a ≠ 0)
  | some (_, b), .openB => decide (b ≠ 0)
  | some _, .overA => true
  | some _, .overB => true

/-- How a coil's two half-bridges stand in the duty's share of a drive period (R63). -/
inductive BridgeDrive where
  | allOpen
  | firstHigh
  | secondHigh
  | bothLow
  deriving DecidableEq, Repr

/-- The half-bridges of a coil with this duty (R63). -/
def bridgeDrive (duty : Option Int) : BridgeDrive :=
  match duty with
  | none => .allOpen
  | some d => if 0 < d then .firstHigh else if d < 0 then .secondHigh else .bothLow

/-! ### From signal to target (R48 to R51) -/

/-- The position between two points (R49). -/
def interpolate (p q : CurvePoint) (v : Int) : Nat :=
  ((p.position : Int) + Int.tdiv (((q.position : Int) - p.position) * (v - p.value)) (q.value - p.value)).toNat

/-- The curve position of a value at or above the first point of the curve (R49). -/
def curveFrom (p : CurvePoint) (rest : List CurvePoint) (v : Int) : Nat :=
  match rest with
  | [] => p.position
  | q :: more => if q.value ≤ v then curveFrom q more v else interpolate p q v

/-- The curve position of a value (R49). -/
def curvePosition (curve : List CurvePoint) (v : Int) : Nat :=
  match curve with
  | [] => 0
  | p :: rest => if v ≤ p.value then p.position else curveFrom p rest v

/-- The value of the effective source, if the channel has one (R48). -/
def Channel.effective (c : Channel) (slots : Bank SlotRecord 96) : Option Int :=
  let source := slots.get c.live.settings.source SlotRecord.frameNever
  if source.state = .fresh then some source.value
  else
    match c.live.settings.fallback with
    | none => none
    | some n =>
      let other := slots.get n SlotRecord.frameNever
      if other.state = .fresh then some other.value else none

/-- Motion starts if the target differs from the position (R52). -/
def Channel.startMotion (c : Channel) (now : Nat) : Channel :=
  if c.position < c.target then
    { c with direction := .up, level := 0, stepTimer := some (now + c.interval 0) }
  else if c.target < c.position then
    { c with direction := .down, level := 0, stepTimer := some (now + c.interval 0) }
  else c

/-- An accepted candidate placed (R51). -/
def Channel.place (c : Channel) (now candidate : Nat) : Channel :=
  if c.state = .tracking ∧ c.direction = .none then ({ c with target := candidate }).startMotion now
  else { c with pending := some candidate }

/-- A candidate judged against the reference target; `band` says whether the dead band is applied (R51). -/
def Channel.consider (c : Channel) (now : Nat) (band : Bool) (candidate : Nat) : Channel :=
  let reference := c.pending.getD c.target
  let apart := (candidate - reference) + (reference - candidate)
  if band && decide (apart ≤ c.live.settings.deadBand) && decide (candidate ≠ c.live.settings.rest) then c
  else c.place now candidate

/-- An evaluation (R48, R50). -/
def Channel.evaluate (c : Channel) (slots : Bank SlotRecord 96) (now : Nat) (band : Bool) : Channel :=
  match c.effective slots with
  | some v => ({ c with restTimer := none, restMark := false }).consider now band (curvePosition c.live.curve v)
  | none =>
    match c.live.settings.policy with
    | .hold => c
    | .rest => c.consider now band c.live.settings.rest
    | .restAfter =>
      if c.restMark then c.consider now band c.live.settings.rest
      else if c.restTimer.isSome then c
      else if c.live.settings.restDelay = 0 then
        ({ c with restMark := true }).consider now band c.live.settings.rest
      else { c with restTimer := some (now + ms (100 * c.live.settings.restDelay)) }

/-- The channel evaluates on update events: TRACKING, or HOMING without the park mark (R48). -/
def Channel.attends (c : Channel) : Bool :=
  decide (c.state = .tracking) || (decide (c.state = .homing) && !c.parkMark)

/-- The channel consumes slot `n` (R31). -/
def Channel.consumes (c : Channel) (n : Nat) : Bool :=
  decide (c.live.settings.source = n) || decide (c.live.settings.fallback = some n)

/-- The channel's reaction to an update event of slot `n` (R48). -/
def Channel.onEvent (c : Channel) (slots : Bank SlotRecord 96) (now n : Nat) : Channel :=
  if c.attends && c.consumes n then c.evaluate slots now true else c

/-- The rest-delay timer expires (R50). -/
def Channel.restExpired (c : Channel) (now : Nat) : Channel :=
  ({ c with restTimer := none, restMark := true }).consider now true c.live.settings.rest

/-! ### Motion (R53, R62) -/

/-- One microstep UP. -/
def Channel.stepUp (c : Channel) : Channel :=
  { c with position := c.position + 1, driveIndex := (c.driveIndex + 1) % 48 }

/-- One microstep DOWN. -/
def Channel.stepDown (c : Channel) : Channel :=
  { c with position := c.position - 1, driveIndex := (c.driveIndex + 47) % 48 }

/-- One microstep in the present direction. -/
def Channel.stepOnce (c : Channel) : Channel :=
  match c.direction with
  | .up => c.stepUp
  | .down => c.stepDown
  | .none => c

/-- The other direction. -/
def Direction.reversed (d : Direction) : Direction :=
  match d with
  | .up => .down
  | .down => .up
  | .none => .none

/-- The distance to the target counted in the present direction (R53). -/
def Channel.ahead (c : Channel) : Int :=
  match c.direction with
  | .up => (c.target : Int) - c.position
  | .down => (c.position : Int) - c.target
  | .none => 0

/-- A new level and the step timer restarted with its interval (R53). -/
def Channel.goOn (c : Channel) (now level : Nat) : Channel :=
  { c with level := level, stepTimer := some (now + c.interval level) }

/-- The pending target taken (R53). -/
def Channel.takePending (c : Channel) : Channel :=
  match c.pending with
  | some t => { c with target := t, pending := none }
  | none => c

/-- The needle stops (R53); a PARKING channel becomes PARKED (R59). -/
def Channel.stopped (c : Channel) : Channel :=
  { c with direction := .none, level := 0, stepTimer := none,
           state := if c.state = .parking then .parked else c.state }

/-- A step event (R53). -/
def Channel.step (c0 : Channel) (now : Nat) : Channel :=
  let c := c0.takePending
  let r := c.ahead
  if 0 < r then c.stepOnce.goOn now (min (min 7 (c.level + 1)) (r.toNat - 1))
  else if 0 < c.level then c.stepOnce.goOn now (c.level - 1)
  else if r < 0 then
    ({ c with direction := c.direction.reversed }).stepOnce.goOn now (min 1 ((-r).toNat - 1))
  else c.stopped

/-! ### Homing (R54 to R56) -/

/-- WAKING entry (R54). -/
def Channel.home (c : Channel) (now : Nat) : Channel :=
  { c with
    state := .homing, cause := none, restMark := false, parkMark := false, restTimer := none,
    target := c.live.settings.rest, pending := none, level := 0, direction := .down,
    homingLeft := c.live.settings.fullScale + 64, driveIndex := c.position % 48,
    stepTimer := some (now + c.interval 4) }

/-- Homing ends (R56). -/
def Channel.homed (c : Channel) (now : Nat) : Channel :=
  let c := { c with position := 0, driveIndex := 0, level := 0, direction := .none, stepTimer := none }
  if c.parkMark then { c with state := .parked, parkMark := false, pending := none, target := 0 }
  else ({ c with state := .tracking, target := c.pending.getD c.target, pending := none }).startMotion now

/-- A homing step (R55). -/
def Channel.homingStep (c0 : Channel) (now : Nat) : Channel :=
  let c := { c0.stepDown with homingLeft := c0.homingLeft - 1 }
  if 0 < c.homingLeft then { c with stepTimer := some (now + c.interval 4) } else c.homed now

/-! ### Changes of power state (R58, R60, R61) -/

/-- PARKING entry (R58). The target of a needle that parks is 0 from the entry on (R44, R59, section 3.9); a moving one takes it with
the pending target at its next step event. -/
def Channel.park (c : Channel) (now : Nat) : Channel :=
  match c.state with
  | .tracking =>
    let c := { c with state := .parking, restTimer := none, restMark := false }
    if c.direction = .none then
      let c := { c with target := 0, pending := none }
      if c.position = 0 then { c with state := .parked } else c.startMotion now
    else { c with target := 0, pending := some 0 }
  | .homing => { c with parkMark := true, pending := none, restTimer := none, restMark := false }
  | .unhomed => c
  | .parking => c
  | .parked => c
  | .fault => c

/-- The return from PARKING to RUN (R60). -/
def Channel.unpark (c : Channel) (slots : Bank SlotRecord 96) (now : Nat) : Channel :=
  match c.state with
  | .parking => ({ c with state := .tracking }).evaluate slots now false
  | .parked => ({ c with state := .tracking, driveIndex := 0 }).evaluate slots now false
  | .homing => if c.parkMark then ({ c with parkMark := false }).evaluate slots now false else c
  | .unhomed => c
  | .tracking => c
  | .fault => c

/-- SLEEP entry (R61). The drive index is kept as R61 states, also where homing, or a fault out of it, left it other than R62's position
modulo 48: R61 against R62, log 35. -/
def Channel.sleep (c : Channel) : Channel :=
  { c with
    state := .unhomed, stepTimer := none, restTimer := none, level := 0, direction := .none, pending := none,
    restMark := false, parkMark := false, homingLeft := 0, target := c.position }

/-- A fault report puts the channel in FAULT (R65); the rest mark is cleared as the channel leaves its state (R50). The drive index stays
as it stands. For a channel that fails in HOMING it may then differ from the position modulo 48, which R62 gives outside HOMING; R65 does
not name it (the model's choice, DESIGN CHOICE, log 35). -/
def Channel.fail (c : Channel) (cause : CoilFault) : Channel :=
  { c with
    state := .fault, stepTimer := none, restTimer := none, restMark := false, cause := some cause, direction := .none,
    level := 0, pending := none }

/-! ### Records (R42 to R45) -/

/-- Curve values strictly ascending (R41). -/
def curveAscends : List CurvePoint → Bool
  | [] => true
  | [_] => true
  | p :: q :: rest => decide (p.value < q.value) && curveAscends (q :: rest)

/-- Intervals that do not increase (R41). -/
def notIncreasing : List Nat → Bool
  | [] => true
  | [_] => true
  | a :: b :: rest => decide (b ≤ a) && notIncreasing (b :: rest)

/-- The checks of R43 step 2 on settings with the curve points in use. -/
def recordPasses (g : GaugeSettings) (curve : List CurvePoint) : Bool :=
  curveAscends curve && curve.all (fun p => decide (p.position ≤ g.fullScale)) && decide (g.rest ≤ g.fullScale) &&
    notIncreasing g.intervals.items

/-- The farthest position of the needle (R43). -/
def Channel.farthest (c : Channel) : Nat := if c.direction = .up then c.position + c.level else c.position

/-- The staged record copied into the live record (R43). -/
def Channel.commit (c : Channel) (points : Nat) : Channel :=
  { c with live := { settings := c.staged.settings, curve := c.staged.points.items.take points } }

/-- A target or pending target above the full scale becomes the full scale (R44). -/
def Channel.clamp (c : Channel) : Channel :=
  { c with target := min c.target c.live.settings.fullScale,
           pending := c.pending.map (fun t => min t c.live.settings.fullScale) }

/-- The reaction to a new live record (R44). -/
def Channel.afterCommit (c : Channel) (slots : Bank SlotRecord 96) (now : Nat) : Channel :=
  match c.state with
  | .tracking => ({ c with restTimer := none, restMark := false }).clamp.evaluate slots now false
  | .homing => if c.parkMark then c.clamp else c.clamp.evaluate slots now false
  | .parking => c
  | .parked => c
  | .fault => c
  | .unhomed => c

/-- A staged record that copies a live record (R45): points beyond the point count at value 0 and position 0. -/
def LiveRecord.toStaged (l : LiveRecord) : StagedRecord :=
  { settings := l.settings,
    points := ⟨(l.curve ++ List.replicate 8 (⟨0, 0⟩ : CurvePoint)).take 8, by
      rw [List.length_take, List.length_append, List.length_replicate]; omega⟩ }

/-- A live record loaded at WAKING entry (R45). -/
def Channel.load (c : Channel) (l : LiveRecord) : Channel := { c with live := l, staged := l.toStaged }

end Sys2Proof.Machine
end

