-- ==== Sys2Proof/Machine/Alert.lean ====
section
/-! DEFINITION. The display link's dirty set (R153, R154), the chime arbiter and tone (R101 to R105), the dimming duty (R84), one
rule by itself (R73 to R77) and the Alert Stack (R89 to R98). -/

namespace Sys2Proof.Machine

/-! ### Marking display records (R153, R154) -/

/-- One mark set. -/
def DirtySet.mark (d : DirtySet) (k : RecordKind) : DirtySet :=
  match k with
  | .topAlert => { d with topAlert := true }
  | .pageSelect => { d with pageSelect := true }
  | .driverPage1 => { d with driverPage1 := true }
  | .driverPage2 => { d with driverPage2 := true }
  | .distancePage => { d with distancePage := true }
  | .alertList => { d with alertList := true }

/-- One mark removed. -/
def DirtySet.unmark (d : DirtySet) (k : RecordKind) : DirtySet :=
  match k with
  | .topAlert => { d with topAlert := false }
  | .pageSelect => { d with pageSelect := false }
  | .driverPage1 => { d with driverPage1 := false }
  | .driverPage2 => { d with driverPage2 := false }
  | .distancePage => { d with distancePage := false }
  | .alertList => { d with alertList := false }

/-- The kind stands in the set. -/
def DirtySet.has (d : DirtySet) (k : RecordKind) : Bool :=
  match k with
  | .topAlert => d.topAlert
  | .pageSelect => d.pageSelect
  | .driverPage1 => d.driverPage1
  | .driverPage2 => d.driverPage2
  | .distancePage => d.distancePage
  | .alertList => d.alertList

/-- The page record of a page number (R153). -/
def pageRecord (page : Nat) : RecordKind :=
  match page with
  | 0 => .driverPage1
  | 1 => .driverPage2
  | 2 => .distancePage
  | _ => .alertList

/-- The due record (R153). -/
def Display.due (d : Display) : Option RecordKind :=
  if d.dirty.topAlert then some .topAlert
  else if d.dirty.pageSelect then some .pageSelect
  else if d.dirty.has (pageRecord d.page) then some (pageRecord d.page)
  else none

/-- A record is due: SENDING, with the transfer starting now or 4 µs after the last one, or WAITING (R151, R154). -/
def Display.send (d : Display) (ready : Bool) (now : Nat) : Display :=
  if ready then
    { d with link := .sending, startTimer := some (max now d.csFree), readyTimer := none, retryTimer := none }
  else { d with link := .waiting, readyTimer := some (now + ms 100), retryTimer := none }

/-- An IDLE link whose record has come due (R154). -/
def Display.poll (d : Display) (ready : Bool) (now : Nat) : Display :=
  if d.link = .idle ∧ d.due.isSome = true then d.send ready now else d

/-- Marks set by a block; the link takes none while it is OFF (R153). -/
def State.markDirty (s : State) (kinds : List RecordKind) : State :=
  if s.display.link = .off then s
  else
    { s with display :=
        ({ s.display with dirty := kinds.foldl DirtySet.mark s.display.dirty }).poll s.pins.ready s.clock }

/-- The kinds an update event of slot `n` marks (R153). -/
def slotKinds (n : Nat) : List RecordKind :=
  if n = 0 ∨ n = 1 ∨ n = 2 then [.distancePage]
  else if n = 4 ∨ n = 5 ∨ n = 8 then [.driverPage1]
  else if n = 6 ∨ n = 7 ∨ n = 9 then [.driverPage2]
  else []

/-- The display link takes an update event of slot `n` (R153). -/
def State.displayEvent (s : State) (n : Nat) : State := s.markDirty (slotKinds n)

/-! ### The chime (R101 to R105) -/

/-- The intervals of a pattern from its start: tone or silence, and its length in milliseconds (R102). -/
def chimeIntervals (p : ChimePattern) : List (Bool × Nat) :=
  match p with
  | .info => [(true, 150)]
  | .refuse => [(true, 60)]
  | .caution => [(true, 150), (false, 150), (true, 150)]
  | .stop => [(true, 300), (false, 300)]

/-- The reload value of a pattern's tone (R101). -/
def State.reload (s : State) (p : ChimePattern) : Nat :=
  match p with
  | .refuse => 2 * s.paramNat 6
  | .info => s.paramNat 6
  | .caution => s.paramNat 6
  | .stop => s.paramNat 6

/-- One load of the tone counter in microseconds: the counter is clocked every 16 µs (R101). -/
def State.halfPeriod (s : State) (p : ChimePattern) : Nat := 16 * s.reload p

/-- The arbiter idle, the output low, the counter stopped (R102, R105). -/
def State.chimeIdle (s : State) : State :=
  { s with alert := { s.alert with playing := none, chimeTimer := none, tone := false, toneTimer := none } }

/-- Interval `k` of the pattern begins (R101, R102). -/
def State.chimeInterval (s : State) (p : ChimePattern) (began k : Nat) (tone : Bool) (len : Nat) : State :=
  { s with alert := { s.alert with
      playing := some { pattern := p, interval := k, began := began }, chimeTimer := s.after (ms len), tone := tone,
      toneTimer := if tone then s.after (s.halfPeriod p) else none } }

/-- The pattern starts from its beginning (R103). -/
def State.chimeStart (s : State) (p : ChimePattern) : State :=
  match chimeIntervals p with
  | [] => s.chimeIdle
  | (tone, len) :: _ => s.chimeInterval p s.clock 0 tone len

/-- The playing interval ends: the next one begins, STOP repeats, any other pattern ends (R102). -/
def State.chimeNext (s : State) : State :=
  match s.alert.playing with
  | none => s.chimeIdle
  | some q =>
    match (chimeIntervals q.pattern)[q.interval + 1]? with
    | some (tone, len) => s.chimeInterval q.pattern q.began (q.interval + 1) tone len
    | none =>
      match q.pattern, chimeIntervals q.pattern with
      | .stop, (tone, len) :: _ => s.chimeInterval .stop q.began 0 tone len
      | _, _ => s.chimeIdle

/-- A pattern requested (R103). -/
def State.chimeRequest (s : State) (p : ChimePattern) : State :=
  if s.ign.power = .run then
    match s.alert.playing with
    | none => s.chimeStart p
    | some q => if p.rank < q.pattern.rank then s else s.chimeStart p
  else s

/-- A request made or none. -/
def State.chimeRequest? (s : State) (p : Option ChimePattern) : State :=
  match p with
  | none => s
  | some q => s.chimeRequest q

/-- The pattern of a severity (R104). -/
def Severity.pattern (v : Severity) : ChimePattern :=
  match v with
  | .info => .info
  | .caution => .caution
  | .stop => .stop

/-- A held STOP entry stands at the top (R98, R102). -/
def AlertBlock.topHeldStop (b : AlertBlock) : Bool :=
  match b.stack with
  | [] => false
  | e :: _ => decide (e.severity = .stop) && e.held

/-- The STOP pattern ends where the top is no longer a held STOP entry (R98 step 4). -/
def State.chimeStopCheck (s : State) : State :=
  match s.alert.playing with
  | none => s
  | some q => if q.pattern = .stop ∧ s.alert.topHeldStop = false then s.chimeIdle else s

/-! ### The dimming duty (R84) -/

/-- The duty the dimmer slot and P_DIM_MIN give (R84). -/
def State.dutyNow (s : State) : Nat :=
  match s.paramSlot 4 with
  | none => 100
  | some n =>
    if (s.slot n).state = .fresh then max (min 100 (s.slot n).value.toNat) (s.paramNat 5) else 100

/-- The duty worked out again; a new value marks PAGE_SELECT (R84, R153). -/
def State.updateDuty (s : State) : State :=
  if s.dutyNow = s.telltale.duty then s
  else ({ s with telltale.duty := s.dutyNow }).markDirty [.pageSelect]

/-- The dimming takes an update event of slot `n` (R31, R84). -/
def State.dimEvent (s : State) (n : Nat) : State := if s.paramSlot 4 = some n then s.updateDuty else s

/-! ### One rule (R73 to R77) -/

/-- The condition the test gives a FRESH value (R73). -/
def testCondition (t : RuleTest) (before : Bool) (v threshold : Int) (h : Nat) : Bool :=
  match t with
  | .above => decide ((if before then threshold - h else threshold) < v)
  | .below => decide (v < if before then threshold + h else threshold)
  | .equal => decide (v = threshold)
  | .notEqual => decide (v ≠ threshold)
  | .anyBit => decide (BitVec.ofInt 32 v &&& BitVec.ofInt 32 threshold ≠ 0#32)

/-- The new condition of a rule whose slot stands as `rec`, held before as `before` (R73, R74). -/
def Rule.judge (r : Rule) (before : Bool) (rec : SlotRecord) : Bool :=
  match r.a, r.b, r.c with
  | some a, some t, some c =>
    match rec.state with
    | .fresh => testCondition a.test before rec.value t c.hysteresis
    | .error => c.errorAction
    | .never | .stale | .notAvailable =>
      match c.staleAction with
      | .toFalse => false
      | .toTrue => true
      | .keep => before
  | _, _, _ => before

/-- The push of rule `i` on entering ACTIVE (R77). -/
def Rule.pushes (r : Rule) (i : Nat) : List AlertAction :=
  match r.d with
  | some { alert := some (code, severity) } => [.push code severity (.rule i)]
  | _ => []

/-- The release of rule `i` on leaving ACTIVE (R77). -/
def Rule.releases (r : Rule) (i : Nat) : List AlertAction :=
  match r.d with
  | some { alert := some (code, _) } => [.release code (.rule i)]
  | _ => []

/-- The confirm time in microseconds (R67). -/
def Rule.confirmTime (r : Rule) : Nat :=
  match r.c with
  | some c => ms (100 * c.confirmTime)
  | none => 0

/-- The rule made ACTIVE (R77). -/
def Rule.activate (r : Rule) : Rule := { r with live := .active, condition := true, confirm := none }

/-- The rule made INACTIVE with its condition false (R75). -/
def Rule.deactivate (r : Rule) : Rule := { r with live := .inactive, condition := false, confirm := none }

/-- An evaluation of rule `i` (R75): the new rule, and what it sends to the alert block. -/
def Rule.react (r : Rule) (i now : Nat) (rec : SlotRecord) : Rule × List AlertAction :=
  let after := r.judge r.condition rec
  match r.live, r.condition, after with
  | .inactive, false, true =>
    if r.confirmTime = 0 then (r.activate, r.pushes i)
    else ({ r with live := .pending, condition := true, confirm := some (now + r.confirmTime) }, [])
  | .pending, true, false => (r.deactivate, [])
  | .active, true, false => (r.deactivate, r.releases i)
  | _, _, _ => ({ r with condition := after }, [])

/-- The slot a LIVE rule names (R31). -/
def Rule.liveSlot (r : Rule) : Option Nat :=
  match r.life, r.a with
  | .live, some a => some a.slot
  | _, _ => none

/-! ### Lamps (R79 to R83) -/

/-- Rule `i` is ACTIVE and names the lamp. -/
def Rule.lights (r : Rule) (lamp : Nat) : Bool :=
  decide (r.life = .live) && decide (r.live = .active) &&
    (match r.a with
      | some a => decide (a.lamp = lamp)
      | none => false)

/-- The rule's priority. -/
def Rule.priority (r : Rule) : Nat :=
  match r.a with
  | some a => a.priority
  | none => 0

/-- The better of the deciding rule so far and rule `i`, taken in ascending index order (R79). -/
def State.betterRule (s : State) (lamp : Nat) (best : Option Nat) (i : Nat) : Option Nat :=
  if (s.rule i).lights lamp then
    match best with
    | none => some i
    | some j => if (s.rule j).priority < (s.rule i).priority then some i else some j
  else best

/-- The deciding rule of a lamp (R79). -/
def State.deciding (s : State) (lamp : Nat) : Option Nat := (List.range 64).foldl (s.betterRule lamp) none

/-- The shown pattern of a lamp; OFF is none (R79). -/
def State.shown (s : State) (lamp : Nat) : Option LampPattern :=
  match s.deciding lamp with
  | none => none
  | some i => (s.rule i).a.map (·.pattern)

/-- The flash phase count stands in the pattern's lit half (R80). -/
def LampPattern.litAt (p : LampPattern) (phase : Nat) : Bool :=
  match p with
  | .steady => true
  | .slow => decide (phase < 16)
  | .fast => decide (phase % 8 < 4)

/-- L0 is held lit by the invalid configuration (R83). -/
def State.l0Held (s : State) : Bool :=
  (decide (s.ign.power = .waking) || decide (s.ign.power = .run)) && !s.store.report && s.telltale.proveOut.isNone

/-- The lamp output is lit (R81). -/
def State.lampLit (s : State) (lamp : Nat) : Bool :=
  (decide (s.ign.power = .waking) || decide (s.ign.power = .run)) &&
    (s.telltale.proveOut.isSome || (decide (lamp = 0) && s.l0Held) ||
      (match s.shown lamp with
        | some p => p.litAt s.telltale.phase
        | none => false))

/-- A lamp that is dark has its next lit interval's check before it (R86). -/
def State.settleLamp (s : State) (lamp : Nat) : State :=
  if s.lampLit lamp then s else s.putLamp lamp { s.lamp lamp with checked := false }

/-- Every lamp settled after an event that can turn lamps on or off (R81); within one event an output does not change
twice, since it changes at the start of the drive period that follows (log 12). -/
def State.settleLamps (s : State) : State := (List.range 32).foldl State.settleLamp s

/-! ### The Alert Stack (R89 to R98) -/

/-- The severity of the top entry as slot 13 shows it (R34). -/
def topSeverity (stack : List AlertEntry) : Nat :=
  match stack with
  | [] => 0
  | e :: _ => e.severity.rank

/-- The lower of two severities. -/
def Severity.lower (a b : Severity) : Severity := if b.rank < a.rank then b else a

/-- The higher of two severities (R91). -/
def Severity.higher (a b : Severity) : Severity := if a.rank < b.rank then b else a

/-- The lowest severity of a stack (R93). -/
def lowestSeverity (stack : List AlertEntry) : Severity :=
  stack.foldl (fun m e => m.lower e.severity) .stop

/-- The entry of that severity nearest the bottom removed (R93). -/
def dropLowest (m : Severity) (stack : List AlertEntry) : List AlertEntry :=
  (stack.reverse.eraseP (fun e => decide (e.severity = m))).reverse

/-- The merge of a push into its entry (R91). -/
def AlertEntry.merge (e : AlertEntry) (severity : Severity) : AlertEntry :=
  { e with held := true, repeats := satInc count8 e.repeats, severity := e.severity.higher severity }

/-- The entry of a code. -/
def findCode (stack : List AlertEntry) (code : Nat) : Option AlertEntry := stack.find? (fun e => decide (e.code = code))

/-- The stack without the entry of a code. -/
def withoutCode (stack : List AlertEntry) (code : Nat) : List AlertEntry :=
  stack.filter (fun e => decide (e.code ≠ code))

/-- raised_at of an entry made now (R92): slot 15's value, or 0 while it is NEVER. -/
def State.raisedAt (s : State) : Nat := if (s.slot 15).state = .never then 0 else (s.slot 15).value.toNat

/-- A new entry (R92). -/
def State.newEntry (s : State) (code : Nat) (severity : Severity) (origin : Origin) : AlertEntry :=
  { code := code, severity := severity, origin := origin, held := true, repeats := 0, raisedAt := s.raisedAt }

/-- The stack replaced. -/
def State.setStack (s : State) (stack : List AlertEntry) : State := { s with alert.stack := stack }

/-- Rule `i` evaluates its slot's present record while the rules take events: WAKING or RUN (R75, R78). What it sends
to the alert block comes back. -/
def State.evalRule (s : State) (i : Nat) : State × List AlertAction :=
  match (s.rule i).liveSlot with
  | none => (s, [])
  | some n =>
    if s.ign.power = .waking ∨ s.ign.power = .run then
      (s.putRule i ((s.rule i).react i s.clock (s.slot n)).1, ((s.rule i).react i s.clock (s.slot n)).2)
    else (s, [])

/-- Rule `i` evaluates if it names slot `n` and gathers what it sends. -/
def gatherRule (n : Nat) (acc : State × List AlertAction) (i : Nat) : State × List AlertAction :=
  if (acc.1.rule i).liveSlot = some n then ((acc.1.evalRule i).1, acc.2 ++ (acc.1.evalRule i).2) else acc

/-- The gauge channels take an update event of slot `n` (R31, R48). -/
def State.gaugeEvent (s : State) (n : Nat) : State :=
  { s with gauges := s.gauges.map (fun c => c.onEvent s.table.slots s.clock n) }

/-- Slot `n` written by its own block, the record alone (R26). -/
def State.writeRecord (s : State) (n : Nat) (w : SlotWrite) : State :=
  s.putSlot n ((s.slot n).written w none s.clock)

/-- Some LIVE rule names slot `n`. -/
def State.watched (s : State) (n : Nat) : Bool := s.telltale.rules.items.any (fun r => decide (r.liveSlot = some n))

/-- Every rule that names slot `n` evaluates, in ascending index order, and what they send is gathered. -/
def State.gatherRules (s : State) (n : Nat) : State × List AlertAction :=
  if s.watched n then (List.range 64).foldl (gatherRule n) (s, []) else (s, [])

/-- Slot 13 written FRESH and delivered. The alert block is taking an action, so what the rules on slot 13 send in
turn comes back and reaches it afterwards (R98). -/
def State.writeTop (s : State) : State × List AlertAction :=
  let r := ((s.writeRecord 13 (.fresh (topSeverity s.alert.stack))).gaugeEvent 13).gatherRules 13
  ((r.1.dimEvent 13).displayEvent 13, r.2)

/-- Step 2 of R98: slot 13 is written if it is NEVER or differs. -/
def State.showTop (s : State) : State × List AlertAction :=
  if (s.slot 13).state = .never ∨ (s.slot 13).value ≠ topSeverity s.alert.stack then s.writeTop else (s, [])

/-- Steps 2 to 5 of R98 after a change of the stack. -/
def State.stackChanged (s : State) (chime : Option ChimePattern) : State × List AlertAction :=
  let r := s.showTop
  (((r.1.markDirty [.topAlert, .alertList]).chimeStopCheck).chimeRequest? chime, r.2)

/-- The lost count and the flag of a push to a full stack (R93). That the flag, with its notice, is set before the stack changes, slot 13 is
written and the chime asked for is the model's choice (log 6). -/
def State.alertLost (s : State) : State :=
  ({ s with alert.lost := satInc count8 s.alert.lost }).raise .alertLost

/-- A push taken (R91 to R93). A merge that alters no field of the stack (the entry at the top, held, its repeat at 255, its severity not
raised) follows the steps of R98 too, so it marks TOP_ALERT and ALERT_LIST and asks for its chime: R98 does not name it among the changes
that alter nothing, and R91 asks for its chime (DESIGN CHOICE, log 36). -/
def State.takePush (s : State) (code : Nat) (severity : Severity) (origin : Origin) : State × List AlertAction :=
  match findCode s.alert.stack code with
  | some e =>
    (s.setStack (e.merge severity :: withoutCode s.alert.stack code)).stackChanged
      (some (e.merge severity).severity.pattern)
  | none =>
    if s.alert.stack.length < stackRoom then
      (s.setStack (s.newEntry code severity origin :: s.alert.stack)).stackChanged (some severity.pattern)
    else if severity.rank < (lowestSeverity s.alert.stack).rank then (s.alertLost, [])
    else
      (s.alertLost.setStack
        (s.newEntry code severity origin :: dropLowest (lowestSeverity s.alert.stack) s.alert.stack)).stackChanged
          (some severity.pattern)

/-- The stack with the entry of a code not held. -/
def unheld (stack : List AlertEntry) (code : Nat) : List AlertEntry :=
  stack.map (fun e => if e.code = code then { e with held := false } else e)

/-- A release taken (R94). -/
def State.takeRelease (s : State) (code : Nat) : State × List AlertAction :=
  match findCode s.alert.stack code with
  | none => (s, [])
  | some e =>
    if e.severity = .info then (s.setStack (withoutCode s.alert.stack code)).stackChanged none
    else if e.held then (s.setStack (unheld s.alert.stack code)).stackChanged none
    else (s, [])

/-- One action taken whole by the alert block: pushes in WAKING and RUN, releases outside SLEEP (R90, R94). -/
def State.takeAction (s : State) (a : AlertAction) : State × List AlertAction :=
  match a with
  | .push code severity origin =>
    if s.ign.power = .waking ∨ s.ign.power = .run then s.takePush code severity origin else (s, [])
  | .release code _ => if s.ign.power = .sleep then (s, []) else s.takeRelease code

/-- Actions taken one after another in the order in which they reach the alert block (R89); those that the fuel does
not reach wait in the backlog (log 7). -/
def State.drain (fuel : Nat) (actions : List AlertAction) (s : State) : State :=
  match fuel with
  | 0 => { s with alert.backlog := actions }
  | k + 1 =>
    match actions with
    | [] => { s with alert.backlog := [] }
    | a :: rest => State.drain k (rest ++ (s.takeAction a).2) (s.takeAction a).1

/-- The lamps settled where a rule on slot 13 may have changed them. -/
def State.settleTop (s : State) : State := if s.watched 13 then s.settleLamps else s

/-- Actions sent to the alert block, behind those still on their way. -/
def State.send (s : State) (actions : List AlertAction) : State :=
  if s.alert.backlog ++ actions = [] then s
  else (s.drain Config.alertFuel (s.alert.backlog ++ actions)).settleTop

/-- A push by a block. -/
def State.push (s : State) (code : Nat) (severity : Severity) (origin : Origin) : State :=
  s.send [.push code severity origin]

/-- A release by a block. -/
def State.release (s : State) (code : Nat) (origin : Origin) : State := s.send [.release code origin]

/-- What an acknowledgement finds (R96). -/
inductive AckResult where
  | empty
  | refused (code : Nat)
  | removed (code : Nat)
  deriving DecidableEq, Repr

/-- The judgement of an acknowledgement (R96). -/
def judgeAck (stack : List AlertEntry) : AckResult :=
  match stack with
  | [] => .empty
  | e :: _ => if e.severity = .stop ∧ e.held = true then .refused e.code else .removed e.code

/-- An acknowledgement (R96, R98). -/
def State.acknowledge (s : State) : State :=
  match judgeAck s.alert.stack with
  | .empty => s
  | .refused _ => s.chimeRequest .refuse
  | .removed _ =>
    let r := (s.setStack s.alert.stack.tail).stackChanged none
    (r.1.send r.2).settleTop

end Sys2Proof.Machine
end

