-- ==== Sys2Proof/Machine/Deliver.lean ====
section
/-! DEFINITION. An update event handed to the gauges, the rules, the dimming and the display link (R31), the writes of the
internal slots that the tachograph block does not consume (R32 to R35), and the marks of slot 12 (R35). -/

namespace Sys2Proof.Machine

/-- What a delivery has gathered from the rules reaches the alert block in their order, and the lamps are resolved where a rule
named slot `n` (R77, R78). -/
def State.sendGathered (s : State) (n : Nat) (actions : List AlertAction) : State :=
  if s.watched n then (s.send actions).settleLamps else s

/-- The gauges, the rules and the dimming take an update event of slot `n` (R31). Each consumer has taken it before the alert
block acts on what the rules send: a write of slot 13 that follows from it is a later event of that slot. -/
def State.tell (s : State) (n : Nat) : State :=
  let r := (s.gaugeEvent n).gatherRules n
  (r.1.dimEvent n).sendGathered n r.2

/-- An internal slot other than slot 0 written by its own block and delivered (R26, R31). -/
def State.writePlain (s : State) (n : Nat) (w : SlotWrite) : State := ((s.writeRecord n w).tell n).displayEvent n

/-- An internal slot written FRESH where it holds another value. -/
def State.writeOther (s : State) (n : Nat) (v : Int) : State :=
  if (s.slot n).value = v then s else s.writePlain n (.fresh v)

/-- The marks of slot 12 become `silent` and `phaseB`; slot 12 follows (R35). -/
def State.setMarks (s : State) (silent phaseB : Bool) : State :=
  if s.table.silentMark = silent ∧ s.table.phaseBMark = phaseB then s
  else
    let t := { s with table.silentMark := silent, table.phaseBMark := phaseB }
    if (t.slot 12).state = .never ∨ (t.slot 12).value ≠ sensorFaultValue silent phaseB then
      t.writePlain 12 (.fresh (sensorFaultValue silent phaseB))
    else t

end Sys2Proof.Machine
end

