-- ==== Sys2Proof/Machine/Readout.lean ====
section
/-! DEFINITION. The tachograph block's operations: the drivers' slots and counters (R128 to R133), the readout queue and the
transfers (R134 to R143), the speed cross-check (R146, R147) and the silence watch (R148), and its update events (R31). -/

namespace Sys2Proof.Machine

/-! ### Slots, alerts and records of a driver -/

/-- CONT_DRIVE of a driver (R33). -/
def contSlot (d : Driver) : Nat :=
  match d with
  | .one => 4
  | .two => 6

/-- DRIVE_LEFT of a driver (R33). -/
def leftSlot (d : Driver) : Nat :=
  match d with
  | .one => 5
  | .two => 7

/-- SUMMARY of a driver (R33). -/
def summarySlot (d : Driver) : Nat :=
  match d with
  | .one => 8
  | .two => 9

/-- The parameter of a driver's activity slot (R126). -/
def activityParam (d : Driver) : Nat :=
  match d with
  | .one => 11
  | .two => 12

/-- The parameter of a driver's card slot (R126). -/
def cardParam (d : Driver) : Nat :=
  match d with
  | .one => 13
  | .two => 14

/-- The parameter of a driver's continuous-driving slot (R126). -/
def contParam (d : Driver) : Nat :=
  match d with
  | .one => 15
  | .two => 16

/-- The alert of a driver's failed readout (R142). -/
def readoutAlert (d : Driver) : Nat :=
  match d with
  | .one => 0xF201
  | .two => 0xF202

/-- The origin of a driver's alert (R142). -/
def tachoOrigin (d : Driver) : Origin := .tacho d.number

/-- The display record of a driver's page (R153). -/
def driverPage (d : Driver) : RecordKind :=
  match d with
  | .one => .driverPage1
  | .two => .driverPage2

/-- The driver is present (R128). -/
def DriverRecord.present (r : DriverRecord) : Bool := decide (r.state ≠ .noDriver)

/-- A driver counter record replaced; a change of its state marks the driver's page (R153). -/
def State.setDriver (s : State) (d : Driver) (r : DriverRecord) : State :=
  if (s.driver d).state = r.state then s.putDriver d r else (s.putDriver d r).markDirty [driverPage d]

/-- DRIVE_LEFT: P_DRIVE_LIMIT minus cont_drive (R128). -/
def State.driveLeft (s : State) (d : Driver) : Int := s.param 17 - (s.driver d).contDrive

/-- The driver's slots written where their values changed (R128, R33). Where both change, the CONT_DRIVE slot is written before the DRIVE_LEFT
slot; R33 and R131 give no order, and this one is the model's choice (log 6). -/
def State.writeCounters (s : State) (d : Driver) : State :=
  let t := s.writeOther (contSlot d) (s.driver d).contDrive
  if (t.driver d).present then t.writeOther (leftSlot d) (t.driveLeft d) else t

/-- SUMMARY written where it held another value. -/
def State.writeSummary (s : State) (d : Driver) (v : Int) : State := s.writeOther (summarySlot d) v

/-! ### The readout queue and the start of a transfer (R134, R136) -/

/-- The driver of the transfer in flight. -/
def Transfer.driver (t : Transfer) : Option Driver :=
  match t with
  | .idle => none
  | .requested d _ => some d
  | .receiving d _ _ _ _ _ => some d

/-- A frame of the part on TACHO_REQ_ID: kind 8 SUMMARY or kind 9 STOP, one byte (R194). -/
def State.tachoFrame (s : State) (kind : Nat) (d : Driver) : TxFrame :=
  { identifier := s.tachoReqId, data := u8 (16 * kind + d.number) }

/-- The driver stands in the readout queue or its transfer is in flight (R134). -/
def Tacho.engaged (t : Tacho) (d : Driver) : Bool :=
  t.readout.any (fun e => decide (e.driver = d)) || decide (t.transfer.driver = some d)

/-- The head's transfer starts (R136). That the SUMMARY frame is offered before slot 8 or 9 is written is the model's choice (log 6). -/
def State.startTransfer (s : State) (e : Readout) (rest : List Readout) : State :=
  let t := { s with tacho.readout := rest, tacho.transfer := .requested e.driver e.attempt,
                    tacho.transferTimer := s.after (ms 1000) }
  (t.offer (t.tachoFrame 8 e.driver)).writeSummary e.driver 1

/-- A transfer starts if the record is IDLE, the queue is not empty and the part is in WAKING or RUN (R136). -/
def State.tryStart (s : State) : State :=
  match s.tacho.transfer, s.tacho.readout with
  | .idle, e :: rest => if s.ign.power = .waking ∨ s.ign.power = .run then s.startTransfer e rest else s
  | _, _ => s

/-- A readout enqueued (R134), with the check of R136 after it. -/
def State.enqueue (s : State) (d : Driver) (attempt : Nat) : State :=
  if (s.driver d).present && !s.tacho.engaged d then
    ({ s with tacho.readout := s.tacho.readout ++ [Readout.mk d attempt] }).tryStart
  else s

/-! ### The end of a transfer (R141 to R143) -/

/-- The last outcome of a driver recorded. -/
def State.setOutcome (s : State) (d : Driver) (o : TransferOutcome) : State :=
  s.putDriver d { s.driver d with outcome := o }

/-- The transfer record IDLE, its timer cancelled. -/
def State.idleTransfer (s : State) : State :=
  { s with tacho.transfer := .idle, tacho.transferTimer := none, tacho.restarted := none }

/-- The transfer in flight is the retry of a driver whose own timer expired at this very moment, and no frame has reached it (R143,
log 34). -/
def State.restartedNow (s : State) : Bool :=
  match s.tacho.transfer with
  | .idle => false
  | .requested _ _ => decide (s.tacho.restarted = some s.clock)
  | .receiving _ _ _ _ _ _ => false

/-- A transfer of driver `d` abandoned (R143). An abandonment that falls together with the expiry of the driver's own timer and comes
second finds the transfer IDLE: no STOP, and the last outcome stands; the retry that has started at that moment goes with it (log 34). -/
def State.abandon (s : State) (d : Driver) : State :=
  if s.restartedNow then s.idleTransfer
  else ((s.offer (s.tachoFrame 9 d)).setOutcome d .stopped).idleTransfer

/-- A transfer of driver `d` fails (R142), and the head of the queue starts (R136). That a second attempt's slot write, its flag with its
notice and its push come in the order of R142's row is the model's choice (log 6). -/
def State.failTransfer (s : State) (d : Driver) (attempt : Nat) (cause : TransferOutcome) : State :=
  let t := (s.setOutcome d cause).idleTransfer
  if attempt = 1 then (t.enqueue d 2).tryStart
  else
    (((t.writeSummary d 3).raise .tachoReadFailed).push (readoutAlert d) .info (tachoOrigin d)).tryStart

/-- The counters reconciled with the figure `v` (R131). -/
def DriverRecord.reconciled (r : DriverRecord) (v : Nat) : DriverRecord :=
  { r with
    state := .confirmed, contDrive := v, sinceReconcile := 0,
    breakAccum := if v = 0 then 0 else r.breakAccum, stretch := if v = 0 then 0 else r.stretch }

/-- A reconciliation (R131). -/
def State.reconcile (s : State) (d : Driver) (v : Nat) : State :=
  (s.setDriver d ((s.driver d).reconciled v)).writeCounters d

/-- A transfer of driver `d` succeeds with the summary `m` (R141). Its step 6 starts the other driver's transfer where that one is
queued, so a PARKING entry at the same moment finds that one in flight and stops it, where R143 has it find the record IDLE: the model's
choice (log 34). -/
def State.succeedTransfer (s : State) (d : Driver) (m : Summary) : State :=
  let t := s.putDriver d { s.driver d with summary := some m, outcome := .ok }
  (((((t.writeSummary d 2).reconcile d m.contDrive).release (readoutAlert d) (tachoOrigin d)).markDirty
    [driverPage d]).idleTransfer).tryStart

/-! ### The transfer frames (R137 to R140) -/

/-- The record is on the transfer identifier: port T and TACHO_XFER_ID, and not the management identifier (R8). -/
def State.isXfer (s : State) (r : FrameRecord) : Bool :=
  !s.isMgmt r && decide (r.port = .tractor) && decide (r.identifier = s.tachoXferId)

/-- The transfer in flight takes the frame; any other frame is stray (R137). -/
def Transfer.takes (t : Transfer) (f : XferFrame) : Bool :=
  match t, f with
  | .idle, _ => false
  | .requested _ _, .opening _ _ => true
  | .requested d _, f => decide (f.driver = d)
  | .receiving d _ _ _ _ _, f => decide (f.driver = d)

/-- The frame of a record on the transfer identifier that is not stray (R137). -/
def State.xferFrame (s : State) (r : FrameRecord) : Option XferFrame :=
  if s.isXfer r then (readXfer r).filter s.tacho.transfer.takes else none

/-- An OPEN taken (R138, R139). -/
def State.takeOpen (s : State) (named : Driver) (total : Nat) : State :=
  match s.tacho.transfer with
  | .idle => s
  | .requested d attempt =>
    if named = d then
      if 25 ≤ total ∧ total ≤ 49 then
        { s with tacho.transfer := .receiving d attempt total ((total + 5) / 6) 0 [],
                 tacho.transferTimer := s.after (ms 500) }
      else s.failTransfer d attempt .format
    else s.failTransfer d attempt .sequence
  | .receiving d attempt _ _ _ _ => s.failTransfer d attempt .sequence

/-- A DATA taken (R138, R139). -/
def State.takeData (s : State) (number : Nat) (bytes : List Byte) : State :=
  match s.tacho.transfer with
  | .idle => s
  | .requested d attempt => s.failTransfer d attempt .sequence
  | .receiving d attempt total expected count payload =>
    if expected ≤ count then s.failTransfer d attempt .length
    else if number = count then
      { s with tacho.transfer := .receiving d attempt total expected (count + 1) ((payload ++ bytes).take total),
               tacho.transferTimer := s.after (ms 500) }
    else s.failTransfer d attempt .sequence

/-- A CLOSE taken (R138, R140, R141). -/
def State.takeClose (s : State) (crc : BitVec 16) : State :=
  match s.tacho.transfer with
  | .idle => s
  | .requested d attempt => s.failTransfer d attempt .sequence
  | .receiving d attempt total expected count payload =>
    if count < expected then s.failTransfer d attempt .length
    else if crc16 payload ≠ crc then s.failTransfer d attempt .crc
    else
      match parseSummary total payload with
      | none => s.failTransfer d attempt .format
      | some m => s.succeedTransfer d m

/-- An ABORT taken (R138, R139). -/
def State.takeAbort (s : State) : State :=
  match s.tacho.transfer with
  | .idle => s
  | .requested d attempt => s.failTransfer d attempt .aborted
  | .receiving d attempt _ _ _ _ => s.failTransfer d attempt .aborted

/-- A retry of driver `d` that the expiry of its own timer has started is marked with this moment (R143, log 34). -/
def State.markRestart (s : State) (d : Driver) : State :=
  if s.tacho.transfer.driver = some d then { s with tacho.restarted := some s.clock } else s

/-- The transfer timer expires (R138, R139). -/
def State.transferTimeout (s : State) : State :=
  match s.tacho.transfer with
  | .idle => s.idleTransfer
  | .requested d attempt => (s.failTransfer d attempt .timeout).markRestart d
  | .receiving d attempt _ _ _ _ => (s.failTransfer d attempt .timeout).markRestart d

/-! ### Cards and minutes (R129, R130, R132, R133) -/

/-- The counters of a driver that has just become present (R132). -/
def DriverRecord.inserted (r : DriverRecord) : DriverRecord :=
  { r with state := .estimating, contDrive := 0, breakAccum := 0, stretch := 0, sinceReconcile := 0 }

/-- The counters of a withdrawn driver (R133 step 3). -/
def DriverRecord.withdrawn (r : DriverRecord) : DriverRecord :=
  { r with state := .noDriver, contDrive := 0, breakAccum := 0, stretch := 0, sinceReconcile := 0 }

/-- A driver's card inserted (R132): from NO_DRIVER both its counter slots are written (log 16), the CONT_DRIVE slot before the DRIVE_LEFT
slot: R132 gives no order, and this one is the model's choice (log 6). -/
def State.insertCard (s : State) (d : Driver) : State :=
  if (s.driver d).present then s.enqueue d 1
  else
    let t := (s.setDriver d (s.driver d).inserted).writePlain (contSlot d) (.fresh 0)
    (t.writePlain (leftSlot d) (.fresh (t.driveLeft d))).enqueue d 1

/-- Step 1 of R133. -/
def State.abandonOwn (s : State) (d : Driver) : State := if s.tacho.transfer.driver = some d then s.abandon d else s

/-- Step 2 of R133. -/
def State.dropReadout (s : State) (d : Driver) : State :=
  { s with tacho.readout := s.tacho.readout.filter (fun e => decide (e.driver ≠ d)) }

/-- A driver's card withdrawn (R133). -/
def State.withdrawCard (s : State) (d : Driver) : State :=
  let t2 := (s.abandonOwn d).dropReadout d
  let t3 := ((t2.setDriver d (t2.driver d).withdrawn).writeOther (contSlot d) 0).writePlain (leftSlot d) .notAvailable
  let t4 := (t3.putDriver d { t3.driver d with summary := none }).writeSummary d 0
  (t4.release (readoutAlert d) (tachoOrigin d)).tryStart

/-- The activity of a driver: a present FRESH record with a value in 0–3 (R129). -/
def State.activity (s : State) (d : Driver) : Option Int :=
  match s.paramSlot (activityParam d) with
  | none => none
  | some n =>
    if (s.slot n).state = .fresh ∧ 0 ≤ (s.slot n).value ∧ (s.slot n).value ≤ 3 then some (s.slot n).value else none

/-- One minute counted (R129, R130), with the parameters needed, part and window. -/
def DriverRecord.minute (r : DriverRecord) (activity : Option Int) (needed part window : Nat) : DriverRecord :=
  let counted :=
    match activity with
    | none => { r with state := .estimating }
    | some v =>
      if v = 0 then
        let stretch := satInc 1439 r.stretch
        if needed ≤ r.breakAccum + stretch then { r with contDrive := 0, breakAccum := 0, stretch := 0 }
        else { r with stretch := stretch }
      else
        { r with
          breakAccum := if part ≤ r.stretch then min 120 (r.breakAccum + r.stretch) else r.breakAccum,
          stretch := 0, contDrive := if v = 3 then satInc 1439 r.contDrive else r.contDrive }
  let since := satInc 1439 counted.sinceReconcile
  { counted with sinceReconcile := since, state := if window ≤ since then .estimating else counted.state }

/-- A minute event of a driver (R129). -/
def State.minuteEvent (s : State) (d : Driver) : State :=
  if (s.driver d).present then
    (s.setDriver d
      ((s.driver d).minute (s.activity d) (s.paramNat 18) (s.paramNat 19) (s.paramNat 20))).writeCounters d
  else s

/-! ### The speed cross-check (R146, R147) -/

/-- The tachograph speed while its slot is FRESH. -/
def State.tachoSpeed (s : State) : Option Int :=
  match s.paramSlot 10 with
  | none => none
  | some n => if (s.slot n).state = .fresh then some (s.slot n).value else none

/-- The tachograph speed while the monitor is checking (R146). -/
def State.checking (s : State) : Option Int :=
  if (s.slot 0).state = .fresh then s.tachoSpeed.filter (fun t => decide (1000 ≤ t)) else none

/-- The side of a measured speed against a tachograph speed, with a tolerance in percent (R146). -/
def mismatchSide (t measured percent : Int) : MismatchSide :=
  if (t * percent / 100 + 100 : Int) < (measured - t).natAbs then .outside else .inside

/-- A judgement of the monitor (R147). -/
def State.judgeMismatch (s : State) : State :=
  match s.checking with
  | none => { s with tacho.side := .none, tacho.mismatchTimer := none }
  | some t =>
    if mismatchSide t (s.slot 0).value (s.param 21) = s.tacho.side then s
    else
      { s with tacho.side := mismatchSide t (s.slot 0).value (s.param 21),
               tacho.mismatchTimer := s.after (ms (1000 * s.paramNat 22)) }

/-- The timer of the monitor expires: the timed side is confirmed (R147). That slot 3 is written before 0xF101 is pushed or released is the
model's choice (log 6). -/
def State.confirmSide (s0 : State) : State :=
  let s := { s0 with tacho.mismatchTimer := none }
  let shown := s.slot 3
  match s.tacho.side with
  | .none => s
  | .outside =>
    if shown.state = .never ∨ shown.value = 0 then (s.writePlain 3 (.fresh 1)).push 0xF101 .caution .speed else s
  | .inside =>
    if shown.state = .never then s.writePlain 3 (.fresh 0)
    else if shown.value = 1 then (s.writePlain 3 (.fresh 0)).release 0xF101 .speed
    else s

/-! ### The silence watch (R148) -/

/-- The watch's condition (R148). -/
def State.watchHolds (s : State) : Bool :=
  !s.table.silentMark && (s.tachoSpeed.filter (fun t => decide (2000 ≤ t))).isSome

/-- The watch judged at an event of the tachograph speed or a change of its field (R148). -/
def State.judgeWatch (s : State) : State :=
  if s.watchHolds then
    if s.tacho.watch.isSome then s else { s with tacho.watch := s.after (ms 3000) }
  else { s with tacho.watch := none }

/-- The notice of a pulse (R116, R148). -/
def State.pulseNotice (s : State) : State :=
  if s.watchHolds then { s with tacho.watch := s.after (ms 3000) } else { s with tacho.watch := none }

/-! ### Update events of the tachograph block (R31) -/

/-- The event is a FRESH write. -/
def UpdateEvent.freshWrite (e : UpdateEvent) : Bool := decide (e.cause = .write) && decide (e.state = .fresh)

/-- A card slot's event inserts the driver (R132). -/
def UpdateEvent.inserts (e : UpdateEvent) : Bool :=
  e.freshWrite && decide (e.value = 1) &&
    (decide (e.prevValue = 0) || decide (e.prevState = .never) || decide (e.prevState = .stale))

/-- A driver's card slot takes an update event (R132, R133). -/
def State.cardEvent (s : State) (d : Driver) (e : UpdateEvent) : State :=
  if s.paramSlot (cardParam d) = some e.slot then
    if e.inserts then s.insertCard d
    else if e.freshWrite && decide (e.value = 0) then s.withdrawCard d
    else s
  else s

/-- A driver's continuous-driving slot takes an update event (R131). -/
def State.contEvent (s : State) (d : Driver) (e : UpdateEvent) : State :=
  if s.paramSlot (contParam d) = some e.slot ∧ e.freshWrite = true ∧ (s.driver d).present = true ∧ 0 ≤ e.value ∧
      e.value ≤ 1439 then
    s.reconcile d e.value.toNat
  else s

/-- The monitor and the watch take an update event (R146, R148). -/
def State.speedEvent (s : State) (n : Nat) : State :=
  if s.paramSlot 10 = some n then s.judgeMismatch.judgeWatch else if n = 0 then s.judgeMismatch else s

/-- The tachograph block takes an update event (R31). -/
def State.tachoEvent (s : State) (e : UpdateEvent) : State :=
  ((((s.speedEvent e.slot).cardEvent .one e).cardEvent .two e).contEvent .one e).contEvent .two e

end Sys2Proof.Machine
end

