-- ==== Sys2Proof/Machine/Slots.lean ====
section
/-! DEFINITION. Changes of a slot with their update event (R26 to R31), the distance block's pulse and its steps (R106 to R116),
and the calibration writes (R115, R182). -/

namespace Sys2Proof.Machine

/-! ### Slot changes (R26 to R31) -/

/-- An update event delivered to every consumer (R31), in the order of R31's table; what the rules
send is taken by the alert block before the tachograph block takes the event (the model's choice, log 6). -/
def State.announce (s : State) (e : UpdateEvent) : State := ((s.tell e.slot).tachoEvent e).displayEvent e.slot

/-- Slot `n` takes the record `new`, and the event goes out (R30). -/
def State.changeSlot (s : State) (n : Nat) (cause : Cause) (new : SlotRecord) : State :=
  (s.putSlot n new).announce (eventOf n cause (s.slot n) new)

/-- Slot 0 written by the distance block (R32). -/
def State.writeSpeed (s : State) (w : SlotWrite) : State :=
  s.changeSlot 0 .write ((s.slot 0).written w none s.clock)

/-- A frame slot written by an extractor (R14, R26). -/
def State.writeFrame (s : State) (n : Nat) (w : SlotWrite) (timeout : Nat) (key : RouteKey) : State :=
  s.changeSlot n .write ((s.slot n).written w (some (timeout, key)) s.clock)

/-- A frame slot reset (R28). -/
def State.resetSlot (s : State) (n : Nat) : State := s.changeSlot n .reset SlotRecord.frameNever

/-- A slot expires (R27). -/
def State.expireSlot (s : State) (n : Nat) : State := s.changeSlot n .expiry (s.slot n).expired

/-! ### Calibration writes (R115, R182) -/

/-- The image of the calibration store taken from the distance block (R182). -/
def State.calImage (s : State) : CalImage :=
  { kFactor := s.dist.kFactor, history := s.dist.history, sealed := s.dist.sealed, odometer := s.dist.storedOdo }

/-- A calibration write starts; the controller is told (R182, R186). -/
def State.startCalWrite (s : State) : State :=
  { s with store.write := .writing s.calImage, store.writeTimer := s.after (ms 5), ign.writeMark := true }

/-- A calibration write requested (R182). -/
def State.requestCal (s : State) : State :=
  match s.store.write with
  | .idle => s.startCalWrite
  | .writing image => { s with store.write := .writingPending image }
  | .writingPending _ => s

/-- The stored odometer set to the live odometer, and a calibration write requested (R115). -/
def State.storeOdometer (s : State) : State := ({ s with dist.storedOdo := s.dist.liveOdo }).requestCal

/-! ### Speed and direction (R107 to R112) -/

/-- QUADRATURE is in effect (R107). -/
def State.quadrature (s : State) : Bool := decide (s.param 7 = 0)

/-- Step 1 of R116: the silent mark cleared, with the release of R112. That slot 12 is written before the release is the model's choice
(log 6). -/
def State.clearSilent (s : State) : State :=
  if s.table.silentMark then
    let t := s.setMarks false s.table.phaseBMark
    if t.table.phaseBMark then t else t.release 0xF102 .sensor
  else s

/-- The direction of a pulse taken now (R107): true for REVERSE. -/
def State.pulseReverse (s : State) : Bool := s.quadrature && !s.table.phaseBMark && s.dist.spbLevel

/-- Step 2 of R116. -/
def State.takeDirection (s : State) : State :=
  if s.pulseReverse = s.dist.reverse then s
  else ({ s with dist.reverse := s.pulseReverse }).writePlain 1 (.fresh (bit s.pulseReverse))

/-- The phase-B fault found (R108). That slot 12's write, the flag with its notice and the push come in the order of R108's sentence is the
model's choice (log 6). -/
def State.phaseBFault (s : State) : State :=
  ((s.setMarks s.table.silentMark true).raise .sensorFault).push 0xF102 .caution .sensor

/-- Step 3 of R116. -/
def State.countPhaseB (s : State) : State :=
  if s.quadrature && decide (s.dist.phaseB < 64) then
    let t := { s with dist.phaseB := s.dist.phaseB + 1 }
    if t.dist.phaseB = 64 then t.phaseBFault else t
  else s

/-- An accepted edge of SPB (R107, R108). That slot 12 is written before 0xF102 is released is the model's choice (log 6). -/
def State.spbEdge (s : State) : State :=
  if s.quadrature then
    let t := { s with dist.phaseB := 0 }
    if t.table.phaseBMark then
      let u := t.setMarks t.table.silentMark false
      if u.table.silentMark then u else u.release 0xF102 .sensor
    else t
  else s

/-- The ring after a pulse at moment `now` (R109). -/
def Distance.ringAfter (d : Distance) (now : Nat) : List Nat :=
  match d.lastPulse with
  | none => d.ring
  | some t =>
    if now - t ≤ 4000000 then
      let joined := d.ring ++ [now - t]
      if ringRoom < joined.length then joined.tail else joined
    else []

/-- The speed of a ring in 0.01 km/h (R110). -/
def ringSpeed (ring : List Nat) (k : Nat) : Nat := min 25000 (ring.length * 360000000000 / (k * ring.sum))

/-- Step 4 of R116; `cleared` says whether the pulse cleared the silent mark (R110, R112). -/
def State.takeInterval (s : State) (cleared : Bool) : State :=
  let t := { s with dist.ring := s.dist.ringAfter s.clock, dist.lastPulse := some s.clock }
  match t.dist.ring with
  | [] => if cleared then t.writeSpeed (.fresh 0) else t
  | _ :: _ => t.writeSpeed (.fresh (ringSpeed t.dist.ring t.dist.kFactor))

/-! ### Distance (R113 to R116) -/

/-- Slot 2 written where the live odometer's quotient differs from it (R114). -/
def State.showOdometer (s : State) : State := s.writeOther 2 (s.dist.liveOdo / 100 : Nat)

/-- The live odometer rises by one metre (R114), and the kilometre trigger follows (R115). -/
def State.addMetre (s : State) : State :=
  if s.dist.liveOdo < 4294967295 then
    let t := ({ s with dist.liveOdo := s.dist.liveOdo + 1 }).showOdometer
    if t.dist.storedOdo + 1000 ≤ t.dist.liveOdo then t.storeOdometer else t
  else s

/-- Step 5 of R116. -/
def State.accumulate (s : State) : State :=
  if s.dist.accumulator + 1000 < s.dist.kFactor then { s with dist.accumulator := s.dist.accumulator + 1000 }
  else ({ s with dist.accumulator := s.dist.accumulator + 1000 - s.dist.kFactor }).addMetre

/-- Step 6 of R116, and the start at WAKING entry: the zero timer takes P_ZERO_MS (R111). -/
def State.restartZero (s : State) : State := { s with dist.zeroTimer := s.after (ms (s.paramNat 9)) }

/-- One pulse (R116). -/
def State.pulse (s : State) : State :=
  (((((s.clearSilent.takeDirection).countPhaseB).takeInterval s.table.silentMark).accumulate).restartZero).pulseNotice

/-- The zero timer expires (R111). -/
def State.zeroExpired (s : State) : State :=
  let t := { s with dist.ring := [], dist.lastPulse := none, dist.zeroTimer := none }
  if t.table.silentMark then t else t.writeSpeed (.fresh 0)

/-- The silence watch expires (R148, R112). That slot 12's write, the flag with its notice, the push and slot 0's write come in the order
of R148's list is the model's choice (log 6). -/
def State.watchExpired (s : State) : State :=
  let t := ({ s with tacho.watch := none }).setMarks true s.table.phaseBMark
  ((t.raise .sensorFault).push 0xF102 .caution .sensor).writeSpeed .error

/-! ### The pulse filter (R106) -/

/-- The raw level of a pin. -/
def State.rawLevel (s : State) (p : Pin) : Bool :=
  match p with
  | .spa => s.pins.spa
  | .spb => s.pins.spb

/-- The raw level of a pin changed. -/
def State.setRaw (s : State) (p : Pin) (high : Bool) : State :=
  match p with
  | .spa => { s with pins.spa := high }
  | .spb => { s with pins.spb := high }

/-- The filtered level of a pin. -/
def State.filtered (s : State) (p : Pin) : Bool :=
  match p with
  | .spa => s.dist.spaLevel
  | .spb => s.dist.spbLevel

/-- The stability time of a pin. -/
def State.stability (s : State) (p : Pin) : Timer :=
  match p with
  | .spa => s.dist.spaTimer
  | .spb => s.dist.spbTimer

/-- The stability time of a pin set. -/
def State.setStability (s : State) (p : Pin) (t : Timer) : State :=
  match p with
  | .spa => { s with dist.spaTimer := t }
  | .spb => { s with dist.spbTimer := t }

/-- The filtered level of a pin set. -/
def State.setFiltered (s : State) (p : Pin) (high : Bool) : State :=
  match p with
  | .spa => { s with dist.spaLevel := high }
  | .spb => { s with dist.spbLevel := high }

/-- The filters run: WAKING, RUN and PARKING (R106). -/
def State.awake (s : State) : Bool := s.powered && decide (s.ign.power ≠ .sleep)

/-- The filter takes a raw level away from or back to the filtered level (R106). -/
def State.filterChange (s : State) (p : Pin) : State :=
  if s.rawLevel p = s.filtered p then
    if (s.stability p).isSome then
      { s.setStability p none with dist.filterReject := satInc count16 (s.setStability p none).dist.filterReject }
    else s
  else s.setStability p (s.after (s.paramNat 8))

/-- The stability time of a pin ends: the filtered level takes the raw level, an accepted edge (R106 to R108). -/
def State.acceptEdge (s : State) (p : Pin) : State :=
  let t := (s.setStability p none).setFiltered p (s.rawLevel p)
  match p with
  | .spa => if t.dist.spaLevel then t.pulse else t
  | .spb => t.spbEdge

end Sys2Proof.Machine
end

