-- ==== Sys2Proof/Machine/Store.lean ====
section
/-! DEFINITION. The images of the two stores: what they hold, the checks of a load, and the loads (R178, R183, R184), with the
ranges and relations of route entries, rules and parameters that requests check too (R12, R68, R69, R173, R174). -/

namespace Sys2Proof.Machine

/-! ### Ranges and relations -/

/-- The constraints of an extractor's part A in a frame of `length` bytes (R12, R19 step 2). -/
def ExtractorA.passes (a : ExtractorA) (length : Nat) : Bool :=
  decide (a.start ≤ 63) && decide (1 ≤ a.width) && decide (a.width ≤ 32) &&
    decide (a.start + a.width ≤ 8 * length) &&
    (decide (a.order = .lowFirst) || (decide (a.start % 8 = 0) && decide (a.width % 8 = 0))) &&
    decide (16 ≤ a.slot) && decide (a.slot ≤ 95)

/-- The constraints of an extractor's part B (R12, R20). -/
def ExtractorB.passes (b : ExtractorB) : Bool :=
  decide (b.multiplier ≠ 0) && decide (-32768 ≤ b.multiplier) && decide (b.multiplier ≤ 32767) &&
    decide (1 ≤ b.divisor) && decide (b.divisor ≤ 32767)

/-- The constraints of an extractor (R12). -/
def Extractor.passes (e : Extractor) (length : Nat) : Bool := e.a.passes length && e.b.passes && fits32 e.offset

/-- A timeout of a route entry: 10–65000 ms in steps of 10 ms (R11). -/
def timeoutPasses (t : Nat) : Bool := decide (10 ≤ t) && decide (t ≤ 65000) && decide (t % 10 = 0)

/-- The ranges of a route entry (R11, R12). -/
def Route.passes (r : Route) : Bool :=
  decide (r.key.identifier < 2 ^ 29) && decide (1 ≤ r.length) && decide (r.length ≤ 8) && timeoutPasses r.timeout &&
    decide (1 ≤ r.extractors.length) && decide (r.extractors.length ≤ 4) &&
    r.extractors.all (fun e => e.passes r.length)

/-- The place of a key in key order: port T before port L, then the identifier (R11). -/
def RouteKey.rank (k : RouteKey) : Nat := portBit k.port * 2 ^ 32 + k.identifier

/-- Numbers strictly ascending. -/
def ascends : List Nat → Bool
  | [] => true
  | [_] => true
  | a :: b :: rest => decide (a < b) && ascends (b :: rest)

/-- No number stands twice. -/
def noneTwice : List Nat → Bool
  | [] => true
  | a :: rest => !rest.contains a && noneTwice rest

/-- The destination slots of a route (R12). -/
def Route.slots (r : Route) : List Nat := r.extractors.map (fun e => e.a.slot)

/-- The ranges of a gauge record's settings (R41). -/
def GaugeSettings.inRange (g : GaugeSettings) : Bool :=
  decide (g.source ≤ 95) && decide (g.fallback.getD 0 ≤ 95) && decide (1 ≤ g.fullScale) && decide (g.fullScale ≤ 4095) &&
    decide (g.restDelay ≤ 255) && decide (g.deadBand ≤ 15) &&
    g.intervals.items.all (fun i => decide (200 ≤ i) && decide (i ≤ 20000))

/-- A live record passes: its ranges and the checks of R43 step 2 (R183). -/
def LiveRecord.passes (l : LiveRecord) : Bool :=
  l.settings.inRange && decide (2 ≤ l.curve.length) && decide (l.curve.length ≤ 8) &&
    l.curve.all (fun p => fits32 p.value) && recordPasses l.settings l.curve

/-- An alert code that a rule may carry with a severity (R69). -/
def ruleCode (code : Nat) : Bool := decide (1 ≤ code) && decide (code ≤ 0xEFFF)

/-- The alert code of a part D. -/
def RulePartD.code (d : RulePartD) : Option Nat := d.alert.map (·.1)

/-- The ranges of a stored rule (R67, R69). -/
def StoredRule.passes (r : StoredRule) : Bool :=
  decide (r.index < 64) && decide (r.a.lamp < 32) && decide (r.a.slot ≤ 95) && decide (r.a.priority ≤ 15) &&
    fits32 r.b && decide (r.c.hysteresis ≤ 65535) && decide (r.c.confirmTime ≤ 255) &&
    (match r.d.code with
      | none => true
      | some code => ruleCode code)

/-- The range of a parameter (R173). -/
def paramInRange (id : Nat) (v : Int) : Bool :=
  let within := fun (lo hi : Int) => decide (lo ≤ v) && decide (v ≤ hi)
  match id with
  | 0 => decide (v = 250) || decide (v = 500)
  | 1 => decide (v = 250) || decide (v = 500)
  | 2 => within 100 5000
  | 3 => within 0 10000
  | 4 => within (-1) 95
  | 5 => within 5 100
  | 6 => within 1 255
  | 7 => within 0 1
  | 8 => within 2 250
  | 9 => within 500 5000
  | 10 => within 16 95 || decide (v = -1)
  | 11 => within 16 95 || decide (v = -1)
  | 12 => within 16 95 || decide (v = -1)
  | 13 => within 16 95 || decide (v = -1)
  | 14 => within 16 95 || decide (v = -1)
  | 15 => within 16 95 || decide (v = -1)
  | 16 => within 16 95 || decide (v = -1)
  | 17 => within 60 600
  | 18 => within 15 120
  | 19 => within 5 60
  | 20 => within 1 60
  | 21 => within 1 20
  | 22 => within 2 60
  | 23 => within 0 0x1FFFFFFF
  | 24 => within 0 0x1FFFFFFF
  | 25 => within 0 0x1FFFFFFF
  | 26 => within 0 0x1FFFFFFF
  | _ => false

/-- The ids of the tachograph map (R126). -/
def mapIds : List Nat := [10, 11, 12, 13, 14, 15, 16]

/-- The ids of the four identifiers (R176). -/
def identifierIds : List Nat := [23, 24, 25, 26]

/-- The relations that parameter `id` with value `v` keeps to the other held values (R126, R127, R174). -/
def paramRelates (held : Bank Int 27) (id : Nat) (v : Int) : Bool :=
  if id = 18 then decide (held.get 19 0 ≤ v)
  else if id = 19 then decide (v ≤ held.get 18 0)
  else if mapIds.contains id then decide (v = -1) || mapIds.all (fun j => j == id || decide (held.get j 0 ≠ v))
  else if identifierIds.contains id then identifierIds.all (fun j => j == id || decide (held.get j 0 ≠ v))
  else true

/-! ### The configuration store (R178, R183) -/

/-- The stored form of rule `i` if it is LIVE (R178). -/
def State.storedRule (s : State) (i : Nat) : Option StoredRule :=
  let r := s.rule i
  match r.life, r.a, r.b, r.c, r.d with
  | .live, some a, some b, some c, some d => some { index := i, a := a, b := b, c := c, d := d }
  | _, _, _, _, _ => none

/-- The image of the live tables and parameters (R178). -/
def State.configImage (s : State) : ConfigImage :=
  { routes := s.intake.routes.map (·.route), gauges := s.gauges.map (·.live),
    rules := (List.range 64).filterMap s.storedRule, params := s.mgmt.held }

/-- The contents of a configuration image pass (R183). -/
def ConfigImage.passes (c : ConfigImage) : Bool :=
  decide (c.routes.length ≤ routeRoom) && c.routes.all Route.passes && ascends (c.routes.map (fun r => r.key.rank)) &&
    noneTwice (c.routes.flatMap Route.slots) && c.gauges.items.all LiveRecord.passes && c.rules.all StoredRule.passes &&
    ascends (c.rules.map (·.index)) && noneTwice (c.rules.filterMap (fun r => r.d.code)) &&
    (List.range 27).all (fun id => paramInRange id (c.params.get id 0) && paramRelates c.params id (c.params.get id 0))

/-- The empty configuration of a bad store (R183). -/
def ConfigImage.empty : ConfigImage :=
  { routes := [], gauges := Bank.fill 8 LiveRecord.factory, rules := [], params := defaultParams }

/-- The image of a good configuration store (R183). -/
def goodConfig (c : StoreContents ConfigImage) : Option ConfigImage :=
  match c with
  | .blank => none
  | .bad => none
  | .image i => if i.passes then some i else none

/-- A stored rule loaded: LIVE and INACTIVE (R87). -/
def StoredRule.load (r : StoredRule) : Rule :=
  { Rule.blank with life := .live, a := some r.a, b := some r.b, c := some r.c, d := some r.d }

/-- The Lamp Rule Table that the stored rules give (R87). -/
def loadRules (rules : List StoredRule) : Bank Rule 64 :=
  rules.foldl (fun bank r => bank.put r.index r.load) (Bank.fill 64 Rule.blank)

/-- One gauge channel loaded at its place (R45). -/
def loadChannel (image : ConfigImage) (bank : Bank Channel 8) (c : Nat) : Bank Channel 8 :=
  bank.put c ((bank.get c Channel.powerOn).load (image.gauges.get c LiveRecord.factory))

/-- An image installed whole (R16, R45, R87, R173, R183). -/
def State.installConfig (s : State) (image : ConfigImage) (valid : Bool) : State :=
  { s with
    intake.routes := image.routes.map (fun r => { route := r, hits := 0, rejects := 0 }),
    gauges := (List.range 8).foldl (loadChannel image) s.gauges,
    telltale.rules := loadRules image.rules,
    mgmt.held := image.params, mgmt.inEffect := image.params,
    store.report := valid }

/-- The configuration store loaded (R183). -/
def State.loadConfig (s : State) : State :=
  match goodConfig s.store.config with
  | some image => s.installConfig image true
  | none => s.installConfig ConfigImage.empty false

/-! ### The calibration store (R184) -/

/-- A k-factor in its range (R117). -/
def kPasses (k : Nat) : Bool := decide (2000 ≤ k) && decide (k ≤ 64000)

/-- The contents of a calibration image pass (R184). -/
def CalImage.passes (c : CalImage) : Bool :=
  kPasses c.kFactor && decide (c.history.length ≤ historyRoom) &&
    c.history.all (fun e => kPasses e.oldK && kPasses e.newK) &&
    decide (c.kFactor = (c.history.getLast?.map (·.newK)).getD 8000)

/-- The defaults of a bad or blank calibration store (R184). -/
def CalImage.default : CalImage := { kFactor := 8000, history := [], sealed := false, odometer := 0 }

/-- What the calibration store gives at a load (R184). -/
def loadedCal (c : StoreContents CalImage) : CalImage :=
  match c with
  | .blank => CalImage.default
  | .bad => CalImage.default
  | .image i => if i.passes then i else CalImage.default

/-- The distance block takes the loaded calibration and makes its WAKING entry (R106, R111, R124). -/
def State.loadCal (s : State) : State :=
  let c := loadedCal s.store.calibration
  let d : Distance :=
    { spaLevel := s.pins.spa, spbLevel := s.pins.spb, spaTimer := none, spbTimer := none, filterReject := 0,
      reverse := false, phaseB := 0, ring := [], lastPulse := none, zeroTimer := none, accumulator := 0,
      liveOdo := c.odometer, storedOdo := c.odometer, kFactor := c.kFactor, history := c.history, sealed := c.sealed }
  ({ s with dist := d }).restartZero

/-- The calibration write in flight completes (R182): the follow-on write starts, or the write state is IDLE. -/
def State.calWritten (s : State) : State :=
  match s.store.write with
  | .idle => { s with store.writeTimer := none }
  | .writing image =>
    { s with store.calibration := .image image, store.write := .idle, store.writeTimer := none, ign.writeMark := false }
  | .writingPending image => ({ s with store.calibration := .image image }).startCalWrite

end Sys2Proof.Machine
end

