-- ==== Sys2Proof/Machine/Power.lean ====
section
/-! DEFINITION. The changes of power state: what each block does at WAKING entry, RUN entry, PARKING entry, the return to RUN and
SLEEP entry (chapter 11 and the last section of each chapter), the channels' reports (R66, R188, R190), power-on and restart. -/

namespace Sys2Proof.Machine

/-! ### The IGN timer (R187) -/

/-- The mark toward which the IGN timer runs: 100 ms on a high line, 500 ms on a low one (R187). -/
def State.ignMark (s : State) : Nat := if s.pins.ign then ms 100 else ms 500

/-- The line compared with the IGN level at an entry (R187). -/
def State.compareIgn (s : State) : State :=
  { s with ign.timer := if s.pins.ign = s.ign.level then none else s.after s.ignMark }

/-! ### Entry to SLEEP (R190) -/

/-- A save still in flight is cut short (R180). -/
def State.cutSave (s : State) : State :=
  if s.store.save.isSome then
    ({ s with store.config := .bad, store.save := none, store.saveLimit := none, store.saveCut := true,
              ign.saveMark := false }).setFlag .saveFailed
  else s

/-- A port turned off (R6). -/
def PortBlock.turnOff (b : PortBlock) : PortBlock := { b with on := false, silence := none, recovery := none }

/-- The release-owed mark cleared (R88). -/
def Rule.forget (r : Rule) : Rule := { r with releaseOwed := false, confirm := none }

/-- The pending restart no longer waits for its response (R177). -/
def PendingRestart.release (r : PendingRestart) : PendingRestart := { r with ahead := 0 }

/-- What each block does at SLEEP entry (R6, R10, R17, R37, R61, R88, R100, R105, R123, R150, R163, R177). -/
def State.sleepBlocks (s : State) : State :=
  { s with
    portT := s.portT.turnOff, portL := s.portL.turnOff,
    intake.queue := [], intake.transmit := [], intake.build := none,
    table.frozenAt := some s.clock,
    gauges := s.gauges.map Channel.sleep,
    telltale := { s.telltale with rules := s.telltale.rules.map Rule.forget, phaseTimer := none, proveOut := none },
    alert := { s.alert with
      stack := [], backlog := [], playing := none, chimeTimer := none, tone := false, toneTimer := none,
      ackHold := none, ackRelease := none },
    dist := { s.dist with spaTimer := none, spbTimer := none, zeroTimer := none },
    tacho := { s.tacho with
      readout := [], transfer := .idle, transferTimer := none, restarted := none, minuteTimer := none,
      mismatchTimer := none, watch := none },
    display := { s.display with
      link := .off, dirty := DirtySet.clean, readyTimer := none, retryTimer := none, startTimer := none,
      sending := none, doneTimer := none, pagePress := none, pageKnown := false, pageRelease := none },
    mgmt.restart := s.mgmt.restart.map PendingRestart.release }

/-- SLEEP entry (R190). -/
def State.sleepEntry (s : State) : State :=
  let t := { s with ign.power := .sleep, ign.hold := false, ign.parkingTimer := none, ign.secondTimer := none }
  t.cutSave.sleepBlocks.settleLamps.compareIgn

/-! ### Entry to RUN from WAKING (R188) -/

/-- The pattern requested at the entry to RUN (R104). -/
def runChime (stack : List AlertEntry) : Option ChimePattern :=
  match stack with
  | [] => none
  | e :: _ => some (if e.severity = .stop ∧ e.held = false then .caution else e.severity.pattern)

/-- The entry to RUN from WAKING (R188, R104, R150, R163). The power state is RUN before slot 15's write is delivered, so a
chime that a rule on slot 15 asks for is taken, and the top entry's chime is asked for after it; R188 gives no order there (the model's
choice, log 6). -/
def State.runEntry (s : State) : State :=
  let t := { s with ign.power := .run, ign.secondTimer := s.after (ms 1000), tacho.minuteTimer := s.after (ms 60000) }
  let u := t.writePlain 15 (.fresh 0)
  (u.chimeRequest? (runChime u.alert.stack)).markDirty [.pageSelect]

/-- The RUN condition (R188). -/
def Ignition.mayRun (g : Ignition) : Bool :=
  decide (g.power = .waking) && !g.proveOutRunning &&
    g.reports.items.all (fun r => decide (r = .tracking) || decide (r = .fault))

/-- The RUN condition judged (R188). -/
def State.judgeRun (s : State) : State := if s.ign.mayRun then s.runEntry else s

/-! ### The SLEEP condition (R190) and the channel reports (R66) -/

/-- The SLEEP condition (R190). -/
def Ignition.maySleep (g : Ignition) : Bool :=
  decide (g.power = .parking) && !g.saveMark && !g.writeMark &&
    g.reports.items.all (fun r => decide (r = .parked) || decide (r = .fault))

/-- The SLEEP condition judged (R190). -/
def State.judgeSleep (s : State) : State := if s.ign.maySleep then s.sleepEntry else s

/-- The report a channel makes of the state it has entered; UNHOMED, HOMING and PARKING are not reported (R66). -/
def ChannelState.report (c : ChannelState) : Option ChannelReport :=
  match c with
  | .tracking => some .tracking
  | .parked => some .parked
  | .fault => some .fault
  | .unhomed => none
  | .homing => none
  | .parking => none

/-- The report of channel `c` as its state stands, where that state is a new one (R66). -/
def State.noteChannel (s : State) (before : Bank Channel 8) (c : Nat) : State :=
  let was := (before.get c Channel.powerOn).state
  match (s.channel c).state.report with
  | some r => if (s.channel c).state = was then s else { s with ign.reports := s.ign.reports.put c r }
  | none => s

/-- Channel `c` becomes `ch`, and the controller is told and judges (R66, R188, R190). -/
def State.moveChannel (s : State) (c : Nat) (ch : Channel) : State :=
  let t := s.putChannel c ch
  if (s.channel c).state = ch.state then t else (t.noteChannel s.gauges c).judgeRun.judgeSleep

/-- Every channel changed alike at a change of power state, with the reports that follow. -/
def State.moveAll (s : State) (f : Channel → Channel) : State :=
  (List.range 8).foldl (fun t c => t.noteChannel s.gauges c) { s with gauges := s.gauges.map f }

/-! ### PARKING entry (R189) -/

/-- A LIVE rule at PARKING entry (R88). -/
def Rule.park (r : Rule) : Rule :=
  match r.life with
  | .live =>
    { r with live := .inactive, condition := false, confirm := none,
             releaseOwed := r.releaseOwed || decide (r.live = .active) }
  | .free => r
  | .editing => r

/-- A driver's summary slot that reads 1 at PARKING entry (R150). -/
def State.parkSummary (s : State) (d : Driver) : State :=
  if (s.slot (summarySlot d)).value = 1 then
    s.writeSummary d (if (s.driver d).summary.isSome then 2 else 0)
  else s

/-- A transfer in flight abandoned (R143, R150). -/
def State.abandonAny (s : State) : State :=
  match s.tacho.transfer.driver with
  | some d => s.abandon d
  | none => s

/-- The tachograph block at PARKING entry, in the order of R150; driver 1's SUMMARY before driver 2's is the model's choice (log 6). -/
def State.parkTacho (s : State) : State :=
  let t := ({ s with tacho.minuteTimer := none }).abandonAny
  (({ t with tacho.readout := [] }).parkSummary .one).parkSummary .two

/-- PARKING entry (R189; R58, R82, R88, R105, R125, R150, R163). R189 gives no order among the blocks; needles and rules, lamps, chime,
odometer, tachograph, link, and so no needle or rule takes the tachograph's writes of slots 8 and 9, are the model's choice (log 6). -/
def State.parkingEntry (s : State) : State :=
  let t := { s with
    ign.power := .parking, ign.hold := true, ign.secondTimer := none, ign.parkingTimer := s.after (ms 10000),
    ign.writeMark := true, ign.proveOutRunning := false,
    telltale.rules := s.telltale.rules.map Rule.park, telltale.proveOut := none }
  let u := (t.moveAll (fun c => c.park s.clock)).settleLamps.chimeIdle.storeOdometer.parkTacho
  (u.markDirty [.pageSelect]).compareIgn

/-! ### Return to RUN (R191) -/

/-- Rule `i` evaluates at the return to RUN (R88): the new rule, and what it sends. -/
def Rule.resume (r : Rule) (i now : Nat) (rec : SlotRecord) : Rule × List AlertAction :=
  if r.releaseOwed then
    if r.judge false rec then ({ r.activate with releaseOwed := false }, [])
    else ({ r.deactivate with releaseOwed := false }, r.releases i)
  else r.react i now rec

/-- Rule `i` at the return to RUN (R88), and what it sends gathered. -/
def resumeRule (acc : State × List AlertAction) (i : Nat) : State × List AlertAction :=
  match (acc.1.rule i).liveSlot with
  | none => acc
  | some n =>
    let r := (acc.1.rule i).resume i acc.1.clock (acc.1.slot n)
    (acc.1.putRule i r.1, acc.2 ++ r.2)

/-- Every LIVE rule evaluates at the return to RUN, in ascending index order, before the alert block acts on what they send: no
rule takes an event of slot 13 before its own row of R88's table. -/
def State.resumeRules (s : State) : State :=
  let r := (List.range 64).foldl resumeRule (s, [])
  r.1.send r.2

/-- The return from PARKING to RUN (R191; R60, R88, R150, R163). The manual gives no order among the blocks: gauges, rules with
their alerts, lamps, the tachograph's transfer start, the display link are the model's choice (log 6). -/
def State.returnToRun (s : State) : State :=
  let t := { s with
    ign.power := .run, ign.hold := false, ign.parkingTimer := none, ign.secondTimer := s.after (ms 1000),
    tacho.minuteTimer := s.after (ms 60000) }
  let u := (t.moveAll (fun c => c.unpark s.table.slots s.clock)).resumeRules
  (u.settleLamps.tryStart.markDirty [.pageSelect]).compareIgn

/-! ### WAKING entry (R188) -/

/-- The controller at WAKING entry (R188). -/
def Ignition.wake (g : Ignition) : Ignition :=
  { g with power := .waking, reports := Bank.fill 8 .none, proveOutRunning := true, runSeconds := 0 }

/-- A port turned on (R4, R6). -/
def PortBlock.turnOn (silence : Timer) : PortBlock := { PortBlock.off with on := true, awaiting := true, silence := silence }

/-- The event flags at WAKING entry: all clear but the SAVE_FAILED of a save cut short (R168). -/
def wakeFlags (flags : BitVec 12) (cut : Bool) : BitVec 12 :=
  if cut then flags &&& EventFlag.saveFailed.mask else 0

/-- Management and the store block at WAKING entry, before the loads (R168, R177, R185). -/
def State.wakeManagement (s : State) : State :=
  { s with mgmt.flags := wakeFlags s.mgmt.flags s.store.saveCut, mgmt.restart := none, store.saveCut := false }

/-- A calibration write still in flight has had its time before WAKING entry: it and its follow-on complete (R182, R185,
log 11). -/
def State.settleWrite (s : State) : State := s.calWritten.calWritten

/-- The ports, the intake and the Signal Table at WAKING entry (R6, R10, R17, R38). -/
def State.wakeInput (s : State) : State :=
  { s with
    portT := PortBlock.turnOn (s.after (ms (s.paramNat 2))), portL := PortBlock.turnOn (s.after (ms (s.paramNat 2))),
    intake := { s.intake with queue := [], transmit := [], build := none }, table := SignalTable.reset }

/-- The alert block, the tachograph block and the display link at WAKING entry (R100, R105, R95, R149, R157, R163): a
button held is not in its released state. -/
def State.wakeOutput (s : State) : State :=
  { s with
    alert := { AlertBlock.powerOn with ackArmed := !s.pins.ack },
    tacho := Tacho.powerOn,
    display := { Display.powerOn with
      link := .idle, dirty := ⟨true, true, true, true, true, true⟩, pageArmed := !s.pins.page,
      csFree := s.display.csFree } }

/-- The gauges and the lamps at WAKING entry (R54, R82, R87). -/
def State.wakeNeedlesAndLamps (s : State) : State :=
  { s with
    gauges := s.gauges.map (fun c => c.home s.clock),
    telltale := { s.telltale with
      phase := 0, phaseTimer := s.after 31250, duty := 100, lamps := Bank.fill 32 ⟨false, false⟩,
      proveOut := if s.paramNat 3 = 0 then none else s.after (ms (s.paramNat 3)) } }

/-- The first writes of the internal slots (R39; slots 4 to 9 are the tachograph block's, R149). R39 allows any order among them: slot 13
first, because the stack is then empty (R100), and then 1, 2, 4, 6, 5, 7, 8, 9, 12, 14 is the model's choice (DESIGN CHOICE, log 6). -/
def State.firstWrites (s : State) : State :=
  let t := (s.writePlain 13 (.fresh 0)).writePlain 1 (.fresh 0)
  let u := t.writePlain 2 (.fresh (t.dist.liveOdo / 100 : Nat))
  let v := ((u.writePlain 4 (.fresh 0)).writePlain 6 (.fresh 0)).writePlain 5 .notAvailable
  let w := ((v.writePlain 7 .notAvailable).writePlain 8 (.fresh 0)).writePlain 9 (.fresh 0)
  (w.writePlain 12 (.fresh 0)).writePlain 14 (.fresh 0)

/-- Rule `i` evaluates its slot's present record by itself (R70, R87). -/
def State.evalAlone (s : State) (i : Nat) : State := (s.evalRule i).1.send (s.evalRule i).2

/-- Rule `i` evaluates and gathers what it sends. -/
def gatherAlone (acc : State × List AlertAction) (i : Nat) : State × List AlertAction :=
  ((acc.1.evalRule i).1, acc.2 ++ (acc.1.evalRule i).2)

/-- Every LIVE rule evaluates, in ascending index order; what they send reaches the alert block in that order (R87 step 4). That every rule
evaluates before the alert block acts on any push, so that what the rules on slot 13 send in answer comes behind all the others, is the
model's choice (DESIGN CHOICE, log 6). -/
def State.evalAll (s : State) : State :=
  let r := (List.range 64).foldl gatherAlone (s, [])
  r.1.send r.2

/-- A bad configuration store reported (R183): the flag before the push, the model's choice (log 6). -/
def State.reportConfig (s : State) : State :=
  if s.store.report then s else (s.raise .configInvalid).push 0xF001 .stop .config

/-- Prove-out ends: the controller is told and judges (R82, R188). -/
def State.proveOutEnded (s : State) : State :=
  ({ s with telltale.proveOut := none, ign.proveOutRunning := false }).settleLamps.judgeRun

/-- The prove-out of 0 ms ends at WAKING entry (R82). -/
def State.skipProveOut (s : State) : State := if s.telltale.proveOut.isNone then s.proveOutEnded else s

/-- The display link sends, waits or stays IDLE by its due record (R154). -/
def State.pollDisplay (s : State) : State := { s with display := s.display.poll s.pins.ready s.clock }

/-- WAKING entry (R188), in the order of log 6. -/
def State.wakingEntry (s : State) : State :=
  let a := ({ s with ign := s.ign.wake }).settleWrite.wakeManagement.loadConfig.loadCal
  let b := a.wakeInput.wakeOutput.wakeNeedlesAndLamps.pollDisplay
  (b.firstWrites.evalAll.reportConfig.skipProveOut).settleLamps.compareIgn

/-! ### Power-on, supply loss and restart (R177, R180, R192) -/

/-- Every block at its power-on value; what the stores hold, the levels outside, the clock and the queue stay. The 4 µs gap after a
transfer that the restart cuts or closely follows is not kept: the manual is silent (the model's choice, log 9). -/
def State.poweredOn (s : State) : State :=
  { State.reset with
    clock := s.clock, pins := s.pins, fresh := s.fresh, pending := s.pending,
    alert := { AlertBlock.powerOn with ackArmed := !s.pins.ack },
    display := { Display.powerOn with pageArmed := !s.pins.page },
    store := { Store.blankPart with config := s.store.config, calibration := s.store.calibration } }

/-- The controller samples the IGN line at power-on (R192). -/
def State.sampleIgn (s : State) : State :=
  if s.pins.ign then ({ s with ign.level := true }).wakingEntry else s

/-- Power-on, or a restart carried out (R192, R177). -/
def State.start (s : State) : State := s.poweredOn.sampleIgn

/-- The stores as a supply loss leaves them: a save in flight leaves its store bad (R180), a calibration write in flight
completes on the hold-up capacitor and its follow-on does not start (R182, log 11). -/
def State.loseSupply (s : State) : State :=
  { s.poweredOn with
    powered := false,
    store := { Store.blankPart with
      config := if s.store.save.isSome then .bad else s.store.config,
      calibration :=
        match s.store.write with
        | .idle => s.store.calibration
        | .writing image => .image image
        | .writingPending image => .image image } }

end Sys2Proof.Machine
end

