-- ==== Sys2Proof/Machine/Classifier.lean ====
section
/-! DEFINITION. The classifier's paths (R8): which command the record at the head of the intake queue is. -/

namespace Sys2Proof.Machine

/-- The request a code names (section 12.1); none for a code of no request. -/
def requestOf (code : Nat) : Option Instr :=
  match code with
  | 0x01 => some .readEvents
  | 0x02 => some .setNoticeMask
  | 0x03 => some .readCounters
  | 0x04 => some .setParam
  | 0x05 => some .getParam
  | 0x06 => some .restart
  | 0x08 => some .configSave
  | 0x09 => some .configErase
  | 0x10 => some .routeOpen
  | 0x11 => some .extA
  | 0x12 => some .extB
  | 0x13 => some .extC
  | 0x14 => some .routeDelete
  | 0x15 => some .routeRead
  | 0x18 => some .readSlot
  | 0x20 => some .gaugeField
  | 0x21 => some .gaugeCommit
  | 0x22 => some .gaugeRead
  | 0x28 => some .ruleA
  | 0x29 => some .ruleB
  | 0x2A => some .ruleC
  | 0x2B => some .ruleD
  | 0x2C => some .ruleEnable
  | 0x2D => some .ruleClear
  | 0x2E => some .ruleRead
  | 0x2F => some .lampRead
  | 0x30 => some .alertAck
  | 0x31 => some .alertRead
  | 0x38 => some .setKfactor
  | 0x39 => some .setOdometer
  | 0x3A => some .sealOdometer
  | 0x3B => some .readCalHistory
  | 0x3C => some .distanceRead
  | 0x40 => some .cardRead
  | 0x41 => some .tachoRead
  | 0x48 => some .displayRead
  | _ => none

/-- The transfer command of a frame that is not stray (R137). -/
def xferCommand (f : XferFrame) : Instr :=
  match f with
  | .opening _ _ => .xferOpen
  | .data _ _ _ => .xferData
  | .closing _ _ => .xferClose
  | .aborting _ => .xferAbort

/-- The ACTIVE entry of a key (R8, case 4). -/
def findRoute (routes : List RouteEntry) (k : RouteKey) : Option RouteEntry :=
  routes.find? (fun e => decide (e.route.key = k))

/-- The key of a record (R8). -/
def FrameRecord.key (r : FrameRecord) : RouteKey := { port := r.port, identifier := r.identifier }

/-- A record from port L on MGMT_REQ_ID (R8, case 2). -/
def State.isForeign (s : State) (r : FrameRecord) : Bool :=
  decide (r.port = .trailer) && decide (r.identifier = s.mgmtReqId)

/-- A record that reaches route lookup (R8, case 4). -/
def State.isLookedUp (s : State) (r : FrameRecord) : Bool := !s.isMgmt r && !s.isForeign r && !s.isXfer r

/-- The path of a record, as the command that takes it (R8). -/
def State.pathOf (s : State) (r : FrameRecord) : Instr :=
  if s.isMgmt r then
    if r.data.length = 8 then (requestOf (r.byte 0)).getD .badRequest else .badRequest
  else if s.isForeign r then .foreignMgmt
  else if s.isXfer r then
    match s.xferFrame r with
    | some f => xferCommand f
    | none => .xferStray
  else if (findRoute s.intake.routes r.key).isSome then .routedFrame
  else .unroutedFrame

/-- A management record with no request: the wrong length or an unknown code (R164). -/
def State.isBadRequest (s : State) (r : FrameRecord) : Bool :=
  s.isMgmt r && (decide (r.data.length ≠ 8) || (requestOf (r.byte 0)).isNone)

/-! ### Routed frames (R15) -/

/-- One extractor writes its slot (R13, R14, R15). -/
def extractInto (route : Route) (data : List Byte) (s : State) (e : Extractor) : State :=
  s.writeFrame e.a.slot (extract e data) route.timeout route.key

/-- The entry of a key counted as hit or rejected by its length (R15). -/
def RouteEntry.count (e : RouteEntry) (hit : Bool) : RouteEntry :=
  if hit then { e with hits := satInc count16 e.hits } else { e with rejects := satInc count8 e.rejects }

/-- The counts of the entry of a key changed (R15). -/
def countRoute (routes : List RouteEntry) (k : RouteKey) (hit : Bool) : List RouteEntry :=
  routes.map (fun e => if e.route.key = k then e.count hit else e)

/-- A record handled by the entry it hits (R15). -/
def State.routeFrame (s : State) (route : Route) (r : FrameRecord) : State :=
  let hit := decide (r.data.length = route.length)
  let t := { s with intake.routes := countRoute s.intake.routes route.key hit }
  if hit then route.extractors.foldl (extractInto route r.data) t else t

/-- ROUTED_FRAME (R8, R15). -/
def execRoutedFrame (s : State) : Answer :=
  takeHead (fun t r => t.isLookedUp r && (findRoute t.intake.routes r.key).isSome)
    (fun r t =>
      match findRoute t.intake.routes r.key with
      | some e => t.routeFrame e.route r
      | none => t) s

/-- UNROUTED counted (R5, R8). -/
def PortBlock.countUnrouted (b : PortBlock) : PortBlock := { b with unrouted := satInc count16 b.unrouted }

/-- UNROUTED_FRAME (R8). -/
def execUnroutedFrame (s : State) : Answer :=
  takeHead (fun t r => t.isLookedUp r && (findRoute t.intake.routes r.key).isNone)
    (fun r t => t.setPort r.port (t.port r.port).countUnrouted) s

/-- FOREIGN_MGMT (R8). -/
def execForeignMgmt (s : State) : Answer :=
  takeHead State.isForeign (fun _ t => { t with portL.foreignMgmt := satInc count16 t.portL.foreignMgmt }) s

/-- BAD_REQUEST (R164). -/
def execBadRequest (s : State) : Answer :=
  takeHead State.isBadRequest (fun r t => t.answer r (refuse .badRequest)) s

end Sys2Proof.Machine
end

