-- ==== Sys2Proof/Machine/Ignition.lean ====
section
/-! DEFINITION. The commands of the ignition controller and the supply (chapter 11, R177, R180, R192). -/

namespace Sys2Proof.Machine

/-- POWER_ON (R192): a part that has its supply is on already (log 31). -/
def execPowerOn (s : State) : Answer := .next (if s.powered then s else s.start)

/-- SUPPLY_LOSS (R180, R182, R192). -/
def execSupplyLoss (s : State) : Answer := .next (if s.powered then s.loseSupply else s)

/-- IGN_CHANGE (R187). -/
def execIgnChange (high : Bool) (s : State) : Answer :=
  .next
    (if s.pins.ign = high then s
     else if s.powered then ({ s with pins.ign := high }).compareIgn
     else { s with pins.ign := high })

/-- The IGN level takes the line's level, with the outcome of R187's table. -/
def State.takeIgnLevel (s : State) : State :=
  let t := { s with ign.level := s.pins.ign, ign.timer := none }
  match t.ign.power, t.ign.level with
  | .sleep, true => t.wakingEntry
  | .waking, false => t.parkingEntry
  | .run, false => t.parkingEntry
  | .parking, true => t.returnToRun
  | _, _ => t

/-- IGN_TIMER_EXPIRY (R187). -/
def execIgnTimerExpiry (s : State) : Answer := onExpiry s.ign.timer State.takeIgnLevel s

/-- PARKING_TIMER_EXPIRY (R190). -/
def execParkingTimerExpiry (s : State) : Answer := onExpiry s.ign.parkingTimer State.sleepEntry s

/-- A second of RUN has passed (R188). -/
def State.countSecond (s : State) : State :=
  let t := { s with ign.runSeconds := satInc 2147483647 s.ign.runSeconds, ign.secondTimer := s.after (ms 1000) }
  t.writePlain 15 (.fresh t.ign.runSeconds)

/-- SECOND_TIMER_EXPIRY (R188). -/
def execSecondTimerExpiry (s : State) : Answer := onExpiry s.ign.secondTimer State.countSecond s

/-- The moment a pending restart may take place: its response has left, or the 250 ms limit (R177, log 22). -/
def PendingRestart.moment (r : PendingRestart) (now : Nat) : Nat := if r.ahead = 0 then now else r.limit

/-- RESTART_EXECUTE (R177). -/
def execRestartExecute (s : State) : Answer :=
  match s.mgmt.restart with
  | none => .next s
  | some r => if s.store.write = .idle then .next (s.reach (r.moment s.clock)).start else .next s

end Sys2Proof.Machine
end

