-- ==== Sys2Proof/Machine/Ports.lean ====
section
/-! DEFINITION. The commands of the two CAN ports and the transmit queue (R1 to R9). -/

namespace Sys2Proof.Machine

/-- The OK slot of a port (R4). -/
def okSlot (p : Port) : Nat :=
  match p with
  | .tractor => 10
  | .trailer => 11

/-- The bus-off flag of a port (R3). -/
def busOffFlag (p : Port) : EventFlag :=
  match p with
  | .tractor => .busOffT
  | .trailer => .busOffL

/-- The error counts after a valid frame (R2). -/
def PortBlock.received1 (b : PortBlock) (p : Port) : PortBlock :=
  ({ b with
    txErrors := match p with
      | .tractor => b.txErrors
      | .trailer => b.txErrors - 1,
    rxErrors := b.rxErrors - 1 }).judge

/-- A valid frame's effect on the port's own silence (R4): the timer restarts, and the first frame after the turn-on or
after an expiry writes the OK slot with 1 and ends a loss. R4 names the slot's write and the release of NETWORK_LOST in no order: the slot
first is the model's choice (DESIGN CHOICE, log 6). -/
def State.hearFrame (s : State) (p : Port) : State :=
  let b := s.port p
  let t := s.setPort p { b.received1 p with silence := s.after (ms (s.paramNat 2)), awaiting := false, lost := false }
  if b.awaiting then
    let u := t.writePlain (okSlot p) (.fresh 1)
    if b.lost && decide (p = .tractor) then u.release 0xF002 .port else u
  else t

/-- The data bytes of a frame: a data length code above 8 gives a data length of 8 (R1); a frame whose bytes do not fit
its code is made to fit (log 32). -/
def frameData (f : BusFrame) : List Byte := (f.data ++ List.replicate 8 0).take (min f.dlc 8)

/-- A frame record offered to the intake queue (R7). -/
def State.intakeOffer (s : State) (r : FrameRecord) : State :=
  if s.intake.queue.length < intakeRoom then { s with intake.queue := s.intake.queue ++ [r] }
  else
    (s.setPort r.port { s.port r.port with queueDrop := satInc count16 (s.port r.port).queueDrop }).raise .intakeOverflow

/-- A valid frame kept or discarded by its format (R1). -/
def State.sortFrame (s : State) (p : Port) (f : BusFrame) : State :=
  if f.extended && !f.remote then
    (s.setPort p { s.port p with received := satInc count16 (s.port p).received }).intakeOffer
      { port := p, identifier := f.identifier % 2 ^ 29, data := frameData f }
  else s.setPort p { s.port p with stdDiscard := satInc count16 (s.port p).stdDiscard }

/-- VALID_FRAME_RECEIVED (R1, R2, R4, R7). That the OK slot's write and the release of NETWORK_LOST, with the notices that they bring, come
before INTAKE_OVERFLOW and its notice is the model's choice (DESIGN CHOICE, log 6): R1 gives no order and R171 allows either. -/
def execValidFrameReceived (p : Port) (f : BusFrame) (s : State) : Answer :=
  .next (if (s.port p).working then (s.hearFrame p).sortFrame p f else s)

/-- RX_ERROR_DETECTED (R2). -/
def execRxErrorDetected (p : Port) (s : State) : Answer :=
  .next
    (if (s.port p).working then
      s.setPort p ({ s.port p with rxErrors := satInc count8 (s.port p).rxErrors }).judge
     else s)

/-- A transmit error counted, with the entry to BUS_OFF at 256 (R2, R3). -/
def State.countTxError (s : State) (p : Port) : State :=
  let b := { s.port p with txErrors := min 256 ((s.port p).txErrors + 8) }
  if b.txErrors = 256 then
    (s.setPort p { b with state := .busOff, recovery := s.after (ms 200) }).raise (busOffFlag p)
  else s.setPort p b.judge

/-- TX_ERROR_DETECTED (R2, R3). -/
def execTxErrorDetected (p : Port) (s : State) : Answer :=
  .next (if (s.port p).working then s.countTxError p else s)

/-- BUS_OFF_RECOVERY_EXPIRY (R3). -/
def execBusOffRecoveryExpiry (p : Port) (s : State) : Answer :=
  onExpiry (s.port p).recovery
    (fun t => t.setPort p { t.port p with state := .active, txErrors := 0, rxErrors := 0, recovery := none }) s

/-- The silence timer expires (R4). That the OK slot is written before NETWORK_LOST is pushed is the model's choice (log 6). -/
def State.fallSilent (s : State) (p : Port) : State :=
  let t := (s.setPort p { s.port p with silence := none, lost := true, awaiting := true }).writePlain (okSlot p) (.fresh 0)
  if p = .tractor then t.push 0xF002 .caution .port else t

/-- SILENCE_TIMER_EXPIRY (R4). -/
def execSilenceTimerExpiry (p : Port) (s : State) : Answer :=
  onExpiry (s.port p).silence (fun t => t.fallSilent p) s

/-- One frame fewer until the RESTART response has left (R177). -/
def PendingRestart.advance (r : PendingRestart) : PendingRestart := { r with ahead := r.ahead - 1 }

/-- The head frame has been transmitted (R2, R9). -/
def State.frameSent (s : State) : State :=
  { s with
    intake.transmit := s.intake.transmit.tail,
    portT := ({ s.portT with txErrors := s.portT.txErrors - 1 }).judge,
    mgmt.restart := s.mgmt.restart.map PendingRestart.advance }

/-- TX_FRAME_COMPLETE (R9): port T transmits while it is on and not in BUS_OFF. -/
def execTxFrameComplete (s : State) : Answer :=
  .next (if s.portT.working && !s.intake.transmit.isEmpty then s.frameSent else s)

end Sys2Proof.Machine
end

