-- ==== Sys2Proof/Machine/Manage.lean ====
section
/-! DEFINITION. The requests that management and the store block answer for themselves (R169 to R181), and the ends of their
operations (R179, R180, R182). -/

namespace Sys2Proof.Machine

/-! ### Event flags and counters (R169 to R172) -/

/-- The flags after a READ_EVENTS (R169). -/
def flagsAfterRead (flags : BitVec 12) (valid : Bool) : BitVec 12 :=
  if valid then 0 else flags &&& EventFlag.configInvalid.mask

/-- READ_EVENTS judged (R169). -/
def judgeReadEvents (_ : FrameRecord) (s : State) : Verdict :=
  { result := .ok, data := u16 s.mgmt.flags.toNat ++ u16 s.mgmt.mask.toNat,
    effect := fun t => { t with mgmt.flags := flagsAfterRead t.mgmt.flags t.store.report } }

/-- READ_EVENTS (R169). -/
def execReadEvents (s : State) : Answer := onRequest 0x01 judgeReadEvents s

/-- SET_NOTICE_MASK judged (R170): bits 12–15 name no flag (R193). -/
def judgeSetNoticeMask (r : FrameRecord) (s : State) : Verdict :=
  if r.word 2 < 4096 then
    { result := .ok, data := u16 s.mgmt.mask.toNat,
      effect := fun t => { t with mgmt.mask := BitVec.ofNat 12 (r.word 2) } }
  else refuse .badArg

/-- SET_NOTICE_MASK (R170). -/
def execSetNoticeMask (s : State) : Answer := onRequest 0x02 judgeSetNoticeMask s

/-- The data of a port's state and error counts (R172, selectors 2 and 6). -/
def PortBlock.stateData (b : PortBlock) : List Byte := u8 b.state.code ++ u16 b.txErrors ++ u8 b.rxErrors

/-- READ_COUNTERS judged (R172). -/
def judgeReadCounters (r : FrameRecord) (s : State) : Verdict :=
  match r.byte 2 with
  | 0 => reads (u16 s.portT.received ++ u16 s.portT.unrouted)
  | 1 => reads (u16 s.portT.queueDrop ++ u16 s.portT.stdDiscard)
  | 2 => reads s.portT.stateData
  | 3 => reads (u16 s.portT.txDrop ++ u8 s.intake.queue.length ++ u8 s.intake.transmit.length)
  | 4 => reads (u16 s.portL.received ++ u16 s.portL.unrouted)
  | 5 => reads (u16 s.portL.queueDrop ++ u16 s.portL.stdDiscard)
  | 6 => reads s.portL.stateData
  | 7 => reads (u16 s.portL.foreignMgmt ++ u16 s.dist.filterReject)
  | 8 => reads (u16 s.tacho.stray)
  | _ => refuse .badArg

/-- READ_COUNTERS (R172). -/
def execReadCounters (s : State) : Answer := onRequest 0x03 judgeReadCounters s

/-! ### Parameters (R173 to R175) -/

/-- A driver's card field changed (R126): the driver is withdrawn if present, and inserted if the new slot holds FRESH 1. -/
def State.changeCardSlot (s : State) (d : Driver) : State :=
  let t := if (s.driver d).present then s.withdrawCard d else s
  match t.paramSlot (cardParam d) with
  | none => t
  | some n => if (t.slot n).state = .fresh ∧ (t.slot n).value = 1 then t.insertCard d else t

/-- DRIVE_LEFT of a present driver follows P_DRIVE_LIMIT (R127). -/
def State.followLimit (s : State) (d : Driver) : State :=
  if (s.driver d).present then s.writeOther (leftSlot d) (s.driveLeft d) else s

/-- How a change of a held value acts at once (R173; R84, R126, R127). That driver 1's DRIVE_LEFT is written before driver 2's is the
model's choice (log 6). -/
def State.paramChanged (s : State) (id : Nat) : State :=
  match id with
  | 4 => s.updateDuty
  | 5 => s.updateDuty
  | 10 => s.judgeMismatch.judgeWatch
  | 13 => s.changeCardSlot .one
  | 14 => s.changeCardSlot .two
  | 17 => (s.followLimit .one).followLimit .two
  | _ => s

/-- A held value written (R174). -/
def State.setHeld (s : State) (id : Nat) (v : Int) : State := { s with mgmt.held := s.mgmt.held.put id v }

/-- SET_PARAM judged after BUSY (R174). -/
def judgeParam (id : Nat) (v : Int) (s : State) : Verdict :=
  if 26 < id then refuse .badArg
  else if paramInRange id v = false then refuse .badArg
  else if paramRelates s.mgmt.held id v = false then refuse .badArg
  else { result := .ok, data := s32 (s.held id), effect := fun t => (t.setHeld id v).paramChanged id }

/-- SET_PARAM judged (R174). -/
def judgeSetParam (r : FrameRecord) (s : State) : Verdict := unlessSaving s (judgeParam (r.byte 2) (r.signedLong 3) s)

/-- SET_PARAM (R174). -/
def execSetParam (s : State) : Answer := onRequest 0x04 judgeSetParam s

/-- GET_PARAM judged (R175). -/
def judgeGetParam (r : FrameRecord) (s : State) : Verdict :=
  if 26 < r.byte 2 then refuse .badArg
  else
    match r.byte 3 with
    | 0 => reads (s32 (s.held (r.byte 2)))
    | 1 => reads (s32 (s.param (r.byte 2)))
    | _ => refuse .badArg

/-- GET_PARAM (R175). -/
def execGetParam (s : State) : Answer := onRequest 0x05 judgeGetParam s

/-! ### Restart (R177) -/

/-- The place of the RESTART response in the transmit queue: 0 where it is dropped (R177). -/
def State.responsePlace (s : State) : Nat :=
  if s.intake.transmit.length < transmitRoom then s.intake.transmit.length + 1 else 0

/-- RESTART judged (R177). -/
def judgeRestart (_ : FrameRecord) (s : State) : Verdict :=
  unlessSaving s
    (accepts (fun t => { t with mgmt.restart := some { ahead := s.responsePlace, limit := s.clock + ms 250 } }))

/-- RESTART (R177). -/
def execRestart (s : State) : Answer := onRequest 0x06 judgeRestart s

/-! ### The configuration store (R179 to R181) -/

/-- A save starts with the image of the present tables (R179). -/
def State.startSave (s : State) : State :=
  { s with store.save := some s.configImage, store.saveLimit := s.after (ms 400), ign.saveMark := true }

/-- CONFIG_SAVE judged (R179). -/
def judgeConfigSave (_ : FrameRecord) (s : State) : Verdict := unlessSaving s (accepts State.startSave)

/-- CONFIG_SAVE (R179). -/
def execConfigSave (s : State) : Answer := onRequest 0x08 judgeConfigSave s

/-- The report becomes VALID again: 0xF001 is released and L0 follows its rules (R179, R83). -/
def State.reportValid (s : State) : State :=
  if s.store.report then s
  else (({ s with store.report := true }).release 0xF001 .config).settleLamps

/-- A save has read back the image it wrote, or something else (R179, R180). That SAVE_DONE is set, with its notice, before the alert 0xF001
is released is the model's choice (log 6). -/
def State.saveRead (s : State) (image : ConfigImage) (equal : Bool) : State :=
  let t := { s with store.save := none, store.saveLimit := none, ign.saveMark := false }
  if equal then (({ t with store.config := .image image }).raise .saveDone).reportValid
  else ({ t with store.config := .bad }).raise .saveFailed

/-- CONFIG_SAVE_END (R179, R180), with the SLEEP condition judged after it (R190). -/
def execConfigSaveEnd (equal : Bool) (s : State) : Answer :=
  match s.store.save with
  | none => .next s
  | some image => .next (s.saveRead image equal).judgeSleep

/-- CONFIG_ERASE judged (R181). -/
def judgeConfigErase (_ : FrameRecord) (s : State) : Verdict :=
  unlessSaving s (accepts (fun t => { t with store.config := .blank }))

/-- CONFIG_ERASE (R181). -/
def execConfigErase (s : State) : Answer := onRequest 0x09 judgeConfigErase s

/-- CAL_WRITE_COMPLETE (R182), with the SLEEP condition judged at a return to IDLE (R190). -/
def execCalWriteComplete (s : State) : Answer := onExpiry s.store.writeTimer (fun t => t.calWritten.judgeSleep) s

end Sys2Proof.Machine
end

