-- ==== Sys2Proof/Machine/Routes.lean ====
section
/-! DEFINITION. The requests of the Route Table (R17 to R23) and of the Signal Table (R27, R36). -/

namespace Sys2Proof.Machine

/-! ### ROUTE_OPEN (R18) -/

/-- The timeout of ROUTE_OPEN's last two bytes, in units of 10 ms (R193). -/
def openTimeout (w : Nat) : Nat := w % 8192 * 10

/-- The length of ROUTE_OPEN's last two bytes (R193). -/
def openLength (w : Nat) : Nat := w / 8192 % 8 + 1

/-- No part present. -/
def BuildParts.absent : BuildParts := { a := none, b := none, c := none }

/-- An unfinished build is discarded before another opens (R18). -/
def State.abandonBuild (s : State) : State := if s.intake.build.isSome then s.raise .buildAbandoned else s

/-- The build slot becomes BUILDING (R18). -/
def State.openBuild (s : State) (b : Build) : State := { s.abandonBuild with intake.build := some b }

/-- The build that a ROUTE_OPEN asks for (R18, R193). -/
def openedBuild (r : FrameRecord) : Build :=
  { key := keyOfWord (r.long 2), length := openLength (r.word 6), timeout := openTimeout (r.word 6),
    parts := List.replicate (keySpare (r.long 2) + 1) BuildParts.absent }

/-- ROUTE_OPEN judged (R18); the length and the count are in range by their encoding (R193). -/
def judgeRouteOpen (r : FrameRecord) (s : State) : Verdict :=
  let b := openedBuild r
  unlessSaving s
    (if b.key.identifier = s.mgmtReqId ∨ b.key.identifier = s.tachoXferId then refuse .badArg
     else if timeoutPasses b.timeout = false then refuse .badArg
     else if (findRoute s.intake.routes b.key).isSome then refuse .present
     else if routeRoom ≤ s.intake.routes.length then refuse .full
     else accepts (fun t => t.openBuild b))

/-- ROUTE_OPEN (R18). -/
def execRouteOpen (s : State) : Answer := onRequest 0x10 judgeRouteOpen s

/-! ### Parts and installation (R19 to R21) -/

/-- The extractor of three parts, if all are present (R21). -/
def BuildParts.extractor (p : BuildParts) : Option Extractor :=
  match p.a, p.b, p.c with
  | some a, some b, some c => some { a := a, b := b, offset := c }
  | _, _, _ => none

/-- The route of a complete build (R21). -/
def Build.route (b : Build) : Option Route :=
  if b.parts.all (fun p => p.extractor.isSome) then
    some { key := b.key, length := b.length, timeout := b.timeout, extractors := b.parts.filterMap BuildParts.extractor }
  else none

/-- An entry inserted at the place of its key (R21). -/
def insertRoute (e : RouteEntry) : List RouteEntry → List RouteEntry
  | [] => [e]
  | f :: rest => if e.route.key.rank < f.route.key.rank then e :: f :: rest else f :: insertRoute e rest

/-- A complete build installed (R21). -/
def State.install (s : State) (r : Route) : State :=
  { s with intake.routes := insertRoute { route := r, hits := 0, rejects := 0 } s.intake.routes, intake.build := none }

/-- The answer to an accepted part: INSTALLED if it completes the build, OK otherwise (R19, R20, R21). -/
def acceptPart (b : Build) : Verdict :=
  match b.route with
  | some r => { result := .installed, data := [], effect := fun t => t.install r }
  | none => accepts (fun t => { t with intake.build := some b })

/-- The parts of an index replaced. -/
def Build.setParts (b : Build) (i : Nat) (p : BuildParts) : Build := { b with parts := b.parts.set i p }

/-- The parts of an index. -/
def Build.partsAt (b : Build) (i : Nat) : BuildParts := b.parts.getD i BuildParts.absent

/-- The slots named by part A of the other indexes of a build (R19). -/
def Build.otherSlots (b : Build) (i : Nat) : List Nat :=
  (b.setParts i BuildParts.absent).parts.filterMap (fun p => p.a.map (·.slot))

/-- The slots named by the ACTIVE entries (R12). -/
def State.routedSlots (s : State) : List Nat := s.intake.routes.flatMap (fun e => e.route.slots)

/-- Part A of EXT_A's arguments (R193). -/
def partA (r : FrameRecord) : ExtractorA :=
  { start := r.byte 3, width := r.byte 4, order := if r.byte 5 % 2 = 1 then .highFirst else .lowFirst,
    signed := decide (r.byte 5 / 2 % 2 = 1), coded := decide (r.byte 5 / 4 % 2 = 1), slot := r.byte 6 }

/-- EXT_A judged (R19). -/
def judgeExtA (r : FrameRecord) (s : State) : Verdict :=
  unlessSaving s
    (match s.intake.build with
     | none => refuse .wrongState
     | some b =>
       if b.parts.length ≤ r.byte 2 then refuse .badArg
       else if (partA r).passes b.length = false then refuse .badArg
       else if (s.routedSlots ++ b.otherSlots (r.byte 2)).contains (r.byte 6) then refuse .conflict
       else acceptPart (b.setParts (r.byte 2) { b.partsAt (r.byte 2) with a := some (partA r) }))

/-- EXT_A (R19). -/
def execExtA (s : State) : Answer := onRequest 0x11 judgeExtA s

/-- Part B of EXT_B's arguments (R193). -/
def partB (r : FrameRecord) : ExtractorB := { multiplier := toSigned 16 (r.word 3), divisor := r.word 5 }

/-- EXT_B judged (R20). -/
def judgeExtB (r : FrameRecord) (s : State) : Verdict :=
  unlessSaving s
    (match s.intake.build with
     | none => refuse .wrongState
     | some b =>
       if b.parts.length ≤ r.byte 2 then refuse .badArg
       else if (partB r).passes = false then refuse .badArg
       else acceptPart (b.setParts (r.byte 2) { b.partsAt (r.byte 2) with b := some (partB r) }))

/-- EXT_B (R20). -/
def execExtB (s : State) : Answer := onRequest 0x12 judgeExtB s

/-- EXT_C judged (R20). -/
def judgeExtC (r : FrameRecord) (s : State) : Verdict :=
  unlessSaving s
    (match s.intake.build with
     | none => refuse .wrongState
     | some b =>
       if b.parts.length ≤ r.byte 2 then refuse .badArg
       else acceptPart (b.setParts (r.byte 2) { b.partsAt (r.byte 2) with c := some (r.signedLong 3) }))

/-- EXT_C (R20). -/
def execExtC (s : State) : Answer := onRequest 0x13 judgeExtC s

/-! ### ROUTE_DELETE and ROUTE_READ (R22, R23) -/

/-- An ACTIVE entry leaves, and its destination slots are reset in extractor order (R22, R28). -/
def State.deleteRoute (s : State) (e : RouteEntry) : State :=
  e.route.slots.foldl State.resetSlot
    { s with intake.routes := s.intake.routes.filter (fun f => decide (f.route.key ≠ e.route.key)) }

/-- ROUTE_DELETE judged (R22). -/
def judgeRouteDelete (r : FrameRecord) (s : State) : Verdict :=
  unlessSaving s
    (if keySpare (r.long 2) ≠ 0 then refuse .badArg
     else
       match findRoute s.intake.routes (keyOfWord (r.long 2)) with
       | some e => accepts (fun t => t.deleteRoute e)
       | none =>
         if s.intake.build.map (·.key) = some (keyOfWord (r.long 2)) then
           accepts (fun t => { t with intake.build := none })
         else refuse .notFound)

/-- ROUTE_DELETE (R22). -/
def execRouteDelete (s : State) : Answer := onRequest 0x14 judgeRouteDelete s

/-- ROUTE_READ judged (R23). -/
def judgeRouteRead (r : FrameRecord) (s : State) : Verdict :=
  if 1 < r.byte 3 then refuse .badArg
  else
    match s.intake.routes[r.byte 2]? with
    | none => refuse .notFound
    | some e =>
      if r.byte 3 = 0 then reads (u32 (keyWord e.route.key))
      else reads (u16 e.hits ++ u8 e.rejects ++ u8 e.route.extractors.length)

/-- ROUTE_READ (R23). -/
def execRouteRead (s : State) : Answer := onRequest 0x15 judgeRouteRead s

/-! ### Slots (R27, R36) -/

/-- The moment a slot expires; none while the table is held still (R27, R37). -/
def State.slotDue (s : State) (n : Nat) : Timer :=
  match s.table.frozenAt with
  | some _ => none
  | none => (s.slot n).expiresAt

/-- SLOT_EXPIRY (R27). -/
def execSlotExpiry (n : Nat) (s : State) : Answer := onExpiry (s.slotDue n) (fun t => t.expireSlot n) s

/-- READ_SLOT judged (R36). -/
def judgeReadSlot (r : FrameRecord) (s : State) : Verdict :=
  if 95 < r.byte 2 then refuse .badArg
  else
    let slot := s.slot (r.byte 2)
    match r.byte 3 with
    | 0 => reads (s32 slot.value)
    | 1 => reads (u8 slot.state.code ++ u16 (slot.age s.slotTime) ++ u8 slot.writer.code)
    | 2 => reads (u32 slot.writer.identifier)
    | 3 => reads (u32 (slot.timeout.getD 0))
    | _ => refuse .badArg

/-- READ_SLOT (R36). -/
def execReadSlot (s : State) : Answer := onRequest 0x18 judgeReadSlot s

end Sys2Proof.Machine
end

