-- ==== Sys2Proof/Machine/Gauges.lean ====
section
/-! DEFINITION. The requests and events of the gauge channels (R42 to R46, R50, R53, R55, R65). -/

namespace Sys2Proof.Machine

/-! ### Fields of a record (R42, R46) -/

/-- The range of a field (R42); identifier 7 and those above 31 name no field. -/
def fieldInRange (field : Nat) (v : Int) : Bool :=
  let within := fun (lo hi : Int) => decide (lo ≤ v) && decide (v ≤ hi)
  match field with
  | 0 => within 0 95
  | 1 => within (-1) 95
  | 2 => within 1 4095
  | 3 => within 0 4095
  | 4 => within 0 2
  | 5 => within 0 255
  | 6 => within 0 15
  | 7 => false
  | _ =>
    if field < 16 then within 200 20000
    else if field < 24 then fits32 v
    else if field < 32 then within 0 4095
    else false

/-- A field of the settings, identifiers 0 to 15 but 7, set (R42). -/
def GaugeSettings.setField (g : GaugeSettings) (field : Nat) (v : Int) : GaugeSettings :=
  match field with
  | 0 => { g with source := v.toNat }
  | 1 => { g with fallback := if v < 0 then none else some v.toNat }
  | 2 => { g with fullScale := v.toNat }
  | 3 => { g with rest := v.toNat }
  | 4 => { g with policy := StalePolicy.ofCode v.toNat }
  | 5 => { g with restDelay := v.toNat }
  | 6 => { g with deadBand := v.toNat }
  | _ => { g with intervals := g.intervals.put (field - 8) v.toNat }

/-- One field of the staged record written (R42). -/
def StagedRecord.setField (r : StagedRecord) (field : Nat) (v : Int) : StagedRecord :=
  if field < 16 then { r with settings := r.settings.setField field v }
  else if field < 24 then
    { r with points := r.points.put (field - 16) { r.points.get (field - 16) ⟨0, 0⟩ with value := v } }
  else { r with points := r.points.put (field - 24) { r.points.get (field - 24) ⟨0, 0⟩ with position := v.toNat } }

/-- A field of the settings, identifiers 0 to 15 but 7, as a number (R46). -/
def GaugeSettings.field (g : GaugeSettings) (field : Nat) : Int :=
  match field with
  | 0 => g.source
  | 1 =>
    match g.fallback with
    | some n => n
    | none => -1
  | 2 => g.fullScale
  | 3 => g.rest
  | 4 => g.policy.code
  | 5 => g.restDelay
  | 6 => g.deadBand
  | _ => g.intervals.get (field - 8) 0

/-- A field of a curve point: identifiers 16 to 23 its value, 24 to 31 its position (R42). -/
def pointField (field : Nat) (p : CurvePoint) : Int := if field < 24 then p.value else p.position

/-- The index of the curve point of a field. -/
def pointIndex (field : Nat) : Nat := (field - 16) % 8

/-- GAUGE_FIELD judged (R42). -/
def judgeGaugeField (r : FrameRecord) (_ : State) : Verdict :=
  if 7 < r.byte 2 then refuse .badArg
  else if fieldInRange (r.byte 3) (r.signedLong 4) = false then refuse .badArg
  else
    accepts (fun t =>
      t.putChannel (r.byte 2)
        { t.channel (r.byte 2) with staged := (t.channel (r.byte 2)).staged.setField (r.byte 3) (r.signedLong 4) })

/-- GAUGE_FIELD (R42). -/
def execGaugeField (s : State) : Answer := onRequest 0x20 judgeGaugeField s

/-! ### GAUGE_COMMIT (R43, R44) -/

/-- The checks of R43 step 2 on a staged record. -/
def StagedRecord.passes (r : StagedRecord) (points : Nat) : Bool := recordPasses r.settings (r.points.items.take points)

/-- An accepted commit and the channel's reaction (R43, R44). -/
def State.commitChannel (s : State) (c points : Nat) : State :=
  s.moveChannel c (((s.channel c).commit points).afterCommit s.table.slots s.clock)

/-- GAUGE_COMMIT judged (R43). -/
def judgeGaugeCommit (r : FrameRecord) (s : State) : Verdict :=
  unlessSaving s
    (if 7 < r.byte 2 then refuse .badArg
     else if r.byte 3 < 2 ∨ 8 < r.byte 3 then refuse .badArg
     else if (s.channel (r.byte 2)).staged.passes (r.byte 3) = false then refuse .badArg
     else if (s.channel (r.byte 2)).staged.settings.fullScale < (s.channel (r.byte 2)).farthest then refuse .wrongState
     else accepts (fun t => t.commitChannel (r.byte 2) (r.byte 3)))

/-- GAUGE_COMMIT (R43, R44). -/
def execGaugeCommit (s : State) : Answer := onRequest 0x21 judgeGaugeCommit s

/-! ### GAUGE_READ (R46) -/

/-- Selector 0 of GAUGE_READ (R46, R193). -/
def Channel.stateData (c : Channel) : List Byte :=
  u8 c.state.code ++ u8 (c.direction.code + 16 * c.level) ++ u8 (causeCode c.cause) ++ u8 (bit c.parkMark)

/-- Selector 2 of GAUGE_READ (R46, R193); an absent pending target's value is a free value (log 14). -/
def Channel.pendingData (c : Channel) (free : Nat) : List Byte :=
  u16 (c.pending.getD (Config.absentPending free).toNat) ++ u16 (c.homingLeft + 2 ^ 15 * bit c.pending.isSome)

/-- A field of the live record (R46); a curve point the record does not have is a free value (log 14). -/
def LiveRecord.fieldData (l : LiveRecord) (field free : Nat) : List Byte :=
  if field = 7 then s32 l.curve.length
  else if field < 16 then s32 (l.settings.field field)
  else
    match l.curve[pointIndex field]? with
    | some p => s32 (pointField field p)
    | none => u32 (Config.absentCurvePoint free).toNat

/-- A field of the staged record (R46). -/
def StagedRecord.fieldData (l : StagedRecord) (field : Nat) : List Byte :=
  if field < 16 then s32 (l.settings.field field) else s32 (pointField field (l.points.get (pointIndex field) ⟨0, 0⟩))

/-- A read whose data may hold a free value: the next one is another (log 14). -/
def readsFree (data : List Byte) : Verdict := { result := .ok, data := data, effect := State.useFree }

/-- GAUGE_READ judged (R46). -/
def judgeGaugeRead (r : FrameRecord) (s : State) : Verdict :=
  if 7 < r.byte 2 then refuse .badArg
  else
    let c := s.channel (r.byte 2)
    match r.byte 3 with
    | 0 => reads c.stateData
    | 1 => reads (u16 c.position ++ u16 c.target)
    | 2 => readsFree (c.pendingData s.fresh)
    | 3 => if 31 < r.byte 4 then refuse .badArg else readsFree (c.live.fieldData (r.byte 4) s.fresh)
    | 4 => if 31 < r.byte 4 ∨ r.byte 4 = 7 then refuse .badArg else reads (c.staged.fieldData (r.byte 4))
    | _ => refuse .badArg

/-- GAUGE_READ (R46). -/
def execGaugeRead (s : State) : Answer := onRequest 0x22 judgeGaugeRead s

/-! ### Events of a channel (R50, R53, R55, R65) -/

/-- A step event of a channel (R53, R59). -/
def State.stepChannel (s : State) (c : Nat) : State := s.moveChannel c ((s.channel c).step s.clock)

/-- The step timer of a channel in TRACKING or PARKING. -/
def State.stepDue (s : State) (c : Nat) : Timer :=
  match (s.channel c).state with
  | .tracking => (s.channel c).stepTimer
  | .parking => (s.channel c).stepTimer
  | .homing => none
  | .unhomed => none
  | .parked => none
  | .fault => none

/-- STEP_EVENT (R53). -/
def execStepEvent (c : Nat) (s : State) : Answer := onExpiry (s.stepDue c) (fun t => t.stepChannel c) s

/-- A homing step of a channel (R55, R56). -/
def State.homeChannel (s : State) (c : Nat) : State := s.moveChannel c ((s.channel c).homingStep s.clock)

/-- The step timer of a channel in HOMING. -/
def State.homingDue (s : State) (c : Nat) : Timer :=
  match (s.channel c).state with
  | .homing => (s.channel c).stepTimer
  | .tracking => none
  | .parking => none
  | .unhomed => none
  | .parked => none
  | .fault => none

/-- HOMING_STEP (R55). -/
def execHomingStep (c : Nat) (s : State) : Answer := onExpiry (s.homingDue c) (fun t => t.homeChannel c) s

/-- REST_DELAY_EXPIRY (R50). -/
def execRestDelayExpiry (c : Nat) (s : State) : Answer :=
  onExpiry (s.channel c).restTimer (fun t => t.putChannel c ((t.channel c).restExpired t.clock)) s

/-- GAUGE_FAULTS: the sum over the channels in FAULT of 2 to the power of the channel number (R34, R65). -/
def faultSum (gauges : Bank Channel 8) : Nat :=
  (List.range 8).foldl
    (fun sum c => if (gauges.get c Channel.powerOn).state = .fault then sum + 2 ^ c else sum) 0

/-- What follows a channel's entry to FAULT (R65): slot 14, the flag with its notice, the push. R65 allows any order; the order of its list
is the model's choice (log 6). -/
def State.reportFault (s : State) (c : Nat) : State :=
  let t := (s.writePlain 14 (.fresh (faultSum s.gauges))).raise .gaugeFault
  (t.push (0xF010 + c) .caution (.gauge c))

/-- A fault report puts a driven channel in FAULT (R65). -/
def State.failChannel (s : State) (c : Nat) (cause : CoilFault) : State :=
  let t := (s.putChannel c ((s.channel c).fail cause)).reportFault c
  ({ t with ign.reports := t.ign.reports.put c .fault }).judgeRun.judgeSleep

/-- COIL_FAULT_REPORT (R64, R65): a channel whose coils are not driven takes none, and a coil with duty 0 gives no OPEN. -/
def execCoilFaultReport (c : Nat) (cause : CoilFault) (s : State) : Answer :=
  .next (if decide (c < 8) && (s.channel c).reports cause then s.failChannel c cause else s)

end Sys2Proof.Machine
end

