-- ==== Sys2Proof/Machine/Lamps.lean ====
section
/-! DEFINITION. The requests and events of the lamp rules and the lamps (R68 to R72, R76, R80, R82, R85, R86). -/

namespace Sys2Proof.Machine

/-! ### Writing parts (R68, R69) -/

/-- The parts a rule has before it takes one more: a FREE rule holds none (R67, R68). -/
def Rule.opened (r : Rule) : Rule := if r.life = .free then Rule.blank else r

/-- The rule takes a part: a FREE rule becomes EDITING (R68). -/
def Rule.edited (r : Rule) : Rule := { r with life := .editing }

/-- The first two checks of RULE_A to RULE_D (R68), then `v`. -/
def editable (r : FrameRecord) (s : State) (v : Verdict) : Verdict :=
  if 63 < r.byte 2 then refuse .badArg
  else if (s.rule (r.byte 2)).life = .live then refuse .wrongState
  else v

/-- An accepted part written (R68). -/
def writePart (i : Nat) (f : Rule → Rule) : Verdict := accepts (fun t => t.putRule i (f (t.rule i).opened).edited)

/-- Part A of RULE_A's arguments, if each lies in its range (R68). -/
def ruleA? (r : FrameRecord) : Option RulePartA :=
  match RuleTest.ofCode (r.byte 5), LampPattern.ofCode (r.byte 6) with
  | some test, some pattern =>
    if r.byte 3 ≤ 31 ∧ r.byte 4 ≤ 95 ∧ r.byte 7 ≤ 15 then
      some { lamp := r.byte 3, slot := r.byte 4, test := test, pattern := pattern, priority := r.byte 7 }
    else none
  | _, _ => none

/-- RULE_A judged (R68). -/
def judgeRuleA (r : FrameRecord) (s : State) : Verdict :=
  editable r s
    (match ruleA? r with
     | some a => writePart (r.byte 2) (fun q => { q with a := some a })
     | none => refuse .badArg)

/-- RULE_A (R68). -/
def execRuleA (s : State) : Answer := onRequest 0x28 judgeRuleA s

/-- RULE_B judged (R68). -/
def judgeRuleB (r : FrameRecord) (s : State) : Verdict :=
  editable r s (writePart (r.byte 2) (fun q => { q with b := some (r.signedLong 3) }))

/-- RULE_B (R68). -/
def execRuleB (s : State) : Answer := onRequest 0x29 judgeRuleB s

/-- Part C of RULE_C's arguments, if each lies in its range (R68). -/
def ruleC? (r : FrameRecord) : Option RulePartC :=
  match StaleAction.ofCode (r.byte 5) with
  | some action =>
    if r.byte 6 ≤ 1 then
      some { hysteresis := r.word 3, staleAction := action, errorAction := decide (r.byte 6 = 1), confirmTime := r.byte 7 }
    else none
  | none => none

/-- RULE_C judged (R68). -/
def judgeRuleC (r : FrameRecord) (s : State) : Verdict :=
  editable r s
    (match ruleC? r with
     | some c => writePart (r.byte 2) (fun q => { q with c := some c })
     | none => refuse .badArg)

/-- RULE_C (R68). -/
def execRuleC (s : State) : Answer := onRequest 0x2A judgeRuleC s

/-- Part D of RULE_D's arguments, if code and severity are paired (R69). -/
def ruleD? (r : FrameRecord) : Option RulePartD :=
  if r.word 3 = 0 then if r.byte 5 = 0 then some { alert := none } else none
  else if ruleCode (r.word 3) then (Severity.ofCode (r.byte 5)).map (fun v => { alert := some (r.word 3, v) })
  else none

/-- The alert code that rule `j` holds in EDITING or LIVE (R69). -/
def State.heldCode (s : State) (j : Nat) : Option Nat :=
  if (s.rule j).life = .free then none else (s.rule j).d.bind RulePartD.code

/-- Another rule in EDITING or LIVE holds the alert code (R69). -/
def State.codeTaken (s : State) (i : Nat) (code : Option Nat) : Bool :=
  code.isSome && (List.range 64).any (fun j => decide (j ≠ i) && decide (s.heldCode j = code))

/-- RULE_D judged (R68, R69). -/
def judgeRuleD (r : FrameRecord) (s : State) : Verdict :=
  editable r s
    (match ruleD? r with
     | none => refuse .badArg
     | some d =>
       if s.codeTaken (r.byte 2) d.code then refuse .conflict
       else writePart (r.byte 2) (fun q => { q with d := some d }))

/-- RULE_D (R68, R69). -/
def execRuleD (s : State) : Answer := onRequest 0x2B judgeRuleD s

/-! ### RULE_ENABLE and RULE_CLEAR (R70, R71) -/

/-- All four parts are present (R70). -/
def Rule.complete (r : Rule) : Bool := r.a.isSome && r.b.isSome && r.c.isSome && r.d.isSome

/-- The rule LIVE and INACTIVE (R70). -/
def Rule.enabled (r : Rule) : Rule :=
  { r with life := .live, live := .inactive, condition := false, confirm := none, releaseOwed := false }

/-- A rule enabled: it evaluates at once in WAKING or RUN (R70). -/
def State.enableRule (s : State) (i : Nat) : State := ((s.putRule i (s.rule i).enabled).evalAlone i).settleLamps

/-- RULE_ENABLE judged (R70). -/
def judgeRuleEnable (r : FrameRecord) (s : State) : Verdict :=
  unlessSaving s
    (if 63 < r.byte 2 then refuse .badArg
     else if (s.rule (r.byte 2)).life ≠ .editing then refuse .wrongState
     else if (s.rule (r.byte 2)).complete = false then refuse .badArg
     else accepts (fun t => t.enableRule (r.byte 2)))

/-- RULE_ENABLE (R70). -/
def execRuleEnable (s : State) : Answer := onRequest 0x2C judgeRuleEnable s

/-- What a rule owes the alert block when it is cleared (R71). -/
def Rule.owes (r : Rule) (i : Nat) : List AlertAction :=
  if r.life = .live ∧ (r.live = .active ∨ r.releaseOwed = true) then r.releases i else []

/-- A rule cleared (R71): its release comes first, and its lamp is resolved without it. -/
def State.clearRule (s : State) (i : Nat) : State :=
  ((s.putRule i Rule.blank).send ((s.rule i).owes i)).settleLamps

/-- RULE_CLEAR judged (R71). -/
def judgeRuleClear (r : FrameRecord) (s : State) : Verdict :=
  unlessSaving s (if 63 < r.byte 2 then refuse .badArg else accepts (fun t => t.clearRule (r.byte 2)))

/-- RULE_CLEAR (R71). -/
def execRuleClear (s : State) : Answer := onRequest 0x2D judgeRuleClear s

/-! ### RULE_READ and LAMP_READ (R72, R85) -/

/-- The four part-present marks (R193). -/
def Rule.partMarks (r : Rule) : Nat := bit r.a.isSome + 2 * bit r.b.isSome + 4 * bit r.c.isSome + 8 * bit r.d.isSome

/-- Selector 0 of RULE_READ (R72): the live state reads 0 outside LIVE. -/
def Rule.stateData (r : Rule) : List Byte :=
  u8 r.life.code ++ u8 (if r.life = .live then r.live.code else 0) ++ u8 r.partMarks ++
    u8 (bit r.condition + 2 * bit r.releaseOwed)

/-- Selector 1 of RULE_READ (R72). -/
def RulePartA.data (a : RulePartA) : List Byte :=
  u8 a.lamp ++ u8 a.slot ++ u8 (a.test.code + 16 * a.pattern.code) ++ u8 a.priority

/-- Selector 3 of RULE_READ (R72). -/
def RulePartC.data (c : RulePartC) : List Byte :=
  u16 c.hysteresis ++ u8 (c.staleAction.code + 16 * bit c.errorAction) ++ u8 c.confirmTime

/-- Selector 4 of RULE_READ (R72). -/
def RulePartD.data (d : RulePartD) : List Byte :=
  match d.alert with
  | some (code, severity) => u16 code ++ u8 severity.rank
  | none => []

/-- The data of a part, 0 in every field of an absent one (R72). -/
def partData {α : Type} (p : Option α) (f : α → List Byte) : Verdict :=
  match p with
  | some a => reads (f a)
  | none => reads []

/-- RULE_READ judged (R72). -/
def judgeRuleRead (r : FrameRecord) (s : State) : Verdict :=
  if 63 < r.byte 2 then refuse .badArg
  else
    let q := s.rule (r.byte 2)
    match r.byte 3 with
    | 0 => reads q.stateData
    | 1 => partData q.a RulePartA.data
    | 2 => partData q.b s32
    | 3 => partData q.c RulePartC.data
    | 4 => partData q.d RulePartD.data
    | _ => refuse .badArg

/-- RULE_READ (R72). -/
def execRuleRead (s : State) : Answer := onRequest 0x2E judgeRuleRead s

/-- The code of a shown pattern (R85). -/
def shownCode (p : Option LampPattern) : Nat :=
  match p with
  | none => 0
  | some q => q.code + 1

/-- LAMP_READ judged (R85). -/
def judgeLampRead (r : FrameRecord) (s : State) : Verdict :=
  match r.byte 3 with
  | 0 =>
    if 31 < r.byte 2 then refuse .badArg
    else
      reads (u8 (shownCode (s.shown (r.byte 2))) ++ u8 ((s.deciding (r.byte 2)).getD 255) ++
        u8 (bit (s.lampLit (r.byte 2))) ++ u8 (bit (s.lamp (r.byte 2)).openMark))
  | 1 =>
    reads (u8 s.telltale.phase ++ u8 (bit s.telltale.proveOut.isSome) ++ u8 (bit s.l0Held) ++ u8 s.telltale.duty)
  | _ => refuse .badArg

/-- LAMP_READ (R85). -/
def execLampRead (s : State) : Answer := onRequest 0x2F judgeLampRead s

/-! ### Events (R76, R80, R82, R86) -/

/-- A PENDING rule becomes ACTIVE (R76, R77): its push comes before the resolution of its lamp. -/
def State.confirmRule (s : State) (i : Nat) : State :=
  ((s.putRule i (s.rule i).activate).send ((s.rule i).pushes i)).settleLamps

/-- CONFIRM_TIMER_EXPIRY (R76). -/
def execConfirmTimerExpiry (i : Nat) (s : State) : Answer := onExpiry (s.rule i).confirm (fun t => t.confirmRule i) s

/-- The flash phase count advances (R80). -/
def State.advancePhase (s : State) : State :=
  ({ s with telltale.phase := (s.telltale.phase + 1) % 32, telltale.phaseTimer := s.after 31250 }).settleLamps

/-- PHASE_EVENT (R80). -/
def execPhaseEvent (s : State) : Answer := onExpiry s.telltale.phaseTimer State.advancePhase s

/-- PROVE_OUT_END (R82). -/
def execProveOutEnd (s : State) : Answer := onExpiry s.telltale.proveOut State.proveOutEnded s

/-- A lamp's current sensed at its turn-on (R86). That LAMP_FAULT is set, with its notice, before the push is taken, which on a full stack
sets ALERT_LOST with its own notice (R93), is the model's choice: R86 gives no order and R171 allows either (log 6). -/
def State.checkLamp (s : State) (n : Nat) (current : Bool) : State :=
  let t := s.putLamp n { openMark := !current, checked := true }
  match current, (s.lamp n).openMark with
  | false, false => (t.raise .lampFault).push (0xF020 + n) .info (.lamp n)
  | true, true => t.release (0xF020 + n) (.lamp n)
  | false, true => t
  | true, false => t

/-- LAMP_TURN_ON_CHECK (R86): a lit lamp whose lit interval has had no check yet (log 12). -/
def execLampTurnOnCheck (n : Nat) (current : Bool) (s : State) : Answer :=
  .next (if decide (n < 32) && s.lampLit n && !(s.lamp n).checked then s.checkLamp n current else s)

end Sys2Proof.Machine
end

