-- ==== Sys2Proof/Machine/Alerts.lean ====
section
/-! DEFINITION. The requests and events of the alert block, the chime and the ACK button (R95, R97, R99, R101, R102). -/

namespace Sys2Proof.Machine

/-! ### The ACK button (R95) -/

/-- A held release has lasted its 50 ms (R95, R157). -/
def releaseDone (t : Timer) (now : Nat) : Bool :=
  match t with
  | some due => decide (due ≤ now)
  | none => false

/-- The ACK input has become pressed: the 50 ms hold starts if the button is in its released state (R95, log 20). -/
def AlertBlock.ackDown (b : AlertBlock) (now : Nat) : AlertBlock :=
  if b.ackArmed || releaseDone b.ackRelease now then
    { b with ackArmed := true, ackHold := some (now + ms 50), ackRelease := none }
  else { b with ackRelease := none }

/-- The ACK input has become released (R95). -/
def AlertBlock.ackUp (b : AlertBlock) (now : Nat) : AlertBlock :=
  if b.ackArmed then { b with ackHold := none } else { b with ackRelease := some (now + ms 50) }

/-- The ACK input takes a new level; in SLEEP the level alone is held (R95, log 33). -/
def State.ackLevel (s : State) (pressed : Bool) : State :=
  let t := { s with pins.ack := pressed }
  if s.awake then { t with alert := if pressed then s.alert.ackDown s.clock else s.alert.ackUp s.clock } else t

/-- ACK_INPUT_CHANGE (R95). -/
def execAckInputChange (pressed : Bool) (s : State) : Answer :=
  .next (if s.pins.ack = pressed then s else s.ackLevel pressed)

/-- The press has been held for 50 ms: in RUN it gives one acknowledgement (R95). -/
def State.ackRecognised (s : State) : State :=
  let t := { s with alert.ackHold := none, alert.ackArmed := false }
  if t.ign.power = .run then t.acknowledge else t

/-- ACK_PRESS (R95). -/
def execAckPress (s : State) : Answer := onExpiry s.alert.ackHold State.ackRecognised s

/-! ### ALERT_ACK and ALERT_READ (R97, R99) -/

/-- The result and data of an acknowledgement (R96, R97). -/
def AckResult.verdict (a : AckResult) : Verdict :=
  match a with
  | .empty => { result := .empty, data := [], effect := State.acknowledge }
  | .refused code => { result := .refused, data := u16 code, effect := State.acknowledge }
  | .removed code => { result := .ok, data := u16 code, effect := State.acknowledge }

/-- ALERT_ACK judged (R97). -/
def judgeAlertAck (_ : FrameRecord) (s : State) : Verdict :=
  if s.ign.power = .run then (judgeAck s.alert.stack).verdict else refuse .wrongState

/-- ALERT_ACK (R97). -/
def execAlertAck (s : State) : Answer := onRequest 0x30 judgeAlertAck s

/-- The data of an entry (R99, selectors 0 to 2). -/
def AlertEntry.data (e : AlertEntry) (selector : Nat) : List Byte :=
  match selector with
  | 0 => u16 e.code ++ u8 e.severity.rank ++ u8 (bit e.held)
  | 1 => u8 e.origin.kindCode ++ u8 e.origin.number ++ u8 e.repeats
  | _ => u32 e.raisedAt

/-- The code of the playing pattern (R99, selector 3). -/
def playingCode (p : Option Playing) : Nat :=
  match p with
  | none => 0
  | some q => q.pattern.rank

/-- ALERT_READ judged (R99). -/
def judgeAlertRead (r : FrameRecord) (s : State) : Verdict :=
  if 3 < r.byte 3 then refuse .badArg
  else if r.byte 3 = 3 then
    reads (u8 s.alert.stack.length ++ u8 s.alert.lost ++ u8 (playingCode s.alert.playing))
  else if 15 < r.byte 2 then refuse .badArg
  else
    match s.alert.stack[r.byte 2]? with
    | some e => reads (e.data (r.byte 3))
    | none => refuse .notFound

/-- ALERT_READ (R99). -/
def execAlertRead (s : State) : Answer := onRequest 0x31 judgeAlertRead s

/-! ### The chime (R101, R102) -/

/-- CHIME_INTERVAL_END (R102). -/
def execChimeIntervalEnd (s : State) : Answer := onExpiry s.alert.chimeTimer State.chimeNext s

/-- The tone down-counter reaches 0: the output changes level and the counter is loaded again (R101). -/
def State.toneFlip (s : State) : State :=
  { s with
    alert.tone := !s.alert.tone,
    alert.toneTimer := s.alert.playing.bind (fun q => s.after (s.halfPeriod q.pattern)) }

/-- TONE_COUNTER_EXPIRY (R101). -/
def execToneCounterExpiry (s : State) : Answer := onExpiry s.alert.toneTimer State.toneFlip s

end Sys2Proof.Machine
end

