-- ==== Sys2Proof/Machine/Travel.lean ====
section
/-! DEFINITION. The requests and events of the distance block (R106, R111, R118 to R122). -/

namespace Sys2Proof.Machine

/-! ### The pulse input (R106, R111) -/

/-- A raw level changed: the filter takes it while the part is awake (R106). -/
def State.takeRaw (s : State) (p : Pin) (high : Bool) : State :=
  if s.awake then (s.setRaw p high).filterChange p else s.setRaw p high

/-- PIN_RAW_CHANGE (R106). -/
def execPinRawChange (p : Pin) (high : Bool) (s : State) : Answer :=
  .next (if s.rawLevel p = high then s else s.takeRaw p high)

/-- FILTER_STABILITY_EXPIRY (R106). -/
def execFilterStabilityExpiry (p : Pin) (s : State) : Answer := onExpiry (s.stability p) (fun t => t.acceptEdge p) s

/-- ZERO_TIMER_EXPIRY (R111). -/
def execZeroTimerExpiry (s : State) : Answer := onExpiry s.dist.zeroTimer State.zeroExpired s

/-! ### Requests (R118 to R122) -/

/-- An accepted SET_KFACTOR, in the order of R118. -/
def State.changeK (s : State) (k : Nat) : State :=
  ({ s with
    dist.history := s.dist.history ++ [CalEntry.mk s.dist.kFactor k s.dist.liveOdo], dist.kFactor := k,
    dist.accumulator := 0 }).storeOdometer

/-- SET_KFACTOR judged (R118). -/
def judgeSetKfactor (r : FrameRecord) (s : State) : Verdict :=
  if kPasses (r.word 2) = false then refuse .badArg
  else if r.word 2 = s.dist.kFactor then refuse .noChange
  else if historyRoom ≤ s.dist.history.length then refuse .historyFull
  else { result := .ok, data := u8 (s.dist.history.length + 1), effect := fun t => t.changeK (r.word 2) }

/-- SET_KFACTOR (R118). -/
def execSetKfactor (s : State) : Answer := onRequest 0x38 judgeSetKfactor s

/-- An accepted SET_ODOMETER (R120). -/
def State.setOdometer (s : State) (metres : Nat) : State :=
  (({ s with dist.liveOdo := metres, dist.storedOdo := metres, dist.accumulator := 0 }).showOdometer).requestCal

/-- SET_ODOMETER judged (R120). -/
def judgeSetOdometer (r : FrameRecord) (s : State) : Verdict :=
  if s.dist.sealed then refuse .sealed else accepts (fun t => t.setOdometer (r.long 2))

/-- SET_ODOMETER (R120). -/
def execSetOdometer (s : State) : Answer := onRequest 0x39 judgeSetOdometer s

/-- The seal flag set (R121). -/
def State.sealNow (s : State) : State := ({ s with dist.sealed := true }).storeOdometer

/-- SEAL judged (R121). -/
def judgeSeal (_ : FrameRecord) (s : State) : Verdict :=
  if s.dist.sealed then refuse .noChange else accepts State.sealNow

/-- SEAL (R121). -/
def execSealOdometer (s : State) : Answer := onRequest 0x3A judgeSeal s

/-- READ_CAL_HISTORY judged (R119). -/
def judgeReadCalHistory (r : FrameRecord) (s : State) : Verdict :=
  if 7 < r.byte 2 ∨ 1 < r.byte 3 then refuse .badArg
  else
    match s.dist.history[r.byte 2]? with
    | none => refuse .notFound
    | some e => if r.byte 3 = 0 then reads (u16 e.oldK ++ u16 e.newK) else reads (u32 e.odometer)

/-- READ_CAL_HISTORY (R119). -/
def execReadCalHistory (s : State) : Answer := onRequest 0x3B judgeReadCalHistory s

/-- The ring count, direction and mode of DISTANCE_READ selector 3 (R193). -/
def State.sensorByte (s : State) : Nat :=
  s.dist.ring.length + 16 * bit s.dist.reverse + 32 * bit (!s.quadrature)

/-- DISTANCE_READ judged (R122). -/
def judgeDistanceRead (r : FrameRecord) (s : State) : Verdict :=
  match r.byte 2 with
  | 0 => reads (u32 s.dist.liveOdo)
  | 1 => reads (u32 s.dist.storedOdo)
  | 2 => reads (u16 s.dist.kFactor ++ u8 s.dist.history.length ++ u8 (bit s.dist.sealed))
  | 3 => reads (u16 s.dist.accumulator ++ u8 s.sensorByte ++ u8 s.dist.phaseB)
  | _ => refuse .badArg

/-- DISTANCE_READ (R122). -/
def execDistanceRead (s : State) : Answer := onRequest 0x3C judgeDistanceRead s

end Sys2Proof.Machine
end

