-- ==== Sys2Proof/Machine/Tacho.lean ====
section
/-! DEFINITION. The requests, frames and events of the tachograph block (R129, R135 to R148). -/

namespace Sys2Proof.Machine

/-! ### Timers (R129, R138, R147, R148) -/

/-- The minute timer expires: it restarts, and each present driver takes a minute event (R129, which allows either order: driver 1 first
is the model's choice, log 6). -/
def State.minutePassed (s : State) : State :=
  (({ s with tacho.minuteTimer := s.after (ms 60000) }).minuteEvent .one).minuteEvent .two

/-- MINUTE_TIMER_EXPIRY (R129). -/
def execMinuteTimerExpiry (s : State) : Answer := onExpiry s.tacho.minuteTimer State.minutePassed s

/-- TRANSFER_TIMER_EXPIRY (R138, R139). -/
def execTransferTimerExpiry (s : State) : Answer := onExpiry s.tacho.transferTimer State.transferTimeout s

/-- MISMATCH_TIMER_EXPIRY (R147). -/
def execMismatchTimerExpiry (s : State) : Answer := onExpiry s.tacho.mismatchTimer State.confirmSide s

/-- SILENCE_WATCH_EXPIRY (R148). -/
def execSilenceWatchExpiry (s : State) : Answer := onExpiry s.tacho.watch State.watchExpired s

/-! ### Transfer frames (R137 to R141) -/

/-- The transfer frame of a record is an OPEN that is not stray. -/
def State.isOpen (s : State) (r : FrameRecord) : Bool :=
  match s.xferFrame r with
  | some (.opening _ _) => true
  | _ => false

/-- XFER_OPEN (R138, R139). -/
def execXferOpen (s : State) : Answer :=
  takeHead State.isOpen
    (fun r t =>
      match readXfer r with
      | some (.opening d total) => t.takeOpen d total
      | _ => t) s

/-- The transfer frame of a record is a DATA that is not stray. -/
def State.isData (s : State) (r : FrameRecord) : Bool :=
  match s.xferFrame r with
  | some (.data _ _ _) => true
  | _ => false

/-- XFER_DATA (R139). -/
def execXferData (s : State) : Answer :=
  takeHead State.isData
    (fun r t =>
      match readXfer r with
      | some (.data _ number bytes) => t.takeData number bytes
      | _ => t) s

/-- The transfer frame of a record is a CLOSE that is not stray. -/
def State.isClose (s : State) (r : FrameRecord) : Bool :=
  match s.xferFrame r with
  | some (.closing _ _) => true
  | _ => false

/-- XFER_CLOSE (R140, R141). -/
def execXferClose (s : State) : Answer :=
  takeHead State.isClose
    (fun r t =>
      match readXfer r with
      | some (.closing _ crc) => t.takeClose crc
      | _ => t) s

/-- The transfer frame of a record is an ABORT that is not stray. -/
def State.isAbort (s : State) (r : FrameRecord) : Bool :=
  match s.xferFrame r with
  | some (.aborting _) => true
  | _ => false

/-- XFER_ABORT (R138, R139). -/
def execXferAbort (s : State) : Answer := takeHead State.isAbort (fun _ t => t.takeAbort) s

/-- A record on the transfer identifier that is stray (R137). -/
def State.isStray (s : State) (r : FrameRecord) : Bool := s.isXfer r && (s.xferFrame r).isNone

/-- XFER_STRAY (R137). -/
def execXferStray (s : State) : Answer :=
  takeHead State.isStray (fun _ t => { t with tacho.stray := satInc count16 t.tacho.stray }) s

/-! ### CARD_READ (R135) -/

/-- The number of queue entries after an enqueue and the start that may follow it at once (R135, R136). -/
def State.queueAfter (s : State) (d : Driver) : Nat := (s.tacho.readout ++ [Readout.mk d 1]).length

/-- CARD_READ judged (R135); the number of entries is the queue's right after the enqueue. -/
def judgeCardRead (r : FrameRecord) (s : State) : Verdict :=
  match driverOf (r.byte 2) with
  | none => refuse .badArg
  | some d =>
    if (s.driver d).state = .noDriver then refuse .wrongState
    else if s.tacho.engaged d then refuse .noChange
    else { result := .ok, data := u8 (s.queueAfter d), effect := fun t => t.enqueue d 1 }

/-- CARD_READ (R135). -/
def execCardRead (s : State) : Answer := onRequest 0x40 judgeCardRead s

/-! ### TACHO_READ (R145) -/

/-- The driver number of a driver that may be none. -/
def driverNumber (d : Option Driver) : Nat :=
  match d with
  | none => 0
  | some e => e.number

/-- Selector 2's transfer bytes (R145, R193); the attempt and DATA count of an IDLE record are free values (log 14). -/
def Transfer.data (t : Transfer) (free : Nat) : List Byte :=
  match t with
  | .idle => u8 (16 * (Config.idleAttempt free).toNat) ++ u8 (Config.idleDataCount free).toNat
  | .requested d attempt => u8 (1 + 4 * d.number + 16 * attempt) ++ u8 0
  | .receiving d attempt _ _ count _ => u8 (2 + 4 * d.number + 16 * attempt) ++ u8 count

/-- A driving time of a valid summary with its present mark (R193); an absent one's value is a free value (log 14). -/
def driveData (drive : Option Nat) (free : Nat) : List Byte :=
  match drive with
  | some minutes => u16 (minutes + 2 ^ 15)
  | none => u16 (Config.absentDrive free).toNat

/-- Four characters from character 4 × part, 0 beyond the last (R145). -/
def fourFrom (chars : List Byte) (part : Nat) : List Byte :=
  ((chars.drop (4 * part)) ++ List.replicate 4 0).take 4

/-- The summary data of a selector, all 0 for an invalid record (R145). -/
def summaryData (m : Option Summary) (selector part free : Nat) : List Byte :=
  match m with
  | none => []
  | some q =>
    match selector with
    | 3 => u8 (q.day + 128) ++ u8 q.month ++ u16 q.year
    | 4 => u16 q.contDrive ++ driveData q.daily free
    | 5 => driveData q.weekly free ++ u8 q.name.length
    | 7 => fourFrom q.card part
    | _ => fourFrom q.name part

/-- TACHO_READ judged (R145). -/
def judgeTachoRead (r : FrameRecord) (s : State) : Verdict :=
  match driverOf (r.byte 2) with
  | none => refuse .badArg
  | some d =>
    let q := s.driver d
    match r.byte 3 with
    | 0 => reads (u16 (q.contDrive + 2 ^ 14 * q.state.code) ++ u16 q.sinceReconcile)
    | 1 => reads (u8 q.breakAccum ++ u16 q.stretch ++ u8 q.outcome.code)
    | 2 =>
      readsFree (s.tacho.transfer.data s.fresh ++ u8 s.tacho.readout.length ++
        u8 (driverNumber (s.tacho.readout.head?.map (·.driver))))
    | 3 => reads (summaryData q.summary 3 0 0)
    | 4 => readsFree (summaryData q.summary 4 0 s.fresh)
    | 5 => readsFree (summaryData q.summary 5 0 s.fresh)
    | 6 => reads (u8 (bit s.checking.isSome) ++ u8 s.tacho.side.code ++ u8 (bit s.tacho.watch.isSome))
    | 7 => if 3 < r.byte 4 then refuse .badArg else reads (summaryData q.summary 7 (r.byte 4) 0)
    | 8 => if 4 < r.byte 4 then refuse .badArg else reads (summaryData q.summary 8 (r.byte 4) 0)
    | _ => refuse .badArg

/-- TACHO_READ (R145). -/
def execTachoRead (s : State) : Answer := onRequest 0x41 judgeTachoRead s

end Sys2Proof.Machine
end

