-- ==== Sys2Proof/Machine/Display.lean ====
section
/-! DEFINITION. The contents of the display records (R159 to R161, R196), and the requests and events of the display link and the
PAGE button (R151 to R158, R162). -/

namespace Sys2Proof.Machine

/-! ### Record contents (R159 to R161, R196) -/

/-- Bytes at a record's length, unnamed bytes 0 (R151, R196). -/
def padTo (n : Nat) (bytes : List Byte) : List Byte := (bytes ++ List.replicate n 0).take n

/-- TOP_ALERT (R159). -/
def topAlertBytes (stack : List AlertEntry) : List Byte :=
  padTo 16
    (u8 1 ++ u8 stack.length ++
      (match stack with
        | [] => []
        | e :: _ => e.data 0 ++ e.data 1 ++ e.data 2))

/-- PAGE_SELECT (R159). -/
def State.pageSelectBytes (s : State) : List Byte :=
  u8 2 ++ u8 s.display.page ++ u8 s.ign.power.code ++ u8 s.telltale.duty

/-- A driving time on a driver page; an absent one's value is the free value `open16` (log 14). -/
def pageDrive (drive : Option Nat) (open16 : BitVec 16) : List Byte :=
  match drive with
  | some minutes => u16 minutes
  | none => u16 open16.toNat

/-- The summary fields of a driver page, bytes 12 to 58 (R160). An absent daily and an absent weekly drive have a free value each,
and the two need not agree (log 14). -/
def summaryBytes (m : Option Summary) (free : Nat) : List Byte :=
  match m with
  | none => []
  | some q =>
    u8 1 ++ padTo 16 q.card ++ u16 q.year ++ u8 q.month ++ u8 q.day ++ pageDrive q.daily (Config.absentPageDaily free) ++
      pageDrive q.weekly (Config.absentPageWeekly free) ++ u8 (bit q.daily.isSome + 2 * bit q.weekly.isSome) ++ u8 q.name.length ++ padTo 20 q.name

/-- DRIVER_PAGE (R160). -/
def State.driverPageBytes (s : State) (d : Driver) : List Byte :=
  padTo 64
    (u8 3 ++ u8 d.number ++ u8 (s.driver d).state.code ++ u8 (bit (decide ((s.driver d).state = .estimating))) ++
      u16 (ofSigned 16 (s.slot (contSlot d)).value) ++ s32 (s.slot (leftSlot d)).value ++
      u8 (s.slot (leftSlot d)).state.code ++ u8 (ofSigned 8 (s.slot (summarySlot d)).value) ++
      summaryBytes (s.driver d).summary s.fresh)

/-- DISTANCE_PAGE (R161). -/
def State.distancePageBytes (s : State) : List Byte :=
  u8 4 ++ u8 (s.slot 0).state.code ++ s32 (s.slot 0).value ++ u8 (ofSigned 8 (s.slot 1).value) ++
    u8 (s.slot 2).state.code ++ s32 (s.slot 2).value

/-- One place of ALERT_LIST (R161, R196). -/
def AlertEntry.listBytes (e : AlertEntry) : List Byte := u16 e.code ++ u8 (e.severity.rank + 128 * bit e.held)

/-- ALERT_LIST (R161). -/
def alertListBytes (stack : List AlertEntry) : List Byte :=
  padTo 50 (u8 5 ++ u8 stack.length ++ stack.flatMap AlertEntry.listBytes)

/-- The content of a record as the state stands (R156). -/
def State.recordBytes (s : State) (k : RecordKind) : List Byte :=
  match k with
  | .topAlert => topAlertBytes s.alert.stack
  | .pageSelect => s.pageSelectBytes
  | .driverPage1 => s.driverPageBytes .one
  | .driverPage2 => s.driverPageBytes .two
  | .distancePage => s.distancePageBytes
  | .alertList => alertListBytes s.alert.stack

/-! ### The link (R151 to R156) -/

/-- Chip select is asserted from the start of a transfer to its end (R151). -/
def Display.chipSelect (d : Display) : Bool := d.sending.isSome

/-- The bits of a transfer in the order in which the data output sends them: byte 0 first, and of each byte the most significant
bit first (R151). -/
def wireBits (bytes : List Byte) : List Bool := bytes.flatMap (fun b => (List.range 8).map (fun i => b.getLsbD (7 - i)))

/-- The transfer time: 4 µs for each byte (R151). -/
def transferTime (bytes : List Byte) : Nat := 4 * bytes.length

/-- The transfer of record `k` starts with the bytes built now (R156). -/
def State.beginTransfer (s : State) (k : RecordKind) : State :=
  ({ s with
    display.dirty := s.display.dirty.unmark k,
    display.sending := some { kind := k, bytes := s.recordBytes k },
    display.startTimer := none,
    display.doneTimer := s.after (transferTime (s.recordBytes k)) }).useFree

/-- A transfer starts with the due record, READY being sampled at its start (R151, R156); with READY low the link is WAITING, and
with no record due IDLE (log 18). -/
def State.startRecord (s : State) : State :=
  match s.display.due with
  | some k =>
    if s.pins.ready then s.beginTransfer k
    else { s with display := { s.display.send false s.clock with startTimer := none } }
  | none => { s with display.link := .idle, display.startTimer := none }

/-- DISPLAY_TRANSFER_START (R151, R156). -/
def execDisplayTransferStart (s : State) : Answer := onExpiry s.display.startTimer State.startRecord s

/-- The link IDLE with no timer running, then as R154 states for the due record. -/
def Display.settle (d : Display) (ready : Bool) (now : Nat) : Display :=
  ({ d with link := .idle, readyTimer := none, retryTimer := none }).poll ready now

/-- The link settled by READY and the clock. -/
def State.settleLink (s : State) : State := { s with display := s.display.settle s.pins.ready s.clock }

/-- A transfer completes (R154); chip select is released, and the next transfer starts 4 µs later at the earliest (R151). -/
def State.endTransfer (s : State) : State :=
  ({ s with
    display.sent := satInc count16 s.display.sent, display.sending := none, display.doneTimer := none,
    display.csFree := s.clock + 4 }).settleLink

/-- DISPLAY_TRANSFER_COMPLETE (R154). -/
def execDisplayTransferComplete (s : State) : Answer := onExpiry s.display.doneTimer State.endTransfer s

/-- READY rises (R154): a WAITING link sends the due record. -/
def State.readyUp (s : State) : State :=
  let t := { s with pins.ready := true }
  if t.display.link = .waiting then t.settleLink else t

/-- READY_RISE (R154). -/
def execReadyRise (s : State) : Answer := .next s.readyUp

/-- READY_FALL (R154): the link holds the new level for its next sampling. -/
def execReadyFall (s : State) : Answer := .next { s with pins.ready := false }

/-- The ready timer expires: FAULT (R154, R155). -/
def State.readyTimedOut (s : State) : State :=
  { s with
    display.link := .fault, display.readyTimer := none, display.readyTimeout := satInc count16 s.display.readyTimeout,
    display.retryTimer := s.after (ms 500) }

/-- READY_TIMER_EXPIRY (R154, R155). -/
def execReadyTimerExpiry (s : State) : Answer := onExpiry s.display.readyTimer State.readyTimedOut s

/-- The retry timer expires (R155). -/
def State.retry (s : State) : State :=
  if s.pins.ready then s.settleLink else { s with display.retryTimer := s.after (ms 500) }

/-- RETRY_TIMER_EXPIRY (R155). -/
def execRetryTimerExpiry (s : State) : Answer := onExpiry s.display.retryTimer State.retry s

/-! ### The PAGE button (R157, R158) -/

/-- The PAGE input has become pressed (R157): a press begins, or a short release inside a press or before the next one
is over (log 20). -/
def Display.pageDown (d : Display) (now : Nat) : Display :=
  match d.pagePress with
  | some _ => { d with pageRelease := none }
  | none =>
    if d.pageArmed || releaseDone d.pageRelease now then
      { d with pageArmed := true, pagePress := some now, pageKnown := false, pageRelease := none }
    else { d with pageRelease := none }

/-- The PAGE input has become released (R157): a press of less than 50 ms gives nothing. -/
def Display.pageUp (d : Display) (now : Nat) : Display :=
  match d.pagePress with
  | some began =>
    if d.pageKnown || decide (began + ms 50 ≤ now) then { d with pageKnown := true, pageRelease := some (now + ms 50) }
    else { d with pagePress := none }
  | none => if d.pageArmed then d else { d with pageRelease := some (now + ms 50) }

/-- The PAGE input takes a new level; in SLEEP the level alone is held (R157, log 33). -/
def State.pageLevel (s : State) (pressed : Bool) : State :=
  let t := { s with pins.page := pressed }
  if s.awake then { t with display := if pressed then s.display.pageDown s.clock else s.display.pageUp s.clock } else t

/-- PAGE_INPUT_CHANGE (R157). -/
def execPageInputChange (pressed : Bool) (s : State) : Answer :=
  .next (if s.pins.page = pressed then s else s.pageLevel pressed)

/-- The end of a short press: the release has lasted 50 ms before the press's 1000 ms mark (R157). -/
def Display.shortDue (d : Display) : Timer :=
  match d.pagePress, d.pageRelease with
  | some began, some due => if due < began + ms 1000 then some due else none
  | _, _ => none

/-- The page number changes (R153, R158). -/
def State.turnPage (s : State) : State :=
  let page := (s.display.page + 1) % 4
  ({ s with display.page := page, display.pagePress := none, display.pageKnown := false, display.pageRelease := none,
            display.pageArmed := true }).markDirty [.pageSelect, pageRecord page]

/-- PAGE_SHORT_PRESS (R157, R158). -/
def execPageShortPress (s : State) : Answer := onExpiry s.display.shortDue State.turnPage s

/-- The 1000 ms mark of a press that no release of 50 ms ends before it (R157). -/
def Display.longDue (d : Display) : Timer :=
  match d.pagePress, d.pageRelease with
  | some began, none => some (began + ms 1000)
  | some began, some due => if due < began + ms 1000 then none else some (began + ms 1000)
  | none, _ => none

/-- The driver of the page shown (R158). -/
def pageDriver (page : Nat) : Option Driver :=
  match page with
  | 0 => some .one
  | 1 => some .two
  | _ => none

/-- A long press (R158): a readout of the page's driver is enqueued. -/
def State.longPress (s : State) : State :=
  let t := { s with display.pagePress := none, display.pageKnown := false, display.pageArmed := false }
  match pageDriver t.display.page with
  | some d => t.enqueue d 1
  | none => t

/-- PAGE_LONG_PRESS (R157, R158). -/
def execPageLongPress (s : State) : Answer := onExpiry s.display.longDue State.longPress s

/-! ### DISPLAY_READ (R162) -/

/-- The six marks in the order of R153's list (R193). -/
def DirtySet.marks (d : DirtySet) : Nat :=
  bit d.topAlert + 2 * bit d.pageSelect + 4 * bit d.driverPage1 + 8 * bit d.driverPage2 + 16 * bit d.distancePage +
    32 * bit d.alertList

/-- DISPLAY_READ judged (R162). -/
def judgeDisplayRead (r : FrameRecord) (s : State) : Verdict :=
  match r.byte 2 with
  | 0 =>
    reads (u8 s.display.link.code ++ u8 s.display.page ++ u8 (bit s.pins.ready) ++ u8 s.display.dirty.marks)
  | 1 => reads (u16 s.display.sent ++ u16 s.display.readyTimeout)
  | _ => refuse .badArg

/-- DISPLAY_READ (R162). -/
def execDisplayRead (s : State) : Answer := onRequest 0x48 judgeDisplayRead s

end Sys2Proof.Machine
end

