-- ==== Sys2Proof/Machine/Dispatch.lean ====
section
/-! DEFINITION. The effect of each command on everything but the queue: one arm for each row of spec/opcode_table.json. -/

namespace Sys2Proof.Machine

def exec (i : Instr) (s : State) : Host.Outcome State Fault Refusal :=
  match i with
  | .powerOn => Sys2Proof.Machine.execPowerOn s
  | .supplyLoss => Sys2Proof.Machine.execSupplyLoss s
  | .ignChange high => Sys2Proof.Machine.execIgnChange high s
  | .ignTimerExpiry => Sys2Proof.Machine.execIgnTimerExpiry s
  | .parkingTimerExpiry => Sys2Proof.Machine.execParkingTimerExpiry s
  | .secondTimerExpiry => Sys2Proof.Machine.execSecondTimerExpiry s
  | .validFrameReceived p f => Sys2Proof.Machine.execValidFrameReceived p f s
  | .rxErrorDetected p => Sys2Proof.Machine.execRxErrorDetected p s
  | .txErrorDetected p => Sys2Proof.Machine.execTxErrorDetected p s
  | .busOffRecoveryExpiry p => Sys2Proof.Machine.execBusOffRecoveryExpiry p s
  | .silenceTimerExpiry p => Sys2Proof.Machine.execSilenceTimerExpiry p s
  | .txFrameComplete => Sys2Proof.Machine.execTxFrameComplete s
  | .routedFrame => Sys2Proof.Machine.execRoutedFrame s
  | .unroutedFrame => Sys2Proof.Machine.execUnroutedFrame s
  | .foreignMgmt => Sys2Proof.Machine.execForeignMgmt s
  | .badRequest => Sys2Proof.Machine.execBadRequest s
  | .readEvents => Sys2Proof.Machine.execReadEvents s
  | .setNoticeMask => Sys2Proof.Machine.execSetNoticeMask s
  | .readCounters => Sys2Proof.Machine.execReadCounters s
  | .setParam => Sys2Proof.Machine.execSetParam s
  | .getParam => Sys2Proof.Machine.execGetParam s
  | .restart => Sys2Proof.Machine.execRestart s
  | .restartExecute => Sys2Proof.Machine.execRestartExecute s
  | .configSave => Sys2Proof.Machine.execConfigSave s
  | .configSaveEnd equal => Sys2Proof.Machine.execConfigSaveEnd equal s
  | .configErase => Sys2Proof.Machine.execConfigErase s
  | .routeOpen => Sys2Proof.Machine.execRouteOpen s
  | .extA => Sys2Proof.Machine.execExtA s
  | .extB => Sys2Proof.Machine.execExtB s
  | .extC => Sys2Proof.Machine.execExtC s
  | .routeDelete => Sys2Proof.Machine.execRouteDelete s
  | .routeRead => Sys2Proof.Machine.execRouteRead s
  | .slotExpiry n => Sys2Proof.Machine.execSlotExpiry n s
  | .readSlot => Sys2Proof.Machine.execReadSlot s
  | .gaugeField => Sys2Proof.Machine.execGaugeField s
  | .gaugeCommit => Sys2Proof.Machine.execGaugeCommit s
  | .gaugeRead => Sys2Proof.Machine.execGaugeRead s
  | .stepEvent c => Sys2Proof.Machine.execStepEvent c s
  | .homingStep c => Sys2Proof.Machine.execHomingStep c s
  | .restDelayExpiry c => Sys2Proof.Machine.execRestDelayExpiry c s
  | .coilFaultReport c cause => Sys2Proof.Machine.execCoilFaultReport c cause s
  | .ruleA => Sys2Proof.Machine.execRuleA s
  | .ruleB => Sys2Proof.Machine.execRuleB s
  | .ruleC => Sys2Proof.Machine.execRuleC s
  | .ruleD => Sys2Proof.Machine.execRuleD s
  | .ruleEnable => Sys2Proof.Machine.execRuleEnable s
  | .ruleClear => Sys2Proof.Machine.execRuleClear s
  | .ruleRead => Sys2Proof.Machine.execRuleRead s
  | .lampRead => Sys2Proof.Machine.execLampRead s
  | .confirmTimerExpiry r => Sys2Proof.Machine.execConfirmTimerExpiry r s
  | .phaseEvent => Sys2Proof.Machine.execPhaseEvent s
  | .proveOutEnd => Sys2Proof.Machine.execProveOutEnd s
  | .lampTurnOnCheck n current => Sys2Proof.Machine.execLampTurnOnCheck n current s
  | .ackPress => Sys2Proof.Machine.execAckPress s
  | .alertAck => Sys2Proof.Machine.execAlertAck s
  | .alertRead => Sys2Proof.Machine.execAlertRead s
  | .chimeIntervalEnd => Sys2Proof.Machine.execChimeIntervalEnd s
  | .toneCounterExpiry => Sys2Proof.Machine.execToneCounterExpiry s
  | .pinRawChange p high => Sys2Proof.Machine.execPinRawChange p high s
  | .filterStabilityExpiry p => Sys2Proof.Machine.execFilterStabilityExpiry p s
  | .zeroTimerExpiry => Sys2Proof.Machine.execZeroTimerExpiry s
  | .setKfactor => Sys2Proof.Machine.execSetKfactor s
  | .setOdometer => Sys2Proof.Machine.execSetOdometer s
  | .sealOdometer => Sys2Proof.Machine.execSealOdometer s
  | .readCalHistory => Sys2Proof.Machine.execReadCalHistory s
  | .distanceRead => Sys2Proof.Machine.execDistanceRead s
  | .calWriteComplete => Sys2Proof.Machine.execCalWriteComplete s
  | .minuteTimerExpiry => Sys2Proof.Machine.execMinuteTimerExpiry s
  | .cardRead => Sys2Proof.Machine.execCardRead s
  | .xferOpen => Sys2Proof.Machine.execXferOpen s
  | .xferData => Sys2Proof.Machine.execXferData s
  | .xferClose => Sys2Proof.Machine.execXferClose s
  | .xferAbort => Sys2Proof.Machine.execXferAbort s
  | .xferStray => Sys2Proof.Machine.execXferStray s
  | .transferTimerExpiry => Sys2Proof.Machine.execTransferTimerExpiry s
  | .tachoRead => Sys2Proof.Machine.execTachoRead s
  | .mismatchTimerExpiry => Sys2Proof.Machine.execMismatchTimerExpiry s
  | .silenceWatchExpiry => Sys2Proof.Machine.execSilenceWatchExpiry s
  | .readyRise => Sys2Proof.Machine.execReadyRise s
  | .readyTimerExpiry => Sys2Proof.Machine.execReadyTimerExpiry s
  | .retryTimerExpiry => Sys2Proof.Machine.execRetryTimerExpiry s
  | .displayTransferStart => Sys2Proof.Machine.execDisplayTransferStart s
  | .displayTransferComplete => Sys2Proof.Machine.execDisplayTransferComplete s
  | .pageShortPress => Sys2Proof.Machine.execPageShortPress s
  | .pageLongPress => Sys2Proof.Machine.execPageLongPress s
  | .displayRead => Sys2Proof.Machine.execDisplayRead s
  | .readyFall => Sys2Proof.Machine.execReadyFall s
  | .ackInputChange pressed => Sys2Proof.Machine.execAckInputChange pressed s
  | .pageInputChange pressed => Sys2Proof.Machine.execPageInputChange pressed s

end Sys2Proof.Machine
end

