-- ==== Sys2Proof/Machine/Step.lean ====
section
/-! DEFINITION. One step: the command at the front of the queue, or, on an empty queue, what the part does by itself (log 1). -/

namespace Sys2Proof.Machine

/-! ### What is due on an empty queue (log 1) -/

/-- The timers of the controller, the ports, the blocks that have one of each, and the stores, with their commands. -/
def State.blockTimers (s : State) : List (Timer × Instr) :=
  [(s.ign.timer, .ignTimerExpiry), (s.ign.parkingTimer, .parkingTimerExpiry), (s.ign.secondTimer, .secondTimerExpiry),
   (s.portT.recovery, .busOffRecoveryExpiry .tractor), (s.portL.recovery, .busOffRecoveryExpiry .trailer),
   (s.portT.silence, .silenceTimerExpiry .tractor), (s.portL.silence, .silenceTimerExpiry .trailer),
   (s.store.writeTimer, .calWriteComplete), (s.dist.spaTimer, .filterStabilityExpiry .spa),
   (s.dist.spbTimer, .filterStabilityExpiry .spb), (s.dist.zeroTimer, .zeroTimerExpiry)] ++
  [(s.tacho.minuteTimer, .minuteTimerExpiry), (s.tacho.transferTimer, .transferTimerExpiry),
   (s.tacho.mismatchTimer, .mismatchTimerExpiry), (s.tacho.watch, .silenceWatchExpiry),
   (s.telltale.proveOut, .proveOutEnd), (s.telltale.phaseTimer, .phaseEvent), (s.alert.ackHold, .ackPress),
   (s.alert.chimeTimer, .chimeIntervalEnd), (s.alert.toneTimer, .toneCounterExpiry)] ++
  [(s.display.startTimer, .displayTransferStart), (s.display.doneTimer, .displayTransferComplete),
   (s.display.readyTimer, .readyTimerExpiry), (s.display.retryTimer, .retryTimerExpiry),
   (s.display.shortDue, .pageShortPress), (s.display.longDue, .pageLongPress)]

/-- The timers of the frame slots, the channels and the rules, with their commands. -/
def State.manyTimers (s : State) : List (Timer × Instr) :=
  (List.range 80).map (fun n => (s.slotDue (n + 16), .slotExpiry (n + 16))) ++
    (List.range 8).map (fun c => (s.stepDue c, .stepEvent c)) ++
    (List.range 8).map (fun c => (s.homingDue c, .homingStep c)) ++
    (List.range 8).map (fun c => ((s.channel c).restTimer, .restDelayExpiry c)) ++
    (List.range 64).map (fun i => ((s.rule i).confirm, .confirmTimerExpiry i))

/-- A timer whose moment has come. -/
def timerDue (now : Nat) (t : Timer × Instr) : Bool :=
  match t.1 with
  | some due => decide (due ≤ now)
  | none => false

/-- A pending restart whose moment has come (R177). -/
def State.restartDue (s : State) : Bool :=
  match s.mgmt.restart with
  | none => false
  | some r => decide (s.store.write = .idle) && decide (r.moment s.clock ≤ s.clock)

/-- The command of what is due now: a restart, the record at the head of the intake queue (R8), or a timer. -/
def State.dueNow (s : State) : Option Instr :=
  if s.restartDue then some .restartExecute
  else
    match s.mgmt.restart, s.intake.queue with
    | none, r :: _ => some (s.pathOf r)
    | _, _ => ((s.blockTimers ++ s.manyTimers).find? (timerDue s.clock)).map (·.2)

/-- A save has used its 400 ms and waits for its read-back (R179, log 21). -/
def State.saveOverdue (s : State) : Bool :=
  match s.store.saveLimit with
  | some limit => decide (limit ≤ s.clock)
  | none => false

/-- One microsecond passes. -/
def State.tick (s : State) : State := { s with clock := s.clock + 1 }

/-- A step on an empty queue (log 1): actions still on their way reach the alert block; or what is due happens; or one
microsecond passes, but for a save that has used its time. -/
def idle (s : State) : Answer :=
  if s.alert.backlog ≠ [] then .next (s.send [])
  else
    match s.dueNow with
    | some c => exec c s
    | none => if s.saveOverdue then .next s else .next s.tick

/-- One step. -/
def step (s : State) : Host.Outcome State Fault Refusal :=
  match s.pending with
  | c :: rest => exec c { s with pending := rest }
  | [] => idle s

/-- The command that a word spells put at the front of the queue; no word spells one (log 29). -/
def State.withFetchWord (s : State) (nbits w : Nat) : State :=
  match decodeTableWord nbits w with
  | some c => { s with pending := c :: s.pending }
  | none => s

end Sys2Proof.Machine
end

