-- ==== Sys2Proof/Safety.lean ====
section
/-! DEFINITION. What is said of a machine that is safe: the invariants of its blocks that every step keeps (R10, R11, R12, R69, R89,
R113, R115, R117, R134, R163, R189); and what the statements say a command's shared effects are, each spelled once: slot changes, signals,
card transfers, cards, the speed watches, the controller's two conditions. -/

namespace Sys2Proof

open Machine

/-- An Alert Stack of at most 16 entries, no two with the same code (R89). -/
def StackOk (stack : List AlertEntry) : Prop := stack.length ≤ stackRoom ∧ (stack.map (·.code)).Nodup

/-- The Alert Stack obeys R89: its size, its codes, and empty in SLEEP. -/
def AlertsOk (s : State) : Prop := StackOk s.alert.stack ∧ (s.ign.power = .sleep → s.alert.stack = [])

/-- The queues hold what they have room for (R7, R9). -/
def QueuesOk (s : State) : Prop := s.intake.queue.length ≤ intakeRoom ∧ s.intake.transmit.length ≤ transmitRoom

/-- Part A of an extractor in a frame of `length` bytes keeps the ranges of R12. -/
def PartAOk (a : ExtractorA) (length : Nat) : Prop :=
  a.start ≤ 63 ∧ 1 ≤ a.width ∧ a.width ≤ 32 ∧ a.start + a.width ≤ 8 * length ∧
    (a.order = .highFirst → a.start % 8 = 0 ∧ a.width % 8 = 0) ∧ 16 ≤ a.slot ∧ a.slot < 96

/-- Part B of an extractor keeps the ranges of R12. -/
def PartBOk (b : ExtractorB) : Prop :=
  b.multiplier ≠ 0 ∧ -32768 ≤ b.multiplier ∧ b.multiplier ≤ 32767 ∧ 1 ≤ b.divisor ∧ b.divisor ≤ 32767

/-- The offset of an extractor keeps the range of R12. -/
def PartCOk (offset : Int) : Prop := -2147483648 ≤ offset ∧ offset ≤ 2147483647

/-- The fields that an ACTIVE entry and the build slot share keep the ranges of R11: the identifier, the length, the timeout and the
extractor count. -/
def EntryOk (key : RouteKey) (length timeout count : Nat) : Prop :=
  key.identifier < 2 ^ 29 ∧ 1 ≤ length ∧ length ≤ 8 ∧ 10 ≤ timeout ∧ timeout ≤ 65000 ∧ timeout % 10 = 0 ∧ 1 ≤ count ∧
    count ≤ 4

/-- The Route Table obeys R11: its size, its key order and its counts; every ACTIVE entry keeps the ranges of R11 and R12; and the
build slot does, so that a complete build can be installed (R18, R21): its key is not ACTIVE and there is room. -/
def RoutesOk (s : State) : Prop :=
  s.intake.routes.length ≤ routeRoom ∧ (s.intake.routes.map (fun e => e.route.key.rank)).Pairwise (· < ·) ∧
    (∀ e ∈ s.intake.routes,
      EntryOk e.route.key e.route.length e.route.timeout e.route.extractors.length ∧ e.hits ≤ 65535 ∧ e.rejects ≤ 255 ∧
        ∀ x ∈ e.route.extractors, PartAOk x.a e.route.length ∧ PartBOk x.b ∧ PartCOk x.offset) ∧
    ∀ b, s.intake.build = some b →
      EntryOk b.key b.length b.timeout b.parts.length ∧
        (∀ p ∈ b.parts, (∀ a, p.a = some a → PartAOk a b.length) ∧ (∀ m, p.b = some m → PartBOk m) ∧
          ∀ c, p.c = some c → PartCOk c) ∧
        s.intake.routes.length < routeRoom ∧ ∀ e ∈ s.intake.routes, e.route.key ≠ b.key

/-- The slots named by the parts A of the build slot (R17). -/
def buildSlots (b : Option Build) : List Nat :=
  match b with
  | none => []
  | some b => b.parts.filterMap (fun p => p.a.map (·.slot))

/-- No frame slot is the destination of more than one extractor among the ACTIVE entries and the build slot (R17). -/
def SlotsOk (s : State) : Prop := (s.routedSlots ++ buildSlots s.intake.build).Nodup

/-- The distance block obeys R113, R115 and R117. -/
def DistanceOk (d : Distance) : Prop :=
  d.accumulator < d.kFactor ∧ 2000 ≤ d.kFactor ∧ d.history.length ≤ historyRoom ∧
    d.kFactor = (d.history.getLast?.map (·.newK)).getD 8000 ∧ d.storedOdo ≤ d.liveOdo

/-- The readout queue obeys R134: different drivers, and neither is the driver in flight; an IDLE transfer record has no timer running
(R136). -/
def ReadoutOk (t : Tacho) : Prop :=
  (t.readout.map (·.driver)).Nodup ∧ (∀ e ∈ t.readout, t.transfer.driver ≠ some e.driver) ∧
    (t.transfer = .idle → t.transferTimer = none)

/-- No two rules in EDITING or LIVE hold the same alert code (R69). -/
def CodesOk (s : State) : Prop :=
  ∀ i j code, i < 64 → j < 64 → s.heldCode i = some code → s.heldCode j = some code → i = j

/-- HOLD is asserted in PARKING alone (R189, R190, R191); the ports are on outside SLEEP alone (R6). -/
def PowerOk (s : State) : Prop :=
  (s.ign.hold = true ↔ s.ign.power = .parking) ∧ (s.portT.on = true ↔ s.ign.power ≠ .sleep) ∧
    (s.portL.on = true ↔ s.ign.power ≠ .sleep)

/-- The display link is OFF in SLEEP alone, and then no timer of it runs (R152, R163). -/
def LinkOk (s : State) : Prop :=
  (s.display.link = .off ↔ s.ign.power = .sleep) ∧
    (s.ign.power = .sleep → s.display.readyTimer = none ∧ s.display.retryTimer = none ∧ s.display.startTimer = none ∧
      s.display.doneTimer = none)

/-- Every held value and every value in effect of a parameter lies in its range, and the held values keep the relations
between parameters (R126, R127, R173, R174). -/
def ParamsOk (m : Management) : Prop :=
  ∀ id, id < 27 →
    paramInRange id (m.held.get id 0) = true ∧ paramInRange id (m.inEffect.get id 0) = true ∧
      paramRelates m.held id (m.held.get id 0) = true

/-- Every live record of a gauge keeps the ranges and the checks of R41 and R43, and every field of a staged record lies
in its range (R42): the settings, and the value and the position of each of the eight points. -/
def RecordsOk (s : State) : Prop :=
  ∀ c, c < 8 →
    (s.channel c).live.passes = true ∧ (s.channel c).staged.settings.inRange = true ∧
      (s.channel c).staged.settings.rest ≤ 4095 ∧
      (s.channel c).staged.points.items.all (fun p => fits32 p.value && decide (p.position ≤ 4095)) = true

/-! ### A record at the head of the intake queue, and its answer (R8, R164, R165) -/

/-- The classifier takes the record `r`: it heads the intake queue, `rest` is behind it, and no restart is pending. -/
def AtHead (s : State) (r : FrameRecord) (rest : List FrameRecord) : Prop :=
  s.intake.queue = r :: rest ∧ s.mgmt.restart = none

/-- The record `r` at the head is a request of that code: port T, MGMT_REQ_ID, eight bytes, the code first. -/
def Asked (code : Nat) (s : State) (r : FrameRecord) (rest : List FrameRecord) : Prop :=
  AtHead s r rest ∧ r.port = .tractor ∧ r.identifier = s.mgmtReqId ∧ r.data.length = 8 ∧ r.byte 0 = code

/-- The state once the record has left the queue and its response with that result and data has been offered. -/
def answered (s : State) (r : FrameRecord) (rest : List FrameRecord) (result : ResultCode) (data : List Byte) : State :=
  ({ s with intake.queue := rest }).offer (({ s with intake.queue := rest }).response r result data)

/-- A save is in flight (R179). -/
def Saving (s : State) : Prop := s.store.save.isSome = true

/-- The slot stands written with that value, FRESH. -/
def Shows (s : State) (n : Nat) (v : Int) : Prop := (s.slot n).state = .fresh ∧ (s.slot n).value = v

/-- The event flag stands set. -/
def Flagged (s : State) (f : EventFlag) : Prop := f.inWord s.mgmt.flags = true

/-! ### What a channel makes of a signal (R44, R48 to R52) -/

/-- The channel has an effective source and its value is `v` (R48): the source slot while it is FRESH, else the fallback slot. -/
def Sourced (s : State) (c : Channel) (v : Int) : Prop :=
  Shows s c.live.settings.source v ∨
    ((s.slot c.live.settings.source).state ≠ .fresh ∧ ∃ n, c.live.settings.fallback = some n ∧ Shows s n v)

/-- The curve gives the value `v` the position `p` (R49): an end point's at or beyond it, between two points the position of the lower
one plus the exact product divided toward zero. -/
def OnCurve (curve : List CurvePoint) (v : Int) (p : Nat) : Prop :=
  (∀ a rest, curve = a :: rest → v ≤ a.value → p = a.position) ∧
    (∀ before a, curve = before ++ [a] → a.value ≤ v → p = a.position) ∧
    ∀ before a b rest, curve = before ++ a :: b :: rest → a.value ≤ v → v < b.value →
      (p : Int) = a.position + Int.tdiv (((b.position : Int) - a.position) * (v - a.value)) (b.value - a.value)

/-- The candidate `k` has been judged against the reference target and placed (R51, R52), which leaves the channel `d`: within the dead
band, where one is applied, it is ignored unless it is the rest position; a stopped TRACKING needle takes it as its target and starts
toward it; any other holds it pending. -/
def Placed (c : Channel) (now : Nat) (band : Bool) (k : Nat) (d : Channel) : Prop :=
  ∀ ignored : Prop,
    (ignored ↔ band = true ∧ k ≠ c.live.settings.rest ∧
      ((k : Int) - (c.pending.getD c.target : Nat)).natAbs ≤ c.live.settings.deadBand) →
    (ignored → d = c) ∧
    (¬ ignored → c.state = .tracking → c.direction = .none →
      (k = c.position → d = { c with target := k }) ∧
      (k ≠ c.position →
        d =
          { c with
            target := k, direction := if c.position < k then .up else .down, level := 0,
            stepTimer := some (now + c.live.settings.intervals.get 0 0) })) ∧
    (¬ ignored → c.state ≠ .tracking ∨ c.direction ≠ .none → d = { c with pending := some k })

/-- The channel `c` has evaluated the slots of `s` (R48, R50), which leaves it `d`. -/
def Evaluated (s : State) (c : Channel) (band : Bool) (d : Channel) : Prop :=
  (∀ v, Sourced s c v →
    ∃ p, OnCurve c.live.curve v p ∧ Placed { c with restTimer := none, restMark := false } s.clock band p d) ∧
  ((∀ v, ¬ Sourced s c v) →
    match c.live.settings.policy with
    | .hold => d = c
    | .rest => Placed c s.clock band c.live.settings.rest d
    | .restAfter =>
      (c.restMark = true → Placed c s.clock band c.live.settings.rest d) ∧
      (c.restMark = false → c.restTimer ≠ none → d = c) ∧
      (c.restMark = false → c.restTimer = none → c.live.settings.restDelay = 0 →
        Placed { c with restMark := true } s.clock band c.live.settings.rest d) ∧
      (c.restMark = false → c.restTimer = none → c.live.settings.restDelay ≠ 0 →
        d = { c with restTimer := some (s.clock + 100000 * c.live.settings.restDelay) }))

/-- The slot is the channel's source or its fallback, and the channel takes its events (R31, R48). -/
def Follows (c : Channel) (n : Nat) : Prop :=
  (c.live.settings.source = n ∨ c.live.settings.fallback = some n) ∧
    (c.state = .tracking ∨ (c.state = .homing ∧ c.parkMark = false))

/-- The reaction of a channel `c` to its new live record (R44), which leaves it `d`: TRACKING and unparked HOMING evaluate without the
dead band, a target or pending target above the new full scale is lowered to it, and any other state does nothing. That a commit in
HOMING leaves the rest-delay timer and the rest mark as they are is the model's reading (log 17). -/
def CommitReaction (s : State) (c d : Channel) : Prop :=
  ∀ cut : Channel,
    cut =
      { c with
        target := min c.target c.live.settings.fullScale,
        pending := c.pending.map (fun k => min k c.live.settings.fullScale) } →
    (c.state = .tracking → Evaluated s { cut with restTimer := none, restMark := false } false d) ∧
    (c.state = .homing → c.parkMark = false → Evaluated s cut false d) ∧
    (c.state = .homing → c.parkMark = true → d = cut) ∧
    (c.state ≠ .tracking → c.state ≠ .homing → d = c)

/-! ### The dimming duty, the display link and a lamp rule at an event (R75, R84, R153, R154) -/

namespace Machine

/-- The dimming duty of R84: 100 % with the dimmer slot unset or not FRESH, otherwise its value limited to 0–100 and raised to
P_DIM_MIN. -/
def DutyIs (s : State) (duty : Nat) : Prop :=
  (s.param 4 < 0 → duty = 100) ∧
    ∀ n : Nat, s.param 4 = n →
      ((s.slot n).state ≠ .fresh → duty = 100) ∧
      ((s.slot n).state = .fresh → (duty : Int) = max (min 100 (max 0 (s.slot n).value)) (s.param 5))

/-- What the dimming has made of the way from `s` to `t` (R84): the duty stands, or has been worked out on the slots of `t`; without an event
of the dimmer slot it stands, and a dimmer slot that changed has had it worked out. -/
def DimmingHeard (ev : Nat → Prop) (s t : State) : Prop :=
  (t.telltale.duty = s.telltale.duty ∨ DutyIs t t.telltale.duty) ∧
    ∀ n : Nat, s.param 4 = n →
      (¬ ev n → t.telltale.duty = s.telltale.duty) ∧ (t.slot n ≠ s.slot n → DutyIs t t.telltale.duty)

/-- The link with a free choice of what to send: SENDING with the due record where READY is high, at the earliest 4 µs after the last
release of chip select; WAITING with 100 ms where it is low; IDLE where no record is due (R154). -/
def linkChooses (d : Display) (ready : Bool) (now : Nat) : Display :=
  if d.due = none then { d with link := .idle, readyTimer := none, retryTimer := none }
  else if ready = true then
    { d with link := .sending, startTimer := some (max now d.csFree), readyTimer := none, retryTimer := none }
  else { d with link := .waiting, readyTimer := some (now + 100000), retryTimer := none }

/-- The page of a driver. -/
def pageOf (d : Driver) : RecordKind :=
  match d with
  | .one => .driverPage1
  | .two => .driverPage2

/-- An event of slot `n` marks the kind `k` (R153). -/
def Marked (n : Nat) (k : RecordKind) : Prop :=
  (k = .distancePage ∧ (n = 0 ∨ n = 1 ∨ n = 2)) ∨ (k = .driverPage1 ∧ (n = 4 ∨ n = 5 ∨ n = 8)) ∨
    (k = .driverPage2 ∧ (n = 6 ∨ n = 7 ∨ n = 9))

/-- What the display link makes of the way from `s` to `t` (R153, R154): OFF it takes no marks; else a slot that changed, a driver whose
state changed, a new duty and a changed Alert Stack have each set their marks, and no mark is lost. A link that is not IDLE goes on as it
was; an IDLE one chooses once a record has come due. -/
structure LinkTold (s t : State) : Prop where
  off : s.display.link = .off → t.display = s.display
  kept : ∀ k, s.display.dirty.has k = true → t.display.dirty.has k = true
  slots : s.display.link ≠ .off → ∀ n k, Marked n k → t.slot n ≠ s.slot n → t.display.dirty.has k = true
  drivers : s.display.link ≠ .off → ∀ d, (t.driver d).state ≠ (s.driver d).state → t.display.dirty.has (pageOf d) = true
  duty : s.display.link ≠ .off → t.telltale.duty ≠ s.telltale.duty → t.display.dirty.pageSelect = true
  stack : s.display.link ≠ .off → t.alert.stack ≠ s.alert.stack →
    t.display.dirty.topAlert = true ∧ t.display.dirty.alertList = true
  busy : s.display.link ≠ .idle → t.display = { s.display with dirty := t.display.dirty }
  idle : s.display.link = .idle →
    (t.display = { s.display with dirty := t.display.dirty } ∧
        (t.display.due = none ∨ t.display.dirty = s.display.dirty)) ∨
      (t.display.due ≠ none ∧ t.display = linkChooses { s.display with dirty := t.display.dirty } s.pins.ready s.clock)

/-- The rules take events: WAKING and RUN (R78). -/
def RulesRun (s : State) : Prop := s.ign.power = .waking ∨ s.ign.power = .run

/-- A rule that has evaluated the record `k` (R75): the new condition, and the live state by the one held before. -/
def ruleAfter (now : Nat) (r : Rule) (k : SlotRecord) : Rule :=
  let after := r.judge r.condition k
  let confirmTime := 100000 * (r.c.map (·.confirmTime)).getD 0
  if r.live = .inactive ∧ r.condition = false ∧ after = true then
    if confirmTime = 0 then { r with live := .active, condition := true, confirm := none }
    else { r with live := .pending, condition := true, confirm := some (now + confirmTime) }
  else if r.live ≠ .inactive ∧ r.condition = true ∧ after = false then
    { r with live := .inactive, condition := false, confirm := none }
  else { r with condition := after }

/-- What rule `i` has made of the way from `s` to `t` (R75, R78): it has evaluated records of its slot one after another, the last of them
the slot's record as it stands; a LIVE rule whose slot satisfies `must` has evaluated in WAKING and RUN; no other rule has. -/
def RuleHeard (must : Nat → Prop) (s t : State) (i : Nat) : Prop :=
  ∃ records : List SlotRecord,
    t.rule i = records.foldl (ruleAfter s.clock) (s.rule i) ∧
    (records ≠ [] → RulesRun s ∧ (s.rule i).life = .live) ∧
    ∀ a, (s.rule i).a = some a →
      (∀ k, records.getLast? = some k → k = t.slot a.slot) ∧
      (RulesRun s → (s.rule i).life = .live → must a.slot → records ≠ [])

/-- The channel `d` has evaluated, some time at the clock of `s`, which left it `e` (R48, R50). -/
def EvaluatedAt (now : Nat) (d e : Channel) : Prop := ∃ x : State, x.clock = now ∧ Evaluated x d true e

/-- What channel `c` has made of the way from `s` to `t` (R31, R48): it is as it was, or it has evaluated, at last on the slots of `t`;
and one that follows a slot that satisfies `must` has evaluated. (On an ascending curve, which `Obligations.RecordsKept` keeps.) -/
def ChannelHeard (must : Nat → Prop) (s t : State) (c : Nat) : Prop :=
  curveAscends (s.channel c).live.curve = true →
    ∀ moved : Prop,
      (moved ↔ ∃ d, Relation.ReflTransGen (EvaluatedAt s.clock) (s.channel c) d ∧ Evaluated t d true (t.channel c)) →
      (t.channel c = s.channel c ∨ moved) ∧ ∀ n, must n → Follows (s.channel c) n → moved

end Machine

/-! ### What a change of a slot can reach (R31): `Ripple ch s t` says that `t` is `s` after writes of slots that satisfy
`ch`, and what the consumers do with them: evaluations, pushes, releases, chimes, marks, flags with their notices. -/

namespace Machine

/-- Everything a ripple does not touch; what it may touch is blanked. -/
def State.outside (s : State) : State :=
  { s with
    table := SignalTable.reset, gauges := Bank.fill 8 Channel.powerOn, telltale := Telltale.powerOn,
    alert := AlertBlock.powerOn, tacho := Tacho.powerOn, display := Display.powerOn, mgmt.flags := 0,
    intake.transmit := [], portT.txDrop := 0 }

/-- The part of a channel that an evaluation leaves alone. -/
def Channel.fixed (c : Channel) : Channel :=
  { c with target := 0, pending := none, level := 0, direction := .none, stepTimer := none, restTimer := none,
           restMark := false }

/-- The motion of a needle: its target, level, direction and step timer. -/
def Channel.motion (c : Channel) : Nat × Nat × Direction × Timer := (c.target, c.level, c.direction, c.stepTimer)

/-- The part of a rule that an evaluation leaves alone. -/
def Rule.fixed (r : Rule) : Rule := { r with live := .inactive, condition := false, confirm := none }

/-- The part of the telltale block that a ripple leaves alone. -/
def Telltale.fixed (t : Telltale) : Telltale :=
  { t with rules := Bank.fill 64 Rule.blank, duty := 0, lamps := Bank.fill 32 ⟨false, false⟩ }

/-- The part of the alert block that a ripple leaves alone. -/
def AlertBlock.fixed (b : AlertBlock) : AlertBlock :=
  { b with stack := [], lost := 0, backlog := [], playing := none, chimeTimer := none, tone := false, toneTimer := none }

/-- What delivering slot changes can do: slots that satisfy `ch` may have been written, and events of slots that satisfy `ev` taken.
`deaf`: a channel that takes no events (R48) stays as it is; `still`: only a TRACKING needle is set in motion (R51); `followed`, `reacted`,
`dimmed`, `told`: a slot that changed has reached the channels and the rules that name it, the dimming and the display link (R31); `aside`,
`spared` and the first half of `dimmed`: what names no slot with an event stays as it is. -/
structure Ripple (ch : Nat → Prop) (s t : State) (ev : Nat → Prop := ch) : Prop where
  outside : t.outside = s.outside
  slots : ∀ n, ¬ ch n → t.slot n = s.slot n
  marks : t.table.silentMark = s.table.silentMark ∧ t.table.phaseBMark = s.table.phaseBMark ∧
    t.table.frozenAt = s.table.frozenAt
  channels : ∀ c, (t.channel c).fixed = (s.channel c).fixed
  deaf : ∀ c, (s.channel c).attends = false → t.channel c = s.channel c
  still : ∀ c, (s.channel c).state ≠ .tracking → (t.channel c).motion = (s.channel c).motion
  followed : ∀ c, ChannelHeard (fun n => t.slot n ≠ s.slot n) s t c
  aside : ∀ c, (∀ n, ev n → ¬ Follows (s.channel c) n) → t.channel c = s.channel c
  rules : ∀ i, (t.rule i).fixed = (s.rule i).fixed
  reacted : ∀ i, RuleHeard (fun n => t.slot n ≠ s.slot n) s t i
  spared : ∀ i, (∀ a, (s.rule i).a = some a → ¬ ev a.slot) → t.rule i = s.rule i
  dimmed : DimmingHeard ev s t
  telltale : t.telltale.fixed = s.telltale.fixed
  alert : t.alert.fixed = s.alert.fixed
  stack : StackOk s.alert.stack → StackOk t.alert.stack
  asleep : s.ign.power = .sleep → s.alert.stack = [] → t.alert.stack = []
  told : LinkTold s t
  flags : ∀ f : EventFlag, f.inWord s.mgmt.flags = true → f.inWord t.mgmt.flags = true
  sent : ∃ frames, t.intake.transmit = s.intake.transmit ++ frames
  room : s.intake.transmit.length ≤ transmitRoom → t.intake.transmit.length ≤ transmitRoom

/-- The slots that the tachograph block and the alert block write while an event is delivered: 4 to 9 and 13. -/
def onlyTacho (n : Nat) : Prop := n = 13 ∨ (4 ≤ n ∧ n ≤ 9)

/-- What rule `i` sends the alert block at an event of slot `n` (R75, R77, R78): in WAKING and RUN its push where it becomes ACTIVE at
once, its release where it leaves ACTIVE. -/
def ruleSends (s : State) (n i : Nat) : List AlertAction :=
  match (s.rule i).life, (s.rule i).a, (s.rule i).c, (s.rule i).d with
  | .live, some a, some c, some { alert := some (code, severity) } =>
    if a.slot = n ∧ (s.ign.power = .waking ∨ s.ign.power = .run) then
      if (s.rule i).live = .inactive ∧ (s.rule i).condition = false ∧
          (s.rule i).judge (s.rule i).condition (s.slot n) = true ∧ c.confirmTime = 0 then
        [.push code severity (.rule i)]
      else if (s.rule i).live = .active ∧ (s.rule i).condition = true ∧
          (s.rule i).judge (s.rule i).condition (s.slot n) = false then
        [.release code (.rule i)]
      else []
    else []
  | _, _, _, _ => []

/-- The gauges, the rules and the dimming have taken an event of slot `n`, whose record stands in `b`, which leaves `t` (R31): each
channel that follows the slot has evaluated, and each LIVE rule that names it, in WAKING and RUN; the dimming has worked its duty out where
the slot is the dimmer's; and then, where a rule names the slot, the alert block has taken in index order what the rules sent, and the lamps
are resolved. That the alert block acts once every rule has evaluated is the model's choice (log 6). -/
def SlotTold (b : State) (n : Nat) (t : State) : Prop :=
  ∃ u : State,
    u =
      { b with
        gauges := u.gauges, telltale.rules := u.telltale.rules, telltale.duty := u.telltale.duty, display := u.display } ∧
    (∀ c, c < 8 → curveAscends (b.channel c).live.curve = true → Follows (b.channel c) n →
      Evaluated b (b.channel c) true (u.channel c)) ∧
    (∀ c, c < 8 → ¬ Follows (b.channel c) n → u.channel c = b.channel c) ∧
    (∀ i, i < 64 →
      (∀ a, RulesRun b → (b.rule i).life = .live → (b.rule i).a = some a → a.slot = n →
        u.rule i = ruleAfter b.clock (b.rule i) (b.slot n)) ∧
      (¬ RulesRun b ∨ (b.rule i).life ≠ .live ∨ (∀ a, (b.rule i).a = some a → a.slot ≠ n) → u.rule i = b.rule i)) ∧
    (b.param 4 = n → DutyIs b u.telltale.duty) ∧
    (b.param 4 ≠ n → u.telltale.duty = b.telltale.duty ∧ u.display = b.display) ∧ LinkTold b u ∧
    ((∀ i a, i < 64 → (b.rule i).life = .live → (b.rule i).a = some a → a.slot ≠ n) → t = u) ∧
    (∀ i a, i < 64 → (b.rule i).life = .live → (b.rule i).a = some a → a.slot = n →
      t = (u.send ((List.range 64).flatMap (ruleSends b n))).settleLamps) ∧
    Ripple (· = 13) b t (fun m => m = n ∨ m = 13)

/-- Each LIVE rule that names one of the slots has evaluated, once, the slot's record as it stands in `t` (R75, R78). -/
def RulesFollow (slots : List Nat) (s t : State) : Prop :=
  ∀ i a, RulesRun s → (s.rule i).life = .live → (s.rule i).a = some a → a.slot ∈ slots →
    t.rule i = ruleAfter s.clock (s.rule i) (t.slot a.slot)

end Machine

/-! ### The frames and the payload of a card transfer (R137, R140, R141, R194, R195) -/

/-- The two bytes of a field of the payload, the first least significant (DEDUCED, log 15). -/
def pairOf (v : Nat) : List Byte := [BitVec.ofNat 8 (v % 256), BitVec.ofNat 8 (v / 256)]

/-- The payload `p` of `total` bytes is that of the card summary `m` (R141, R195): its fields in order, each in its range, and its length
25 bytes, plus 2 for each driving time present, plus the name's length. -/
def SummaryLayout (total : Nat) (p : List Byte) (m : Summary) : Prop :=
  ∃ presence : Byte,
    p =
      [1] ++ m.card ++ pairOf m.year ++ [BitVec.ofNat 8 m.month, BitVec.ofNat 8 m.day] ++ pairOf m.contDrive ++ [presence] ++
        (match m.daily with
          | none => []
          | some v => pairOf v) ++
        (match m.weekly with
          | none => []
          | some v => pairOf v) ++
        [BitVec.ofNat 8 m.name.length] ++ m.name ∧
    total = 25 + (if m.daily = none then 0 else 2) + (if m.weekly = none then 0 else 2) + m.name.length ∧
    m.card.length = 16 ∧ (∀ b ∈ m.card ++ m.name, 0x20 ≤ b.toNat ∧ b.toNat ≤ 0x7E) ∧ m.year < 65536 ∧
    1 ≤ m.month ∧ m.month ≤ 12 ∧ 1 ≤ m.day ∧ m.day ≤ 31 ∧ m.contDrive ≤ 1439 ∧ m.name.length ≤ 20 ∧
    presence.getLsbD 0 = m.daily.isSome ∧ presence.getLsbD 1 = m.weekly.isSome ∧ (∀ v, m.daily = some v → v ≤ 1440) ∧
    ∀ v, m.weekly = some v → v ≤ 10080

/-- What a record on TACHO_XFER_ID holds for driver `d` (R194): the kind in bits 4 to 7 of byte 0 and the driver in bits 0 to 3, its bytes,
and the least data length of the kind. -/
def XferLayout (r : FrameRecord) (d : Driver) : Prop :=
  (∀ total, readXfer r = some (.opening d total) ↔ 2 ≤ r.data.length ∧ r.byte 0 = 0x10 + d.number ∧ total = r.byte 1) ∧
  (∀ number bytes, readXfer r = some (.data d number bytes) ↔
    8 ≤ r.data.length ∧ r.byte 0 = 0x20 + d.number ∧ number = r.byte 1 ∧ bytes = (r.data.drop 2).take 6) ∧
  (∀ crc, readXfer r = some (.closing d crc) ↔
    3 ≤ r.data.length ∧ r.byte 0 = 0x30 + d.number ∧ crc = BitVec.ofNat 16 (256 * r.byte 1 + r.byte 2)) ∧
  (readXfer r = some (.aborting d) ↔ 1 ≤ r.data.length ∧ r.byte 0 = 0x40 + d.number)

/-- One shift of the CRC register: a 1 shifted out combines it with the polynomial 0x1021 (R140). -/
def crcShift (x : BitVec 16) : BitVec 16 := if x.getLsbD 15 then (x <<< 1) ^^^ 0x1021 else x <<< 1

/-- A frame that the transfer in flight does not take (R137): none is in flight, or it names another driver, except an OPEN in
REQUESTED. -/
def StrayTo (t : Transfer) (f : XferFrame) : Prop :=
  t = .idle ∨
    (t.driver ≠ some f.driver ∧ ((∀ d attempt, t ≠ .requested d attempt) ∨ ∀ d total, f ≠ .opening d total))

/-! ### The end of a card transfer (R136, R142) -/

/-- The SUMMARY request frame for driver `d` (R136, R194). -/
def summaryFrame (s : State) (d : Driver) : TxFrame :=
  { identifier := s.tachoReqId, data := [BitVec.ofNat 8 (0x80 + d.number)] }

/-- The frame `f` has been offered to the transmit queue on the way from `s` to `t` (R9): it stands behind what `s` has in the queue and
the frames `before`, unless these fill it. -/
def Offered (s : State) (f : TxFrame) (t : State) : Prop :=
  ∃ a before behind, Ripple onlyTacho s a ∧ Ripple onlyTacho (a.offer f) t ∧
    a.intake.transmit = s.intake.transmit ++ before ∧
    t.intake.transmit =
      s.intake.transmit ++ before ++ (if (s.intake.transmit ++ before).length < 8 then [f] else []) ++ behind

/-- What follows the end of a transfer (R136): the head of the readout queue `q` starts in WAKING and RUN, with its SUMMARY request. -/
def NextTransfer (s : State) (q : List Readout) (t : State) : Prop :=
  match q with
  | e :: rest =>
    if s.ign.power = .waking ∨ s.ign.power = .run then
      t.tacho.transfer = .requested e.driver e.attempt ∧ t.tacho.readout = rest ∧
        t.tacho.transferTimer = some (s.clock + 1000000) ∧ (t.slot (summarySlot e.driver)).value = 1 ∧
        Offered s (summaryFrame s e.driver) t
    else t.tacho.transfer = .idle ∧ t.tacho.readout = q ∧ t.tacho.transferTimer = none
  | [] => t.tacho.transfer = .idle ∧ t.tacho.readout = [] ∧ t.tacho.transferTimer = none

/-- The alert of driver `d`'s failed readout (R142). -/
def readoutCode (d : Driver) : Nat :=
  match d with
  | .one => 0xF201
  | .two => 0xF202

/-- A transfer of driver `d` has failed (R142): its outcome; a retry behind the queue, or the failed status, its flag and its alert; and
the next transfer. `s` is the state in which it failed. -/
def TransferFails (s : State) (d : Driver) (attempt : Nat) (cause : TransferOutcome) (t : State) : Prop :=
  t.driver d = { s.driver d with outcome := cause } ∧
    (∀ e, e ≠ d → t.driver e = s.driver e) ∧
    t.tacho.stray = s.tacho.stray ∧ t.tacho.minuteTimer = s.tacho.minuteTimer ∧ t.tacho.side = s.tacho.side ∧
    t.tacho.watch = s.tacho.watch ∧ Ripple onlyTacho s t ∧
    (attempt = 1 → (s.driver d).state ≠ .noDriver →
      NextTransfer s (s.tacho.readout ++ [{ driver := d, attempt := 2 }]) t) ∧
    (attempt = 1 → (s.driver d).state ≠ .noDriver → s.ign.power = .waking ∨ s.ign.power = .run →
      ∀ e rest, s.tacho.readout ++ [{ driver := d, attempt := 2 }] = e :: rest →
        Ripple onlyTacho (s.offer (summaryFrame s e.driver)) t) ∧
    (attempt = 1 → (s.driver d).state = .noDriver → NextTransfer s s.tacho.readout t) ∧
    (attempt ≠ 1 →
      NextTransfer s s.tacho.readout t ∧ Flagged t .tachoReadFailed ∧ (t.slot (summarySlot d)).value = 3 ∧
        ∃ u, Ripple onlyTacho s u ∧ Flagged u .tachoReadFailed ∧ (u.slot (summarySlot d)).value = 3 ∧
          Ripple onlyTacho (u.push (readoutCode d) .info (.tacho d.number)) t)

/-! ### Cards (R132 to R134) -/

/-- Everything of the tachograph block but its drivers, its queue and its transfer is as in `s`, and so is the record of every driver
but `d`. -/
def OtherDriverKept (s : State) (d : Driver) (t : State) : Prop :=
  (∀ e, e ≠ d → t.driver e = s.driver e) ∧ t.tacho.minuteTimer = s.tacho.minuteTimer ∧ t.tacho.side = s.tacho.side ∧
    t.tacho.mismatchTimer = s.tacho.mismatchTimer ∧ t.tacho.watch = s.tacho.watch ∧ t.tacho.stray = s.tacho.stray

/-- A readout of driver `d` with attempt 1 has been enqueued (R134): behind the queue, unless the driver stands in it or is in
flight; and on an IDLE transfer record the head's transfer has started (R136). -/
def ReadoutEnqueued (s : State) (d : Driver) (t : State) : Prop :=
  ((∃ e ∈ s.tacho.readout, e.driver = d) ∨ s.tacho.transfer.driver = some d →
    t.tacho.readout = s.tacho.readout ∧ t.tacho.transfer = s.tacho.transfer ∧
      t.tacho.transferTimer = s.tacho.transferTimer) ∧
  ((∀ e ∈ s.tacho.readout, e.driver ≠ d) → s.tacho.transfer.driver ≠ some d →
    (s.tacho.transfer ≠ .idle ∨ (s.ign.power ≠ .waking ∧ s.ign.power ≠ .run) →
      t.tacho.readout = s.tacho.readout ++ [{ driver := d, attempt := 1 }] ∧ t.tacho.transfer = s.tacho.transfer ∧
        t.tacho.transferTimer = s.tacho.transferTimer) ∧
    (s.tacho.transfer = .idle → s.ign.power = .waking ∨ s.ign.power = .run →
      NextTransfer s (s.tacho.readout ++ [{ driver := d, attempt := 1 }]) t))

/-- The card of driver `d` has been inserted (R132): a driver that was absent is ESTIMATING with its counters 0, shown in its
slots; and a readout is enqueued. -/
def CardInserted (s : State) (d : Driver) (t : State) : Prop :=
  ((s.driver d).state ≠ .noDriver → t.driver d = s.driver d) ∧
    ((s.driver d).state = .noDriver →
      t.driver d =
          { s.driver d with
            state := .estimating, contDrive := 0, breakAccum := 0, stretch := 0, sinceReconcile := 0 } ∧
        Shows t (contSlot d) 0 ∧ Shows t (leftSlot d) (s.param 17)) ∧
    OtherDriverKept s d t ∧ ReadoutEnqueued s d t ∧ Ripple onlyTacho s t

/-- The STOP frame for driver `d` (R143, R194). -/
def stopFrame (s : State) (d : Driver) : TxFrame :=
  { identifier := s.tachoReqId, data := [BitVec.ofNat 8 (0x90 + d.number)] }

/-- An abandonment in the state `s` stops a transfer of driver `d` in flight (R143). The retry that the expiry of the driver's own timer has
started at this very moment, and that no frame has reached, is none: the abandonment falls together with the expiry and comes second, and
finds the transfer IDLE (log 34). -/
def stopsTransfer (s : State) (d : Driver) : Bool :=
  match s.tacho.transfer with
  | .idle => false
  | .requested e _ => decide (e = d) && decide (s.tacho.restarted ≠ some s.clock)
  | .receiving e _ _ _ _ _ => decide (e = d)

/-- The card of driver `d` has been withdrawn (R133): its transfer abandoned with a STOP (R143), its queue entry gone, its counters 0, its
summary cleared, its slots written, its readout alert released; and then the head of the queue starts. -/
def CardWithdrawn (s : State) (d : Driver) (t : State) : Prop :=
  t.driver d =
      { state := .noDriver, contDrive := 0, breakAccum := 0, stretch := 0, sinceReconcile := 0, summary := none,
        outcome := if stopsTransfer s d then .stopped else (s.driver d).outcome } ∧
    OtherDriverKept s d t ∧ (t.slot (contSlot d)).value = 0 ∧ (t.slot (leftSlot d)).state = .notAvailable ∧
    (t.slot (leftSlot d)).value = (s.slot (leftSlot d)).value ∧ (t.slot (summarySlot d)).value = 0 ∧
    (s.tacho.transfer.driver = some d ∨ s.tacho.transfer = .idle →
      NextTransfer s (s.tacho.readout.filter (fun e => decide (e.driver ≠ d))) t) ∧
    (s.tacho.transfer.driver ≠ some d → s.tacho.transfer ≠ .idle →
      t.tacho.readout = s.tacho.readout.filter (fun e => decide (e.driver ≠ d)) ∧ t.tacho.transfer = s.tacho.transfer ∧
        t.tacho.transferTimer = s.tacho.transferTimer) ∧
    ∃ u, Ripple onlyTacho (if stopsTransfer s d then s.offer (stopFrame s d) else s) u ∧
      Ripple onlyTacho (u.release (readoutCode d) (.tacho d.number)) t

/-! ### The speed cross-check and the silence watch (R146 to R148) -/

/-- TACHO_SPEED is set and its slot is FRESH with the value `v`. -/
def TachoSpeedIs (s : State) (v : Int) : Prop :=
  ∃ n : Nat, s.param 10 = n ∧ (s.slot n).state = .fresh ∧ (s.slot n).value = v

/-- The mismatch monitor has judged (R146, R147): not checking, it times no side; checking, it times the side found, with a new
timer where that is another side. -/
def SpeedJudged (s t : State) : Prop :=
  ((s.slot 0).state ≠ .fresh ∨ (∀ v, TachoSpeedIs s v → v < 1000) →
    t.tacho.side = .none ∧ t.tacho.mismatchTimer = none) ∧
  (∀ v side, (s.slot 0).state = .fresh → TachoSpeedIs s v → 1000 ≤ v →
    side = (if v * s.param 21 / 100 + 100 < (((s.slot 0).value - v).natAbs : Int) then .outside else .inside) →
    t.tacho.side = side ∧
      t.tacho.mismatchTimer =
        (if side = s.tacho.side then s.tacho.mismatchTimer else some (s.clock + 1000000 * s.paramNat 22)))

/-- The silence watch has judged (R148): while its condition holds its 3000 ms timer runs on or starts, otherwise it stops. -/
def WatchJudged (s t : State) : Prop :=
  ((∃ v, TachoSpeedIs s v ∧ 2000 ≤ v) → s.table.silentMark = false →
    t.tacho.watch = (if s.tacho.watch = none then some (s.clock + 3000000) else s.tacho.watch)) ∧
  (s.table.silentMark = true ∨ (∀ v, TachoSpeedIs s v → v < 2000) → t.tacho.watch = none)

/-! ### The conditions of the controller (R188, R190) -/

/-- The controller does not enter SLEEP yet (R190): the part is not in PARKING, or a channel has not reported PARKED or FAULT. -/
def StaysUp (s : State) : Prop :=
  s.ign.power ≠ .parking ∨ ∃ c, c < 8 ∧ s.ign.reports.get c .none ≠ .parked ∧ s.ign.reports.get c .none ≠ .fault

/-- The RUN condition (R188): WAKING, prove-out ended, and every channel report TRACKING or FAULT. -/
def RunReady (s : State) : Prop :=
  s.ign.power = .waking ∧ s.ign.proveOutRunning = false ∧
    ∀ c, c < 8 → s.ign.reports.get c .none = .tracking ∨ s.ign.reports.get c .none = .fault

/-- The SLEEP condition (R190): PARKING, every channel report PARKED or FAULT, and neither mark set. -/
def SleepReady (s : State) : Prop := ¬ StaysUp s ∧ s.ign.saveMark = false ∧ s.ign.writeMark = false

/-- The entry to RUN from WAKING, out of `s`, has left `t` (R188): slot 15 at 0, the second timer and the minute timer, the page marked
for the display link, and the chime that R104 asks for by the top entry. The power state is RUN before slot 15 is written (log 6). -/
def RunEntered (s t : State) : Prop :=
  ∃ u, Ripple (fun n => n = 13 ∨ n = 15)
      { s with
        ign.power := .run, ign.secondTimer := some (s.clock + 1000000),
        tacho.minuteTimer := some (s.clock + 60000000) } u ∧
    Shows u 15 0 ∧ u.tacho = { s.tacho with minuteTimer := some (s.clock + 60000000) } ∧
    (s.watched 15 = false → u.alert = s.alert) ∧
    t = { u with alert := t.alert, display := t.display } ∧
    (s.display.link ≠ .off → t.display.dirty.pageSelect = true) ∧
    (u.alert.stack = [] → t.alert = u.alert) ∧
    ∀ e below, u.alert.stack = e :: below →
      t.alert =
        (u.chimeRequest
          (match e.severity with
            | .info => .info
            | .caution => .caution
            | .stop => if e.held then .stop else .caution)).alert

/-- SLEEP entry out of `s` has left `t` (R190): HOLD released, the ports and the link off, the queues, the build slot and the Alert Stack
empty, a save in flight cut short, the needles and the slots held as they are. -/
def SleepEntered (s t : State) : Prop :=
  t.clock = s.clock ∧ t.ign.power = .sleep ∧ t.ign.hold = false ∧ t.ign.parkingTimer = none ∧ t.ign.secondTimer = none ∧
    t.portT.on = false ∧ t.portL.on = false ∧ t.display.link = .off ∧ t.intake.queue = [] ∧ t.intake.transmit = [] ∧
    t.intake.build = none ∧ t.intake.routes = s.intake.routes ∧ t.alert.stack = [] ∧ t.alert.playing = none ∧
    t.tacho.readout = [] ∧ t.tacho.transfer = .idle ∧ t.table.slots = s.table.slots ∧ t.table.frozenAt = some s.clock ∧
    t.store.save = none ∧ t.store.config = (if s.store.save = none then s.store.config else .bad) ∧
    t.gauges = s.gauges.map Channel.sleep

/-- The controller has judged both conditions in `s` (R188, R190), which leaves `t`. -/
def Judged (s t : State) : Prop :=
  (RunReady s → RunEntered s t) ∧ (SleepReady s → SleepEntered s t) ∧ (¬ RunReady s → ¬ SleepReady s → t = s)

end Sys2Proof
end

