-- ==== Sys2Proof/Certificates/Slice0/Obligations.lean ====
section
/-! DEFINITION. The statements for the provers. `ch` in a `Ripple ch s t` names the slots that may have been written; a fourth
argument, where one stands, names the slots that may have had an event. -/

open Sys2Proof Sys2Proof.Machine

/-! ### The machine as a whole -/

/-- A step takes the command at the front of the queue and runs it on the state with the queue's rest. -/
def Obligations.StepRunsFront : Prop :=
  ∀ (c : Instr) (rest : List Instr) (s : State),
    step { s with pending := c :: rest } = exec c { s with pending := rest }

/-- The model's choice (log 1): on an empty queue with nothing on its way, due or overdue one microsecond passes; and what is
due runs as its command. -/
def Obligations.EmptyQueueStep : Prop :=
  ∀ s : State, s.pending = [] → s.alert.backlog = [] →
    (∀ c, s.dueNow = some c → step s = exec c s) ∧
      (s.dueNow = none → s.saveOverdue = false → step s = .next { s with clock := s.clock + 1 })

/-- A port after power-on (R5, R6): off, ACTIVE, every count 0 (its lost mark clear: the model's choice, log 9). -/
def portAtReset : PortBlock :=
  { on := false, state := .active, txErrors := 0, rxErrors := 0, silence := none, recovery := none, lost := false,
    awaiting := false, received := 0, unrouted := 0, queueDrop := 0, stdDiscard := 0, foreignMgmt := 0, txDrop := 0 }

/-- The factory record (R45): slot 0, no fallback, full scale 1, rest 0, REST, no delay, no dead band, 2000 µs at every level. -/
def factorySettings : GaugeSettings :=
  { source := 0, fallback := none, fullScale := 1, rest := 0, policy := .rest, restDelay := 0, deadBand := 0,
    intervals := Bank.fill 8 2000 }

/-- A driver after power-on (R149): NO_DRIVER, counters 0, no outcome, no summary. -/
def driverAtReset : DriverRecord :=
  { state := .noDriver, contDrive := 0, breakAccum := 0, stretch := 0, sinceReconcile := 0, outcome := .none,
    summary := none }

/-- After power-on the part is in SLEEP with every block at its power-on value; what the rules leave open of it (the levels outside,
blank stores, a port's lost mark) is the model's choice (log 9). -/
def Obligations.ResetValues : Prop :=
  State.reset.ign =
      { power := .sleep, hold := false, level := false, timer := none, reports := Bank.fill 8 .none,
        proveOutRunning := false, saveMark := false, writeMark := false, parkingTimer := none, runSeconds := 0,
        secondTimer := none } ∧
    State.reset.portT = portAtReset ∧ State.reset.portL = portAtReset ∧
    State.reset.intake = { queue := [], transmit := [], routes := [], build := none } ∧
    (∀ n, n < 96 → State.reset.slot n =
      { value := 0, state := .never, stamp := 0, timeout := none, writer := if n < 16 then .part else .none }) ∧
    State.reset.table.silentMark = false ∧ State.reset.table.phaseBMark = false ∧ State.reset.table.frozenAt = none ∧
    (∀ c, c < 8 →
      State.reset.channel c =
        { live := { settings := factorySettings, curve := [⟨0, 0⟩, ⟨1, 0⟩] },
          staged := { settings := factorySettings, points := (Bank.fill 8 ⟨0, 0⟩).put 1 ⟨1, 0⟩ }, state := .unhomed,
          position := 0, target := 0, pending := none, level := 0, direction := .none, driveIndex := 0,
          homingLeft := 0, stepTimer := none, restTimer := none, restMark := false, parkMark := false,
          cause := none }) ∧
    State.reset.telltale =
      { rules := Bank.fill 64
          { life := .free, live := .inactive, a := none, b := none, c := none, d := none, condition := false,
            confirm := none, releaseOwed := false },
        phase := 0, phaseTimer := none, proveOut := none, duty := 100, lamps := Bank.fill 32 ⟨false, false⟩ } ∧
    State.reset.alert =
      { stack := [], lost := 0, backlog := [], playing := none, chimeTimer := none, tone := false, toneTimer := none,
        ackArmed := true, ackHold := none, ackRelease := none } ∧
    State.reset.dist =
      { spaLevel := false, spbLevel := false, spaTimer := none, spbTimer := none, filterReject := 0, reverse := false,
        phaseB := 0, ring := [], lastPulse := none, zeroTimer := none, accumulator := 0, liveOdo := 0, storedOdo := 0,
        kFactor := 8000, history := [], sealed := false } ∧
    State.reset.tacho =
      { d1 := driverAtReset, d2 := driverAtReset, readout := [], transfer := .idle, transferTimer := none,
        restarted := none, minuteTimer := none, side := .none, mismatchTimer := none, watch := none, stray := 0 } ∧
    State.reset.display =
      { link := .off, page := 0, dirty := ⟨false, false, false, false, false, false⟩, readyTimer := none,
        retryTimer := none, startTimer := none, sending := none, doneTimer := none, csFree := 0, sent := 0,
        readyTimeout := 0, pageArmed := true, pagePress := none, pageKnown := false, pageRelease := none } ∧
    State.reset.mgmt.flags = 0 ∧ State.reset.mgmt.mask = 0 ∧ State.reset.mgmt.restart = none ∧
    State.reset.mgmt.held.items =
      [250, 250, 1000, 3000, -1, 10, 16, 0, 20, 2000, -1, -1, -1, -1, -1, -1, -1, 270, 45, 15, 10, 3, 10,
       0x1B7A0010, 0x1B7A0011, 0x1B7A0020, 0x1B7A0021] ∧
    State.reset.mgmt.inEffect = State.reset.mgmt.held ∧
    State.reset.store =
      { config := .blank, report := true, save := none, saveLimit := none, saveCut := false, calibration := .blank,
        write := .idle, writeTimer := none } ∧
    State.reset.clock = 0 ∧ State.reset.powered = true ∧ State.reset.pins = ⟨false, false, false, false, false, false⟩ ∧
    State.reset.fresh = 0 ∧ State.reset.pending = []

/-- The invariants below hold right after reset. -/
def Obligations.InvariantsAtReset : Prop :=
  QueuesOk State.reset ∧ AlertsOk State.reset ∧ RoutesOk State.reset ∧ SlotsOk State.reset ∧
    DistanceOk State.reset.dist ∧ ReadoutOk State.reset.tacho ∧ CodesOk State.reset ∧ PowerOk State.reset ∧
    LinkOk State.reset ∧ ParamsOk State.reset.mgmt ∧ RecordsOk State.reset

/-! ### Invariants that every step keeps -/

/-- No queue ever holds more than it has room for. -/
def Obligations.QueuesKept : Prop := ∀ s t : State, QueuesOk s → step s = .next t → QueuesOk t

/-- The Alert Stack holds at most 16 entries with different codes, and none in SLEEP. -/
def Obligations.AlertsKept : Prop := ∀ s t : State, AlertsOk s → step s = .next t → AlertsOk t

/-- The Route Table stays in strictly ascending key order with at most 128 entries, and a build can always be installed. -/
def Obligations.RoutesKept : Prop := ∀ s t : State, RoutesOk s → step s = .next t → RoutesOk t

/-- No frame slot becomes the destination of two extractors. -/
def Obligations.SlotsKept : Prop := ∀ s t : State, SlotsOk s → step s = .next t → SlotsOk t

/-- The accumulator stays below the k-factor, which is the newest of the history, and the stored odometer never passes the
live one. -/
def Obligations.DistanceKept : Prop := ∀ s t : State, DistanceOk s.dist → step s = .next t → DistanceOk t.dist

/-- No driver is twice in the readout queue, or in it and in flight. -/
def Obligations.ReadoutKept : Prop := ∀ s t : State, ReadoutOk s.tacho → step s = .next t → ReadoutOk t.tacho

/-- No two rules in EDITING or LIVE come to hold the same alert code. -/
def Obligations.CodesKept : Prop := ∀ s t : State, CodesOk s → step s = .next t → CodesOk t

/-- HOLD is asserted in PARKING alone, and the ports are off in SLEEP alone. -/
def Obligations.PowerKept : Prop := ∀ s t : State, PowerOk s → step s = .next t → PowerOk t

/-- The display link is OFF in SLEEP alone, and none of its timers runs there. -/
def Obligations.LinkKept : Prop := ∀ s t : State, LinkOk s → step s = .next t → LinkOk t

/-- Every parameter stays in its range and in its relations to the others. -/
def Obligations.ParamsKept : Prop := ∀ s t : State, ParamsOk s.mgmt → step s = .next t → ParamsOk t.mgmt

/-- Every gauge record stays within its ranges and passes the checks of a commit. -/
def Obligations.RecordsKept : Prop := ∀ s t : State, RecordsOk s → step s = .next t → RecordsOk t

/-! ### Management -/

/-- The power state with the SAVING mark in bit 7, as byte 3 of a response and byte 6 of a notice hold them. -/
def statusBits (s : State) : Nat :=
  (match s.ign.power with
    | .run => 1
    | .parking => 2
    | .waking => 0
    | .sleep => 0) + if s.store.save = none then 0 else 128

/-- A response has eight bytes on MGMT_RSP_ID: the code with its high bit set (0x80 for 0x7F and 0xFF), the tag, the result,
the power state with the SAVING mark in bit 7, and four data bytes, 0 where the request gives none. -/
def Obligations.ResponseLayout : Prop :=
  ∀ (s : State) (r : FrameRecord) (result : ResultCode) (d : List Byte), d.length ≤ 4 →
    (s.response r result d).identifier = s.mgmtRspId ∧
      (s.response r result d).data =
        [BitVec.ofNat 8 (if r.byte 0 = 0x7F ∨ r.byte 0 = 0xFF then 0x80 else r.byte 0 % 128 + 128),
          BitVec.ofNat 8 (r.byte 1), BitVec.ofNat 8 result.code, BitVec.ofNat 8 (statusBits s),
          d.getD 0 0, d.getD 1 0, d.getD 2 0, d.getD 3 0]

/-- The EVENT_NOTICE of the flags `w` with the mask of `s` (R171, section 12.1). -/
def noticeFrame (s : State) (w : BitVec 12) : TxFrame :=
  { identifier := s.mgmtRspId,
    data :=
      [0xFF, 0, BitVec.ofNat 8 (w.toNat % 256), BitVec.ofNat 8 (w.toNat / 256), BitVec.ofNat 8 (s.mgmt.mask.toNat % 256),
        BitVec.ofNat 8 (s.mgmt.mask.toNat / 256), BitVec.ofNat 8 (statusBits s), 0] }

/-- READ_EVENTS returns the flags and the mask and clears the flags but CONFIG_INVALID of an invalid configuration;
SET_NOTICE_MASK returns the old mask and takes a new one that names flags alone. The flags stand in the word from bit 0 in the order of
R168. A flag that rises and is masked offers one notice with the flags and the mask as they then stand; one that is not masked, or that
was set, offers none. -/
def Obligations.EventRequests : Prop :=
  (∀ w : BitVec 12,
    [EventFlag.intakeOverflow, .busOffT, .busOffL, .configInvalid, .saveDone, .saveFailed, .alertLost, .lampFault, .gaugeFault,
        .sensorFault, .tachoReadFailed, .buildAbandoned].map (fun f => f.inWord w) =
      (List.range 12).map (fun n => w.getLsbD n)) ∧
  (∀ (s : State) (f : EventFlag),
    (Flagged s f → s.raise f = s) ∧
    (¬ Flagged s f →
      ∃ w : BitVec 12, (∀ g : EventFlag, g.inWord w = (g.inWord s.mgmt.flags || decide (g = f))) ∧
        (f.inWord s.mgmt.mask = false → s.raise f = { s with mgmt.flags := w }) ∧
        (f.inWord s.mgmt.mask = true →
          s.raise f =
            if s.intake.transmit.length < 8 then
              { s with mgmt.flags := w, intake.transmit := s.intake.transmit ++ [noticeFrame s w] }
            else { s with mgmt.flags := w, portT.txDrop := min (s.portT.txDrop + 1) 65535 }))) ∧
  ∀ (s : State) (r : FrameRecord) (rest : List FrameRecord),
    (Asked 0x01 s r rest →
      ∃ t, exec .readEvents s = .next t ∧
        t = { answered s r rest .ok (u16 s.mgmt.flags.toNat ++ u16 s.mgmt.mask.toNat) with mgmt.flags := t.mgmt.flags } ∧
        ∀ f : EventFlag, f.inWord t.mgmt.flags =
          (f.inWord s.mgmt.flags && decide (f = .configInvalid) && !s.store.report)) ∧
    (Asked 0x02 s r rest →
      exec .setNoticeMask s = .next
        (if r.word 2 < 4096 then
          { answered s r rest .ok (u16 s.mgmt.mask.toNat) with mgmt.mask := BitVec.ofNat 12 (r.word 2) }
         else answered s r rest .badArg []))

/-- READ_COUNTERS answers each selector with its counts, and GET_PARAM the held value or the value in effect, which differ for a
deferred parameter alone; neither changes anything. -/
def Obligations.ManagementReads : Prop :=
  (∀ (s : State) (r : FrameRecord) (rest : List FrameRecord), Asked 0x03 s r rest →
     exec .readCounters s = .next
       (match r.byte 2 with
        | 0 => answered s r rest .ok (u16 s.portT.received ++ u16 s.portT.unrouted)
        | 1 => answered s r rest .ok (u16 s.portT.queueDrop ++ u16 s.portT.stdDiscard)
        | 2 => answered s r rest .ok (u8 s.portT.state.code ++ u16 s.portT.txErrors ++ u8 s.portT.rxErrors)
        | 3 => answered s r rest .ok (u16 s.portT.txDrop ++ u8 rest.length ++ u8 s.intake.transmit.length)
        | 4 => answered s r rest .ok (u16 s.portL.received ++ u16 s.portL.unrouted)
        | 5 => answered s r rest .ok (u16 s.portL.queueDrop ++ u16 s.portL.stdDiscard)
        | 6 => answered s r rest .ok (u8 s.portL.state.code ++ u16 s.portL.txErrors ++ u8 s.portL.rxErrors)
        | 7 => answered s r rest .ok (u16 s.portL.foreignMgmt ++ u16 s.dist.filterReject)
        | 8 => answered s r rest .ok (u16 s.tacho.stray)
        | _ => answered s r rest .badArg [])) ∧
  (∀ (s : State) (r : FrameRecord) (rest : List FrameRecord), Asked 0x05 s r rest →
     exec .getParam s = .next
       (if 26 < r.byte 2 ∨ 1 < r.byte 3 then answered s r rest .badArg []
        else if r.byte 3 = 0 then answered s r rest .ok (s32 (s.mgmt.held.get (r.byte 2) 0))
        else if r.byte 2 ∈ [0, 1, 3, 7, 8, 23, 24, 25, 26] then
          answered s r rest .ok (s32 (s.mgmt.inEffect.get (r.byte 2) 0))
        else answered s r rest .ok (s32 (s.mgmt.held.get (r.byte 2) 0))))

/-- SET_PARAM refuses an id above 26, a value out of range and a broken relation; otherwise it answers with the value it
replaces and holds the new one, and the blocks follow at once: the dimming works its duty out again (R84); the cross-check and
the silence watch judge again, a card field's driver is withdrawn if present and inserted if its new slot holds FRESH 1 (R126);
DRIVE_LEFT of the present drivers follows the new limit (R127). No other change does anything else at once. -/
def Obligations.SetParam : Prop :=
  ∀ (s : State) (r : FrameRecord) (rest : List FrameRecord), Asked 0x04 s r rest → ¬ Saving s →
    (26 < r.byte 2 ∨ paramInRange (r.byte 2) (r.signedLong 3) = false ∨
        paramRelates s.mgmt.held (r.byte 2) (r.signedLong 3) = false →
      exec .setParam s = .next (answered s r rest .badArg [])) ∧
    (r.byte 2 ≤ 26 → paramInRange (r.byte 2) (r.signedLong 3) = true →
      paramRelates s.mgmt.held (r.byte 2) (r.signedLong 3) = true → ReadoutOk s.tacho →
      ∃ b t, exec .setParam s = .next t ∧
        b = { answered s r rest .ok (s32 (s.held (r.byte 2))) with
              mgmt.held := s.mgmt.held.put (r.byte 2) (r.signedLong 3) } ∧
        t.held (r.byte 2) = r.signedLong 3 ∧ (∀ id, id ≠ r.byte 2 → t.held id = s.held id) ∧
        t.mgmt.inEffect = s.mgmt.inEffect ∧
        Ripple onlyTacho b t (fun n => onlyTacho n ∨ ((r.byte 2 = 4 ∨ r.byte 2 = 5) ∧ b.param 4 = n)) ∧
        (r.byte 2 ∉ [4, 5, 10, 13, 14, 17] → t = b) ∧
        (r.byte 2 = 4 ∨ r.byte 2 = 5 →
          DutyIs t t.telltale.duty ∧
            t = { b with telltale.duty := t.telltale.duty, display := t.display }) ∧
        (r.byte 2 = 10 →
          SpeedJudged b t ∧ WatchJudged b t ∧
            t =
              { b with
                tacho.side := t.tacho.side, tacho.mismatchTimer := t.tacho.mismatchTimer,
                tacho.watch := t.tacho.watch }) ∧
        (∀ d : Driver, r.byte 2 = cardParam d →
          ∃ u, ((s.driver d).state = .noDriver → u = b) ∧
            ((s.driver d).state ≠ .noDriver → CardWithdrawn b d u) ∧
            ((∀ n : Nat, r.signedLong 3 = n → ¬ Shows s n 1) → t = u) ∧
            (∀ n : Nat, r.signedLong 3 = n → Shows s n 1 → CardInserted u d t)) ∧
        (r.byte 2 = 17 →
          t.tacho = s.tacho ∧
          ∀ d : Driver,
            ((s.driver d).state ≠ .noDriver →
              (t.slot (leftSlot d)).value = r.signedLong 3 - (s.driver d).contDrive) ∧
            ((s.driver d).state = .noDriver ∨
                (s.slot (leftSlot d)).value = r.signedLong 3 - (s.driver d).contDrive →
              t.slot (leftSlot d) = s.slot (leftSlot d))))

/-- The state after power-on with IGN low (R192): every block as `Obligations.ResetValues` has it, with the levels outside, the clock, the
commands waiting, the free values used and what the stores hold as in `s`. A button held is not in its released state (log 9). -/
def powerOnFrom (s : State) : State :=
  { State.reset with
    clock := s.clock, pins := s.pins, pending := s.pending, fresh := s.fresh, alert.ackArmed := !s.pins.ack,
    display.pageArmed := !s.pins.page, store.config := s.store.config, store.calibration := s.store.calibration }

/-- The slots of the first writes of R39, with slot 13. -/
def firstSlots : List Nat := [1, 2, 4, 5, 6, 7, 8, 9, 12, 13, 14]

/-- What the configuration store gives at a load (R183): its image where it passes, else the empty configuration. -/
def ConfigLoads (contents : StoreContents ConfigImage) (c : ConfigImage) (valid : Bool) : Prop :=
  (∀ image, contents = .image image → image.passes = true → c = image ∧ valid = true) ∧
    ((∀ image, contents = .image image → image.passes = false) →
      valid = false ∧
        c =
          { routes := [], gauges := Bank.fill 8 { settings := factorySettings, curve := [⟨0, 0⟩, ⟨1, 0⟩] }, rules := [],
            params := State.reset.mgmt.held })

/-- What the calibration store gives at a load (R184): its image where it passes, else the defaults. -/
def CalLoads (contents : StoreContents CalImage) (k : CalImage) : Prop :=
  ∀ good : CalImage → Prop,
    (∀ i, good i ↔
      2000 ≤ i.kFactor ∧ i.kFactor ≤ 64000 ∧ i.history.length ≤ 8 ∧
        (∀ e ∈ i.history, 2000 ≤ e.oldK ∧ e.oldK ≤ 64000 ∧ 2000 ≤ e.newK ∧ e.newK ≤ 64000) ∧
        (i.history = [] → i.kFactor = 8000) ∧ ∀ e, i.history.getLast? = some e → i.kFactor = e.newK) →
    (∀ i, contents = .image i → good i → k = i) ∧
      ((∀ i, contents = .image i → ¬ good i) → k = { kFactor := 8000, history := [], sealed := false, odometer := 0 })

/-- A channel at WAKING entry with the live record `l` (R45, R54), which was `old` before. -/
def homingChannel (now : Nat) (old : Channel) (l : LiveRecord) : Channel :=
  { live := l, staged := l.toStaged, state := .homing, position := old.position, target := l.settings.rest,
    pending := none, level := 0, direction := .down, driveIndex := old.position % 48,
    homingLeft := l.settings.fullScale + 64, stepTimer := some (now + l.settings.intervals.get 4 0), restTimer := none,
    restMark := false, parkMark := false, cause := none }

/-- A port at its turn-on (R4, R6). -/
def portTurnedOn (silence : Timer) : PortBlock := { portAtReset with on := true, awaiting := true, silence := silence }

/-- A rule evaluates the record `rec` from condition false and INACTIVE (R75), which leaves it `q`. -/
def FirstEvaluated (r : Rule) (now confirmTime : Nat) (rec : SlotRecord) (q : Rule) : Prop :=
  q.condition = r.judge false rec ∧
    q.live = (if r.judge false rec = false then .inactive else if confirmTime = 0 then .active else .pending) ∧
    q.confirm = (if r.judge false rec = true ∧ 0 < confirmTime then some (now + 100000 * confirmTime) else none)

/-- The blocks at WAKING entry before the first writes (R6, R10, R38, R82, R87, R105, R124, R149, R163, R168, R182 to R185, R188), with
the loaded configuration `c` and calibration `k`. A calibration write still in flight and its follow-on have had their time and stand in the
store before it is loaded: the model's reading, log 11. -/
def WakingBlocks (s b : State) (c : ConfigImage) (valid : Bool) (k : CalImage) : Prop :=
  b =
      { s with
        ign := { s.ign with
          power := .waking, reports := Bank.fill 8 .none, proveOutRunning := decide (0 < c.params.get 3 0), runSeconds := 0,
          writeMark := s.ign.writeMark && decide (s.store.write = .idle),
          timer := if s.pins.ign = s.ign.level then none
            else some (s.clock + if s.pins.ign then 100000 else 500000) },
        portT := portTurnedOn (some (s.clock + 1000 * (c.params.get 2 0).toNat)),
        portL := portTurnedOn (some (s.clock + 1000 * (c.params.get 2 0).toNat)),
        intake :=
          { queue := [], transmit := [], build := none,
            routes := c.routes.map (fun r => { route := r, hits := 0, rejects := 0 }) },
        table := State.reset.table, gauges := b.gauges,
        telltale :=
          { rules := b.telltale.rules, phase := 0, phaseTimer := some (s.clock + 31250), duty := 100,
            lamps := Bank.fill 32 ⟨false, false⟩,
            proveOut := if 0 < c.params.get 3 0 then some (s.clock + 1000 * (c.params.get 3 0).toNat) else none },
        alert := { State.reset.alert with ackArmed := !s.pins.ack },
        dist := { State.reset.dist with
          spaLevel := s.pins.spa, spbLevel := s.pins.spb, zeroTimer := some (s.clock + 1000 * (c.params.get 9 0).toNat),
          liveOdo := k.odometer, storedOdo := k.odometer, kFactor := k.kFactor, history := k.history,
          sealed := k.sealed },
        tacho := State.reset.tacho,
        display := linkChooses
          { State.reset.display with
            link := .idle, dirty := ⟨true, true, true, true, true, true⟩, pageArmed := !s.pins.page,
            csFree := s.display.csFree } s.pins.ready s.clock,
        mgmt := { s.mgmt with flags := b.mgmt.flags, restart := none, held := c.params, inEffect := c.params },
        store := { s.store with
          report := valid, saveCut := false, write := .idle, writeTimer := none, calibration := b.store.calibration } } ∧
    (∀ f : EventFlag, f.inWord b.mgmt.flags = (s.store.saveCut && decide (f = .saveFailed) && f.inWord s.mgmt.flags)) ∧
    b.store.calibration =
      (match s.store.write with
       | .idle => s.store.calibration
       | .writing image => .image image
       | .writingPending _ =>
         .image
           { kFactor := s.dist.kFactor, history := s.dist.history, sealed := s.dist.sealed,
             odometer := s.dist.storedOdo }) ∧
    (∀ n, n < 8 → b.channel n = homingChannel s.clock (s.channel n) (c.gauges.get n LiveRecord.factory)) ∧
    (∀ i, i < 64 → (∀ q ∈ c.rules, q.index ≠ i) → b.rule i = Rule.blank) ∧
    ∀ q ∈ c.rules, b.rule q.index =
      { Rule.blank with life := .live, a := some q.a, b := some q.b, c := some q.c, d := some q.d }

/-- WAKING entry from `s` has left `t` (R188): the stores loaded, every block at its entry, and then the first writes of R39, the rules'
first evaluation and the alert of an invalid configuration, which has no rules to push another. The buttons' released state and the gap
after a transfer are log 9's, a calibration write still in flight log 11's. -/
def WakingEntered (s t : State) : Prop :=
  ∃ c valid k b, ConfigLoads s.store.config c valid ∧ CalLoads b.store.calibration k ∧ WakingBlocks s b c valid k ∧
    Ripple (· ∈ firstSlots) b t (fun _ => True) ∧ t.tacho = State.reset.tacho ∧
    (∀ n, n ∉ firstSlots → t.slot n = State.reset.slot n) ∧
    (∀ n ∈ [1, 4, 6, 8, 9, 12, 14], Shows t n 0) ∧ Shows t 2 (k.odometer / 100 : Nat) ∧
    (∀ n ∈ [5, 7], (t.slot n).state = .notAvailable ∧ (t.slot n).value = 0) ∧ (t.slot 13).state = .fresh ∧
    (∀ n, n < 8 → t.channel n =
      { b.channel n with
        pending := (t.channel n).pending, restTimer := (t.channel n).restTimer, restMark := (t.channel n).restMark }) ∧
    (∀ q ∈ c.rules, q.a.slot ∉ firstSlots →
      FirstEvaluated (b.rule q.index) s.clock q.c.confirmTime (State.reset.slot q.a.slot) (t.rule q.index)) ∧
    (valid = false →
      Flagged t .configInvalid ∧ (t.slot 13).value = 3 ∧
        t.alert.stack =
          [{ code := 0xF001, severity := .stop, origin := .config, held := true, repeats := 0, raisedAt := 0 }])

/-- RESTART is answered OK and held pending for at most 250 ms; RESTART_EXECUTE with no calibration write in flight always brings
the part to its power-on condition: with IGN low every block stands as after power-on, and only the levels outside, the clock, the
commands waiting, the free values used and what the stores hold are kept; with IGN high WAKING entry follows. With a calibration
write in flight it waits. (A button held is not in its released state: log 9. No write is in flight at the WAKING entry that follows, so
log 11 does not show here.) -/
def Obligations.Restart : Prop :=
  (∀ (s : State) (r : FrameRecord) (rest : List FrameRecord), Asked 0x06 s r rest → ¬ Saving s →
    ∃ ahead, exec .restart s = .next
      { answered s r rest .ok [] with mgmt.restart := some { ahead := ahead, limit := s.clock + 250000 } } ∧
      ahead = if s.intake.transmit.length < 8 then s.intake.transmit.length + 1 else 0) ∧
    (∀ (s : State) (p : PendingRestart), s.mgmt.restart = some p → s.store.write = .idle →
      ∃ t, exec .restartExecute s = .next t ∧
        t.clock = max s.clock (if p.ahead = 0 then s.clock else p.limit) ∧ t.pins = s.pins ∧ t.pending = s.pending ∧
        t.mgmt.restart = none ∧ t.intake.queue = [] ∧ t.store.config = s.store.config ∧
        t.store.calibration = s.store.calibration ∧ t.mgmt.mask = 0 ∧
        (s.pins.ign = false →
          t = powerOnFrom { s with clock := max s.clock (if p.ahead = 0 then s.clock else p.limit) }) ∧
        (s.pins.ign = true →
          t.ign.power = .waking ∧
            WakingEntered
              { powerOnFrom { s with clock := max s.clock (if p.ahead = 0 then s.clock else p.limit) } with
                ign.level := true } t)) ∧
    (∀ (s : State) (p : PendingRestart), s.mgmt.restart = some p → s.store.write ≠ .idle →
      exec .restartExecute s = .next s)

/-- The commands that take the record at the head of the intake queue. -/
def headCommands : List Instr :=
  [.routedFrame, .unroutedFrame, .foreignMgmt, .badRequest, .readEvents, .setNoticeMask, .readCounters, .setParam,
   .getParam, .restart, .configSave, .configErase, .routeOpen, .extA, .extB, .extC, .routeDelete, .routeRead, .readSlot,
   .gaugeField, .gaugeCommit, .gaugeRead, .ruleA, .ruleB, .ruleC, .ruleD, .ruleEnable, .ruleClear, .ruleRead,
   .lampRead, .alertAck, .alertRead, .setKfactor, .setOdometer, .sealOdometer, .readCalHistory, .distanceRead,
   .cardRead, .xferOpen, .xferData, .xferClose, .xferAbort, .xferStray, .tachoRead, .displayRead]

/-- CONFIG_SAVE takes the image of the live tables and starts a save of at most 400 ms; CONFIG_ERASE blanks the store and
leaves the live tables and the report. -/
def Obligations.ConfigRequests : Prop :=
  ∀ (s : State) (r : FrameRecord) (rest : List FrameRecord), ¬ Saving s →
    (Asked 0x08 s r rest →
      exec .configSave s = .next
        { answered s r rest .ok [] with
          store.save := some
            { routes := s.intake.routes.map (·.route), gauges := s.gauges.map (·.live),
              rules := (List.range 64).filterMap s.storedRule, params := s.mgmt.held },
          store.saveLimit := some (s.clock + 400000), ign.saveMark := true }) ∧
    (Asked 0x09 s r rest →
      exec .configErase s = .next { answered s r rest .ok [] with store.config := .blank })

/-- A save has ended, which leaves `u` (R179, R180): the store holds the image or is bad, an equal read-back makes the report VALID, the
flag is set, and where the report was INVALID 0xF001 is released with origin CONFIG. -/
def SaveEnded (s : State) (image : ConfigImage) (equal : Bool) (u : State) : Prop :=
  u.store =
      { s.store with
        save := none, saveLimit := none, config := if equal then .image image else .bad,
        report := s.store.report || equal } ∧
    u.ign = { s.ign with saveMark := false } ∧ Flagged u (if equal then .saveDone else .saveFailed) ∧
    (∃ v, Ripple (fun _ => False) { s with store := u.store, ign := u.ign } v ∧ v.alert = s.alert ∧ v.table = s.table ∧
      u.alert = (if equal = true ∧ s.store.report = false then v.release 0xF001 .config else v).alert) ∧
    Ripple (· = 13) { s with store := u.store, ign := u.ign } u

/-- A save that reads back its image makes it the contents of the store, sets SAVE_DONE and makes the report VALID, with the release of
0xF001 where it was INVALID; one that does not leaves the store bad and sets SAVE_FAILED; either way no save is in flight. A calibration
write that completes gives the store its image; the write state is IDLE again, or the follow-on write of the latest values starts with
5 ms. In PARKING with every channel PARKED or FAULT the save or write that ends last lets SLEEP begin. -/
def Obligations.StoreWrites : Prop :=
  (∀ (s : State) (image : ConfigImage) (equal : Bool), s.store.save = some image →
     ∃ u t, exec (.configSaveEnd equal) s = .next t ∧ SaveEnded s image equal u ∧
       (StaysUp s ∨ s.ign.writeMark = true → t = u) ∧
       (¬ StaysUp s → s.ign.writeMark = false →
         t.ign.power = .sleep ∧ t.ign.hold = false ∧ t.store = u.store ∧ t.mgmt.flags = u.mgmt.flags ∧
           t.alert.stack = [])) ∧
  (∀ (s : State) (due : Nat), s.store.writeTimer = some due →
     (∀ image, s.store.write = .writing image →
       (StaysUp s ∨ s.ign.saveMark = true →
         exec .calWriteComplete s = .next
           { s.reach due with
             store.calibration := .image image, store.write := .idle, store.writeTimer := none,
             ign.writeMark := false }) ∧
       (¬ StaysUp s → s.ign.saveMark = false →
         ∃ t, exec .calWriteComplete s = .next t ∧ t.ign.power = .sleep ∧ t.ign.hold = false ∧
           t.store.calibration = .image image ∧ t.store.write = .idle ∧ t.alert.stack = [])) ∧
     (∀ image, s.store.write = .writingPending image →
       exec .calWriteComplete s = .next
         { s.reach due with
           store.calibration := .image image, store.writeTimer := some (max s.clock due + 5000), ign.writeMark := true,
           store.write := .writing
             { kFactor := s.dist.kFactor, history := s.dist.history, sealed := s.dist.sealed,
               odometer := s.dist.storedOdo } }))

/-- The requests that a save in flight refuses, with their codes. -/
def busyRequests : List (Nat × Instr) :=
  [(0x10, .routeOpen), (0x11, .extA), (0x12, .extB), (0x13, .extC), (0x14, .routeDelete), (0x21, .gaugeCommit),
   (0x2C, .ruleEnable), (0x2D, .ruleClear), (0x04, .setParam), (0x06, .restart), (0x08, .configSave),
   (0x09, .configErase)]

/-- While a restart is pending the classifier takes no record; while a save is in flight a request that changes what the
configuration store holds, or that restarts the part, is refused BUSY. -/
def Obligations.RequestsHeldBack : Prop :=
  (∀ (c : Instr) (s : State), c ∈ headCommands → s.mgmt.restart ≠ none → exec c s = .next s) ∧
  (∀ (s : State) (r : FrameRecord) (rest : List FrameRecord) (code : Nat) (c : Instr), (code, c) ∈ busyRequests →
    Asked code s r rest → Saving s → exec c s = .next (answered s r rest .busy []))

/-! ### Supply, ignition and power states -/

/-- POWER_ON starts a part that has no supply: SLEEP with IGN low, WAKING entry with IGN high, the stores as they stand.
SUPPLY_LOSS leaves the stores: a save in flight leaves its store bad, a calibration write in flight completes (its follow-on is lost: the
model's reading, log 11; no write is in flight at the WAKING entry after POWER_ON). -/
def Obligations.SupplyEvents : Prop :=
  ∀ s : State,
    (s.powered = true → exec .powerOn s = .next s) ∧
    (s.powered = false →
      ∃ t, exec .powerOn s = .next t ∧ t.powered = true ∧ t.clock = s.clock ∧ t.pins = s.pins ∧ t.ign.level = s.pins.ign ∧
        t.ign.hold = false ∧ t.ign.power = (if s.pins.ign then .waking else .sleep) ∧ t.intake.queue = [] ∧
        t.mgmt.restart = none ∧ t.store.config = s.store.config ∧ t.store.calibration = s.store.calibration ∧
        (t.portT.on = true ↔ s.pins.ign = true) ∧ (s.pins.ign = false → t = powerOnFrom s) ∧
        (s.pins.ign = true → WakingEntered { powerOnFrom s with ign.level := true } t)) ∧
    (s.powered = false → exec .supplyLoss s = .next s) ∧
    (s.powered = true →
      ∃ t, exec .supplyLoss s = .next t ∧ t.powered = false ∧ t.clock = s.clock ∧ t.pins = s.pins ∧
        t.ign = Ignition.powerOn ∧ t.intake = Intake.empty ∧ t.table = SignalTable.reset ∧ t.alert.stack = [] ∧
        t.mgmt = Management.powerOn ∧ t.store.save = none ∧ t.store.write = .idle ∧
        t.store.config = (if s.store.save = none then s.store.config else .bad) ∧
        t.store.calibration =
          (match s.store.write with
           | .idle => s.store.calibration
           | .writing image => .image image
           | .writingPending image => .image image))

/-- PARKING entry makes of the channel `c` the channel `d` (R58); the target of a needle that parks is 0 from then on (R44, R59). -/
def ChannelParks (now : Nat) (c d : Channel) : Prop :=
  (c.state = .tracking → c.direction = .none → c.position = 0 →
    d = { c with state := .parked, target := 0, pending := none, restTimer := none, restMark := false }) ∧
  (c.state = .tracking → c.direction = .none → c.position ≠ 0 →
    d =
      { c with
        state := .parking, target := 0, pending := none, restTimer := none, restMark := false, direction := .down,
        level := 0, stepTimer := some (now + c.live.settings.intervals.get 0 0) }) ∧
  (c.state = .tracking → c.direction ≠ .none →
    d = { c with state := .parking, target := 0, pending := some 0, restTimer := none, restMark := false }) ∧
  (c.state = .homing → d = { c with parkMark := true, pending := none, restTimer := none, restMark := false }) ∧
  (c.state ≠ .tracking → c.state ≠ .homing → d = c)

/-- The return to RUN makes of the channel `c` the channel `d` (R60). -/
def ChannelReturns (s : State) (c d : Channel) : Prop :=
  (c.state = .parking → Evaluated s { c with state := .tracking } false d) ∧
    (c.state = .parked → Evaluated s { c with state := .tracking, driveIndex := 0 } false d) ∧
    (c.state = .homing → c.parkMark = true → Evaluated s { c with parkMark := false } false d) ∧
    (c.state ≠ .parking → c.state ≠ .parked → c.state ≠ .homing ∨ c.parkMark = false → d = c)

/-- A rule after PARKING entry (R88). -/
def parkedRule (r : Rule) : Rule :=
  if r.life = .live then
    { r with
      live := .inactive, condition := false, confirm := none, releaseOwed := r.releaseOwed || decide (r.live = .active) }
  else r

/-- The return to RUN makes of a LIVE rule `r` with a confirm time the rule `q` (R88's table), on its slot's record. -/
def RuleReturns (now confirmTime : Nat) (rec : SlotRecord) (r q : Rule) : Prop :=
  q.releaseOwed = false ∧
    (r.releaseOwed = true →
      q = { r with
        live := if r.judge false rec then .active else .inactive, condition := r.judge false rec, confirm := none,
        releaseOwed := false }) ∧
    (r.releaseOwed = false → FirstEvaluated r now confirmTime rec q ∧ q.fixed = r.fixed)

/-- What rule `i` sends the alert block at the return to RUN (R88's table). -/
def returnActions (s : State) (i : Nat) : List AlertAction :=
  match (s.rule i).life, (s.rule i).a, (s.rule i).c, (s.rule i).d with
  | .live, some a, some c, some { alert := some (code, severity) } =>
    if (s.rule i).releaseOwed then
      if (s.rule i).judge false (s.slot a.slot) then [] else [.release code (.rule i)]
    else if (s.rule i).judge false (s.slot a.slot) = true ∧ c.confirmTime = 0 then [.push code severity (.rule i)]
    else []
  | _, _, _, _ => []

/-- IGN_CHANGE starts the IGN timer toward 100 ms on a high line and 500 ms on a low one, or stops it on a line back at the
IGN level; IGN_TIMER_EXPIRY gives the level the line's, with WAKING entry, PARKING entry or the return to RUN: what the stores give, the
slots, the needles, the lamp rules, the Alert Stack of an invalid configuration, the chime at PARKING entry and what the rules send at
the return, and a card transfer in flight at PARKING entry. (The needles evaluate on ascending curves, which
`Obligations.RecordsKept` keeps; a channel or a rule that names slot 8, 9 or 13 takes their writes as later events. What a calibration
write still in flight at WAKING entry leaves, its follow-on too, is the model's reading, log 11; the order of the blocks is the model's
choice, log 6; so is what becomes of a transfer that started at this very moment, log 34.) -/
def Obligations.IgnitionEvents : Prop :=
  (∀ (s : State) (high : Bool), s.powered = true → s.pins.ign ≠ high →
    exec (.ignChange high) s = .next
      { s with
        pins.ign := high,
        ign.timer := if high = s.ign.level then none
          else some (s.clock + if high then 100000 else 500000) }) ∧
  (∀ (s : State) (high : Bool), s.powered = false → s.pins.ign ≠ high →
    exec (.ignChange high) s = .next { s with pins.ign := high }) ∧
  (∀ s : State, exec (.ignChange s.pins.ign) s = .next s) ∧
  (∀ (s : State) (due : Nat), s.ign.timer = some due →
    ∃ t, exec .ignTimerExpiry s = .next t ∧ t.clock = max s.clock due ∧ t.pins = s.pins ∧ t.ign.level = s.pins.ign ∧
      (s.ign.power = .sleep → s.pins.ign = true →
        t.ign.power = .waking ∧ t.ign.hold = s.ign.hold ∧ t.portT.on = true ∧ t.portL.on = true ∧
          t.intake.queue = [] ∧ t.intake.build = none ∧ t.display.link ≠ .off ∧ t.mgmt.restart = none ∧
          WakingEntered { s.reach due with ign.level := true, ign.timer := none } t) ∧
      (s.ign.power = .waking ∨ s.ign.power = .run → s.pins.ign = false →
        t.ign.power = .parking ∧ t.ign.hold = true ∧ t.ign.parkingTimer = some (t.clock + 10000000) ∧
          t.ign.secondTimer = none ∧ t.ign.writeMark = true ∧ t.store.write ≠ .idle ∧
          t.dist = { s.dist with storedOdo := s.dist.liveOdo } ∧ t.telltale.proveOut = none ∧
          t.intake.queue = s.intake.queue ∧ t.intake.routes = s.intake.routes ∧ t.portL = s.portL ∧
          (∀ n, ¬ onlyTacho n → t.slot n = s.slot n) ∧
          (∀ c, c < 8 → ChannelParks t.clock (s.channel c) (t.channel c)) ∧ (∀ i, i < 64 → t.rule i = parkedRule (s.rule i)) ∧
          t.tacho.minuteTimer = none ∧ t.tacho.readout = [] ∧ t.tacho.transfer = .idle ∧
          (∀ d, t.driver d =
            { s.driver d with
              outcome := if stopsTransfer { s with clock := t.clock } d then .stopped else (s.driver d).outcome }) ∧
          (∀ d, (t.slot (summarySlot d)).value =
            if (s.slot (summarySlot d)).value = 1 then (if (s.driver d).summary = none then 0 else 2)
            else (s.slot (summarySlot d)).value) ∧
          (s.alert.backlog = [] →
            t.alert.stack = s.alert.stack ∧ t.alert.lost = s.alert.lost ∧ t.alert.playing = none ∧ t.alert.tone = false ∧
            (∀ d, stopsTransfer { s with clock := t.clock } d = true →
              t.intake.transmit = (s.offer (stopFrame s d)).intake.transmit) ∧
            ((∀ d, stopsTransfer { s with clock := t.clock } d = false) →
              t.intake.transmit = s.intake.transmit))) ∧
      (s.ign.power = .parking → s.pins.ign = true →
        t.ign.power = .run ∧ t.ign.hold = false ∧ t.ign.parkingTimer = none ∧
          t.ign.secondTimer = some (t.clock + 1000000) ∧ t.ign.runSeconds = s.ign.runSeconds ∧ t.dist = s.dist ∧
          t.store = s.store ∧ t.intake.queue = s.intake.queue ∧ t.intake.routes = s.intake.routes ∧
          (∀ n, ¬ onlyTacho n → t.slot n = s.slot n) ∧
          (RecordsOk s → ∀ c, c < 8 →
            (∀ n ∈ [8, 9, 13], (s.channel c).live.settings.source ≠ n ∧ (s.channel c).live.settings.fallback ≠ some n) →
            ChannelReturns { s with clock := t.clock } (s.channel c) (t.channel c)) ∧
          (∀ i a c, i < 64 → (s.rule i).life = .live → (s.rule i).live = .inactive → (s.rule i).condition = false →
            (s.rule i).confirm = none → (s.rule i).a = some a → (s.rule i).c = some c → a.slot ∉ [8, 9, 13] →
            RuleReturns t.clock c.confirmTime (s.slot a.slot) (s.rule i) (t.rule i)) ∧
          ((∀ i, i < 64 → (s.rule i).life = .live →
              (s.rule i).live = .inactive ∧ (s.rule i).condition = false ∧ (s.rule i).a ≠ none ∧ (s.rule i).c ≠ none) →
            s.tacho.readout = [] ∨ s.tacho.transfer ≠ .idle →
            ∃ x : State, x.alert = s.alert ∧ x.ign.power = .run ∧ x.table = s.table ∧ x.clock = t.clock ∧ x.mgmt = s.mgmt ∧
              (∀ i, i < 64 → (s.rule i).life ≠ .live → x.rule i = s.rule i) ∧
              (∀ i a c, i < 64 → (s.rule i).life = .live → (s.rule i).confirm = none → (s.rule i).a = some a →
                (s.rule i).c = some c → RuleReturns t.clock c.confirmTime (s.slot a.slot) (s.rule i) (x.rule i)) ∧
              t.alert = (x.send ((List.range 64).flatMap (returnActions s))).alert)))

/-- The second timer counts a second of RUN and writes slot 15; the parking timer brings SLEEP, whatever still holds the
part: the ports and the link off, the queues, the build slot and the Alert Stack empty, a save in flight cut short, the
slots held as they are. -/
def Obligations.PowerTimers : Prop :=
  (∀ (s : State) (due : Nat), s.ign.secondTimer = some due →
    ∃ t, exec .secondTimerExpiry s = .next t ∧ t.ign.runSeconds = min (s.ign.runSeconds + 1) 2147483647 ∧
      Shows t 15 t.ign.runSeconds ∧
      Ripple (fun n => n = 13 ∨ n = 15)
        { s.reach due with
          ign.runSeconds := min (s.ign.runSeconds + 1) 2147483647,
          ign.secondTimer := some (max s.clock due + 1000000) } t) ∧
  ∀ (s : State) (due : Nat), s.ign.parkingTimer = some due →
    ∃ t, exec .parkingTimerExpiry s = .next t ∧ SleepEntered (s.reach due) t

/-! ### Ports and the classifier -/

/-- A valid frame lowers the error counts, restarts the silence timer, writes the OK slot after a turn-on or an expiry (and on port T
after a loss releases NETWORK_LOST, behind the slot's write), and is counted and queued, or discarded by its format; a full queue
drops it with INTAKE_OVERFLOW. TX_FRAME_COMPLETE takes the head off the transmit queue. A port that is off or in BUS_OFF takes
neither. That the OK slot is written before NETWORK_LOST is released is the model's choice, log 6. -/
def Obligations.PortFrames : Prop :=
  (∀ (s : State) (p : Port) (f : BusFrame), (s.port p).on = true → (s.port p).state ≠ .busOff →
    ∃ t u, exec (.validFrameReceived p f) s = .next t ∧
      ((s.port p).awaiting = true → Shows u (okSlot p) 1 ∧ Shows t (okSlot p) 1) ∧
      Ripple (fun n => (s.port p).awaiting = true ∧ (n = okSlot p ∨ n = 13)) (s.setPort p (u.port p)) u ∧
      t.alert =
        (if (s.port p).awaiting = true ∧ (s.port p).lost = true ∧ p = .tractor then u.release 0xF002 .port else u).alert ∧
      ((s.port p).awaiting = false → t.alert = s.alert) ∧
      (f.extended = true ∧ f.remote = false ∧ 32 ≤ s.intake.queue.length → Flagged t .intakeOverflow) ∧
      Ripple (fun n => (s.port p).awaiting = true ∧ (n = okSlot p ∨ n = 13))
        { s.setPort p
            { s.port p with
              txErrors := if p = .trailer then (s.port p).txErrors - 1 else (s.port p).txErrors,
              rxErrors := (s.port p).rxErrors - 1,
              state :=
                if (if p = .trailer then (s.port p).txErrors - 1 else (s.port p).txErrors) < 128 ∧
                    (s.port p).rxErrors - 1 < 128 then .active else .passive,
              silence := some (s.clock + 1000 * s.paramNat 2), awaiting := false, lost := false,
              received :=
                if f.extended = true ∧ f.remote = false then min ((s.port p).received + 1) 65535
                else (s.port p).received,
              stdDiscard :=
                if f.extended = true ∧ f.remote = false then (s.port p).stdDiscard
                else min ((s.port p).stdDiscard + 1) 65535,
              queueDrop :=
                if f.extended = true ∧ f.remote = false ∧ 32 ≤ s.intake.queue.length then
                  min ((s.port p).queueDrop + 1) 65535
                else (s.port p).queueDrop } with
          intake.queue :=
            if f.extended = true ∧ f.remote = false ∧ s.intake.queue.length < 32 then
              s.intake.queue ++ [{ port := p, identifier := f.identifier % 2 ^ 29, data := frameData f }]
            else s.intake.queue } t) ∧
  (∀ (s : State) (p : Port) (f : BusFrame), (s.port p).on = false ∨ (s.port p).state = .busOff →
    exec (.validFrameReceived p f) s = .next s) ∧
  (∀ (s : State) (head : TxFrame) (rest : List TxFrame), s.portT.on = true → s.portT.state ≠ .busOff →
    s.intake.transmit = head :: rest →
    exec .txFrameComplete s = .next
      { s with
        intake.transmit := rest,
        portT.txErrors := s.portT.txErrors - 1,
        portT.state := if s.portT.txErrors - 1 < 128 ∧ s.portT.rxErrors < 128 then .active else .passive,
        mgmt.restart := s.mgmt.restart.map (fun p => { p with ahead := p.ahead - 1 }) }) ∧
  (∀ s : State, s.portT.on = false ∨ s.portT.state = .busOff ∨ s.intake.transmit = [] →
    exec .txFrameComplete s = .next s)

/-- An error while receiving adds 1 to the receive error count, one while sending 8 to the transmit error count, with PASSIVE
from 128 and BUS_OFF at 256; the recovery timer ends BUS_OFF; the silence timer's expiry sets the lost mark, writes the OK slot 0
and on port T pushes NETWORK_LOST. A port that is off or in BUS_OFF counts no error. That the OK slot is written before NETWORK_LOST is
pushed is the model's choice, log 6; that an expiry command first brings the clock to its timer's moment, log 2. -/
def Obligations.PortErrors : Prop :=
  (∀ (s : State) (p : Port), (s.port p).on = true → (s.port p).state ≠ .busOff →
    exec (.rxErrorDetected p) s = .next
      (s.setPort p
        { s.port p with
          rxErrors := min ((s.port p).rxErrors + 1) 255,
          state := if (s.port p).txErrors < 128 ∧ min ((s.port p).rxErrors + 1) 255 < 128 then .active else .passive })) ∧
  (∀ (s : State) (p : Port), (s.port p).on = true → (s.port p).state ≠ .busOff → (s.port p).txErrors + 8 < 256 →
    exec (.txErrorDetected p) s = .next
      (s.setPort p
        { s.port p with
          txErrors := (s.port p).txErrors + 8,
          state := if (s.port p).txErrors + 8 < 128 ∧ (s.port p).rxErrors < 128 then .active else .passive })) ∧
  (∀ (s : State) (p : Port), (s.port p).on = true → (s.port p).state ≠ .busOff → 256 ≤ (s.port p).txErrors + 8 →
    ∃ t, exec (.txErrorDetected p) s = .next t ∧ Flagged t (if p = .tractor then .busOffT else .busOffL) ∧
      Ripple (fun _ => False)
        (s.setPort p
          { s.port p with txErrors := 256, state := .busOff, recovery := some (s.clock + 200000) }) t) ∧
  (∀ (s : State) (p : Port) (due : Nat), (s.port p).recovery = some due →
    exec (.busOffRecoveryExpiry p) s = .next
      ((s.reach due).setPort p { s.port p with state := .active, txErrors := 0, rxErrors := 0, recovery := none })) ∧
  (∀ (s : State) (p : Port) (due : Nat), (s.port p).silence = some due →
    ∃ t u, exec (.silenceTimerExpiry p) s = .next t ∧ Shows t (okSlot p) 0 ∧ Shows u (okSlot p) 0 ∧
      Ripple (fun n => n = okSlot p ∨ n = 13)
        ((s.reach due).setPort p { s.port p with silence := none, lost := true, awaiting := true }) u ∧
      t = (if p = .tractor then u.push 0xF002 .caution .port else u) ∧
      Ripple (fun n => n = okSlot p ∨ n = 13)
        ((s.reach due).setPort p { s.port p with silence := none, lost := true, awaiting := true }) t) ∧
  (∀ (s : State) (p : Port), (s.port p).on = false ∨ (s.port p).state = .busOff →
    exec (.rxErrorDetected p) s = .next s ∧ exec (.txErrorDetected p) s = .next s)

/-- What an extractor makes of a frame's data (R14), by its raw field and raw value (`Obligations.RawField`): the two coded patterns
of a coded field of two bits or more, otherwise the exact product divided toward zero plus the offset, an ERROR outside 32 bits. -/
def Extracts (x : Extractor) (data : List Byte) (w : SlotWrite) : Prop :=
  (x.a.coded = true → 2 ≤ x.a.width → rawField x.a data = 2 ^ x.a.width - 1 → w = .notAvailable) ∧
    (x.a.coded = true → 2 ≤ x.a.width → rawField x.a data = 2 ^ x.a.width - 2 → w = .error) ∧
    (x.a.coded = false ∨ x.a.width < 2 ∨
        (rawField x.a data ≠ 2 ^ x.a.width - 1 ∧ rawField x.a data ≠ 2 ^ x.a.width - 2) →
      ∀ v : Int, v = Int.tdiv (rawValue x.a (rawField x.a data) * x.b.multiplier) x.b.divisor + x.offset →
        (-2147483648 ≤ v → v ≤ 2147483647 → w = .fresh v) ∧ (v < -2147483648 ∨ 2147483647 < v → w = .error))

/-- The record of a slot after an extractor's write (R26): a FRESH write sets the value, any other keeps it. -/
def slotAfter (old : SlotRecord) (w : SlotWrite) (now timeout : Nat) (key : RouteKey) : SlotRecord :=
  { value := (match w with
      | .fresh v => v
      | .notAvailable => old.value
      | .error => old.value),
    state := (match w with
      | .fresh _ => .fresh
      | .notAvailable => .notAvailable
      | .error => .error),
    stamp := now, timeout := some timeout, writer := .route key }

/-- The record `r` at the head reaches route lookup and hits the entry `e` (R8). -/
def Hits (s : State) (r : FrameRecord) (rest : List FrameRecord) (e : RouteEntry) : Prop :=
  AtHead s r rest ∧ s.isMgmt r = false ∧ s.isForeign r = false ∧ s.isXfer r = false ∧
    findRoute s.intake.routes r.key = some e

/-- The record has left the queue and the hit of the entry is counted (R15). -/
def hitCounted (s : State) (rest : List FrameRecord) (e : RouteEntry) : State :=
  { s with
    intake.queue := rest,
    intake.routes := s.intake.routes.map (fun f =>
      if f.route.key = e.route.key then { f with hits := min (f.hits + 1) 65535 } else f) }

/-- The record `r` hits an entry of its length whose one extractor `x` writes a frame slot with `w`. -/
def Lands (s : State) (r : FrameRecord) (rest : List FrameRecord) (e : RouteEntry) (x : Extractor) (w : SlotWrite) : Prop :=
  Hits s r rest e ∧ r.data.length = e.route.length ∧ e.route.extractors = [x] ∧ 16 ≤ x.a.slot ∧ x.a.slot < 96 ∧
    Extracts x r.data w

/-- The state with that hit counted and the slot written, before its consumers take the event (R31). -/
def landed (s : State) (rest : List FrameRecord) (e : RouteEntry) (x : Extractor) (w : SlotWrite) : State :=
  (hitCounted s rest e).putSlot x.a.slot (slotAfter (s.slot x.a.slot) w s.clock e.route.timeout e.route.key)

/-- Of the tachograph fields whose slots it takes events of, only field `id` names slot `n` (R126). -/
def OnlyField (s : State) (id n : Nat) : Prop := s.param id = n ∧ ∀ k ∈ [10, 13, 14, 15, 16], k ≠ id → s.param k ≠ n

/-- A record that hits an entry of its length counts a hit and each extractor in turn writes its slot with what it makes of the data; one
of another length counts a length reject and writes none. At the event of a slot written each LIVE rule that names it evaluates and pushes
or releases its alert, each gauge channel that follows it evaluates, and the dimming works its duty out where it is the dimmer slot; with
one extractor whose slot no tachograph field names, that is all. (The slots of an ACTIVE entry lie in 16–95 and differ:
`Obligations.RoutesKept` and `Obligations.SlotsKept` keep it.) -/
def Obligations.RoutedFrame : Prop :=
  ∀ (s : State) (r : FrameRecord) (rest : List FrameRecord) (e : RouteEntry), Hits s r rest e →
    (r.data.length ≠ e.route.length →
      exec .routedFrame s = .next
        { s with
          intake.queue := rest,
          intake.routes := s.intake.routes.map (fun f =>
            if f.route.key = e.route.key then { f with rejects := min (f.rejects + 1) 255 } else f) }) ∧
    (r.data.length = e.route.length →
      ∃ t, exec .routedFrame s = .next t ∧
        Ripple (fun n => n ∈ e.route.slots ∨ onlyTacho n) (hitCounted s rest e) t ∧
        (e.route.slots.Nodup → (∀ n ∈ e.route.slots, 16 ≤ n ∧ n < 96) → ∀ x ∈ e.route.extractors,
          ∃ w, Extracts x r.data w ∧
            t.slot x.a.slot = slotAfter (s.slot x.a.slot) w s.clock e.route.timeout e.route.key) ∧
        (e.route.slots.Nodup → (∀ n ∈ e.route.slots, 16 ≤ n ∧ n < 96) → RulesFollow e.route.slots s t)) ∧
    ∀ x w, Lands s r rest e x w → (∀ id ∈ [10, 13, 14, 15, 16], s.param id ≠ x.a.slot) →
      ∃ u t, exec .routedFrame s = .next t ∧ SlotTold (landed s rest e x w) x.a.slot u ∧ LinkTold u t ∧
        t = { u with display := t.display }

/-- The paths that discard: no entry counts UNROUTED, a management identifier on port L counts FOREIGN_MGMT, a management
record of the wrong length or an unknown code is answered BAD_REQUEST, and a stray transfer frame counts XFER_STRAY: one of no kind or
driver of R194 or shorter than its kind needs, one taken while no transfer is in flight, and one that names another driver, except an OPEN
in REQUESTED. -/
def Obligations.DiscardedRecords : Prop :=
  (∀ (r : FrameRecord) (d : Driver), XferLayout r d) ∧
  ∀ (s : State) (r : FrameRecord) (rest : List FrameRecord), AtHead s r rest →
    (s.isMgmt r = false → s.isForeign r = false → s.isXfer r = false → findRoute s.intake.routes r.key = none →
      exec .unroutedFrame s = .next
        (({ s with intake.queue := rest }).setPort r.port
          { s.port r.port with unrouted := min ((s.port r.port).unrouted + 1) 65535 })) ∧
    (r.port = .trailer → r.identifier = s.mgmtReqId →
      exec .foreignMgmt s = .next
        { s with intake.queue := rest, portL.foreignMgmt := min (s.portL.foreignMgmt + 1) 65535 }) ∧
    (r.port = .tractor → r.identifier = s.mgmtReqId → (r.data.length ≠ 8 ∨ r.byte 0 ∉ requestCodes) →
      exec .badRequest s = .next (answered s r rest .badRequest [])) ∧
    (r.port = .tractor → r.identifier = s.tachoXferId → r.identifier ≠ s.mgmtReqId →
      (∀ f, readXfer r = some f → StrayTo s.tacho.transfer f) →
      exec .xferStray s = .next { s with intake.queue := rest, tacho.stray := min (s.tacho.stray + 1) 65535 })

/-- The raw field of an extractor: LOW_FIRST takes the frame bits from the start bit up, HIGH_FIRST whole bytes with the first
most significant; a signed field is read in two's complement of its width. -/
def Obligations.RawField : Prop :=
  ∀ (a : ExtractorA) (d : List Byte),
    (a.order = .lowFirst → ∀ i,
      (rawField a d).testBit i =
        (decide (i < a.width) && (d.getD ((a.start + i) / 8) 0).getLsbD ((a.start + i) % 8))) ∧
    (a.order = .highFirst → a.start % 8 = 0 → a.width % 8 = 0 → a.start + a.width ≤ 8 * d.length → ∀ i,
      (rawField a d).testBit i =
        (decide (i < a.width) && (d.getD ((a.start + a.width - 1 - i) / 8) 0).getLsbD (i % 8))) ∧
    (1 ≤ a.width → ∀ raw, raw < 2 ^ a.width →
      rawValue a raw = if a.signed = true ∧ raw.testBit (a.width - 1) = true then (raw : Int) - 2 ^ a.width else raw)

/-! ### The Route Table and the Signal Table -/

/-- ROUTE_OPEN refuses the two reserved identifiers, a bad timeout, a key that is ACTIVE and a full table; otherwise the build
slot is BUILDING with every part absent, and a build it held is abandoned with BUILD_ABANDONED. EXT_A, EXT_B and EXT_C are
refused without a build, for an index or an argument out of range and for a slot named elsewhere; otherwise the part is
stored, and the part that completes the build installs the entry in key order. -/
def Obligations.RouteBuild : Prop :=
  ∀ (s : State) (r : FrameRecord) (rest : List FrameRecord), ¬ Saving s →
    (Asked 0x10 s r rest →
      (let b := openedBuild r
       if b.key.identifier = s.mgmtReqId ∨ b.key.identifier = s.tachoXferId ∨ timeoutPasses b.timeout = false then
         exec .routeOpen s = .next (answered s r rest .badArg [])
       else if (findRoute s.intake.routes b.key).isSome then
         exec .routeOpen s = .next (answered s r rest .present [])
       else if 128 ≤ s.intake.routes.length then exec .routeOpen s = .next (answered s r rest .full [])
       else
         ∃ t, exec .routeOpen s = .next t ∧ t.intake.build = some b ∧
           (s.intake.build = none → t = { answered s r rest .ok [] with intake.build := some b }) ∧
           (s.intake.build ≠ none → Flagged t .buildAbandoned) ∧
           Ripple (fun _ => False) { answered s r rest .ok [] with intake.build := some b } t)) ∧
    (∀ (code : Nat) (c : Instr), (code, c) ∈ [(0x11, Instr.extA), (0x12, .extB), (0x13, .extC)] → Asked code s r rest →
      (s.intake.build = none → exec c s = .next (answered s r rest .wrongState [])) ∧
      ∀ b, s.intake.build = some b →
        ∀ q : BuildParts,
          q = (if code = 0x11 then { b.partsAt (r.byte 2) with a := some (partA r) }
               else if code = 0x12 then { b.partsAt (r.byte 2) with b := some (partB r) }
               else { b.partsAt (r.byte 2) with c := some (r.signedLong 3) }) →
          if b.parts.length ≤ r.byte 2 ∨ (code = 0x11 ∧ (partA r).passes b.length = false) ∨
              (code = 0x12 ∧ (partB r).passes = false) then
            exec c s = .next (answered s r rest .badArg [])
          else if code = 0x11 ∧ r.byte 6 ∈ s.routedSlots ++ b.otherSlots (r.byte 2) then
            exec c s = .next (answered s r rest .conflict [])
          else
            match ({ b with parts := b.parts.set (r.byte 2) q } : Build).route with
            | none =>
              exec c s = .next
                { answered s r rest .ok [] with
                  intake.build := some { b with parts := b.parts.set (r.byte 2) q } }
            | some route =>
              exec c s = .next
                { answered s r rest .installed [] with
                  intake.build := none,
                  intake.routes := insertRoute { route := route, hits := 0, rejects := 0 } s.intake.routes })

/-- ROUTE_DELETE removes the entry of the key and resets its slots, at whose events each LIVE rule that names one evaluates, or
discards the build of the key, or answers NOT_FOUND. (The slots of an ACTIVE entry lie in 16–95 and differ:
`Obligations.RoutesKept` and `Obligations.SlotsKept` keep it.) -/
def Obligations.RouteDelete : Prop :=
  ∀ (s : State) (r : FrameRecord) (rest : List FrameRecord), Asked 0x14 s r rest → ¬ Saving s →
    (keySpare (r.long 2) ≠ 0 → exec .routeDelete s = .next (answered s r rest .badArg [])) ∧
    (keySpare (r.long 2) = 0 → findRoute s.intake.routes (keyOfWord (r.long 2)) = none →
      exec .routeDelete s = .next
        (if s.intake.build.map (·.key) = some (keyOfWord (r.long 2)) then
          { answered s r rest .ok [] with intake.build := none }
         else answered s r rest .notFound [])) ∧
    (∀ e, keySpare (r.long 2) = 0 → findRoute s.intake.routes (keyOfWord (r.long 2)) = some e →
      ∃ t, exec .routeDelete s = .next t ∧
        Ripple (fun n => n ∈ e.route.slots ∨ onlyTacho n)
          { answered s r rest .ok [] with
            intake.routes := s.intake.routes.filter (fun f => decide (f.route.key ≠ e.route.key)) } t ∧
        ((∀ n ∈ e.route.slots, 16 ≤ n ∧ n < 96) → ∀ n ∈ e.route.slots,
          t.slot n = { value := 0, state := .never, stamp := 0, timeout := none, writer := .none }) ∧
        (e.route.slots.Nodup → (∀ n ∈ e.route.slots, 16 ≤ n ∧ n < 96) → RulesFollow e.route.slots s t))

/-- ROUTE_READ answers the key of the entry at an ordinal, or its counts and its extractor count; READ_SLOT answers the part of the
slot record that the selector names; neither changes a slot or an entry. (The age that selector 1 answers is `SlotRecord.age`, held
at the timeout less 1 before the expiry: the model's reading of R27, log 5.) -/
def Obligations.TableReads : Prop :=
  (∀ (s : State) (r : FrameRecord) (rest : List FrameRecord), Asked 0x15 s r rest →
     exec .routeRead s = .next
       (if 1 < r.byte 3 then answered s r rest .badArg []
        else
          match s.intake.routes[r.byte 2]? with
          | none => answered s r rest .notFound []
          | some e =>
            if r.byte 3 = 0 then
              answered s r rest .ok
                (u32 (e.route.key.identifier + if e.route.key.port = .trailer then 2 ^ 31 else 0))
            else answered s r rest .ok (u16 e.hits ++ u8 e.rejects ++ u8 e.route.extractors.length))) ∧
  (∀ (s : State) (r : FrameRecord) (rest : List FrameRecord), Asked 0x18 s r rest →
     exec .readSlot s = .next
       (if 95 < r.byte 2 ∨ 3 < r.byte 3 then answered s r rest .badArg []
        else
          match r.byte 3 with
          | 0 => answered s r rest .ok (s32 (s.slot (r.byte 2)).value)
          | 1 =>
            answered s r rest .ok
              (u8 (s.slot (r.byte 2)).state.code ++ u16 ((s.slot (r.byte 2)).age s.slotTime) ++
                u8 (s.slot (r.byte 2)).writer.code)
          | 2 => answered s r rest .ok (u32 (s.slot (r.byte 2)).writer.identifier)
          | _ => answered s r rest .ok (u32 ((s.slot (r.byte 2)).timeout.getD 0))))

/-- A frame slot that is FRESH, NOT_AVAILABLE or ERROR turns STALE when its age reaches its timeout, and keeps its value; a slot
that has no timeout, is NEVER or STALE, or is held still in SLEEP does not expire. Each LIVE rule that names the slot evaluates and pushes or
releases its alert, each gauge channel that follows it evaluates, and the dimming works its duty out where it is the dimmer slot; where no
tachograph field names it nothing else happens. -/
def Obligations.SlotExpires : Prop :=
  ∀ (s : State) (n : Nat), n < 96 →
    (s.table.frozenAt ≠ none ∨ (s.slot n).timeout = none ∨ (s.slot n).state = .never ∨ (s.slot n).state = .stale →
      exec (.slotExpiry n) s = .next s) ∧
    (∀ timeout, 16 ≤ n → s.table.frozenAt = none → (s.slot n).timeout = some timeout → (s.slot n).state ≠ .never →
      (s.slot n).state ≠ .stale →
      ∃ t, exec (.slotExpiry n) s = .next t ∧ t.clock = max s.clock ((s.slot n).stamp + 1000 * timeout) ∧
        t.slot n = { s.slot n with state := .stale } ∧
        Ripple (fun m => m = n ∨ onlyTacho m) (s.reach ((s.slot n).stamp + 1000 * timeout)) t ∧
        ((∀ id ∈ [10, 13, 14, 15, 16], s.param id ≠ n) →
          ∃ u, SlotTold ((s.reach ((s.slot n).stamp + 1000 * timeout)).putSlot n { s.slot n with state := .stale }) n u ∧
            LinkTold u t ∧ t = { u with display := t.display }))

/-! ### Gauges -/

/-- GAUGE_FIELD writes one field of a staged record within its range; GAUGE_COMMIT checks the staged record and the needle's
farthest position and copies it into the live record, to which the channel reacts. (A commit in HOMING keeps the rest-delay timer and the
rest mark as they are: the model's reading, log 17.) -/
def Obligations.GaugeWrites : Prop :=
  ∀ (s : State) (r : FrameRecord) (rest : List FrameRecord),
    (Asked 0x20 s r rest →
      exec .gaugeField s = .next
        (if 7 < r.byte 2 ∨ fieldInRange (r.byte 3) (r.signedLong 4) = false then answered s r rest .badArg []
         else
           { answered s r rest .ok [] with
             gauges := s.gauges.put (r.byte 2)
               { s.channel (r.byte 2) with
                 staged := (s.channel (r.byte 2)).staged.setField (r.byte 3) (r.signedLong 4) } })) ∧
    (Asked 0x21 s r rest → ¬ Saving s →
      if 7 < r.byte 2 ∨ r.byte 3 < 2 ∨ 8 < r.byte 3 ∨ (s.channel (r.byte 2)).staged.passes (r.byte 3) = false then
        exec .gaugeCommit s = .next (answered s r rest .badArg [])
      else if (s.channel (r.byte 2)).staged.settings.fullScale < (s.channel (r.byte 2)).farthest then
        exec .gaugeCommit s = .next (answered s r rest .wrongState [])
      else
        ∃ t ch, exec .gaugeCommit s = .next t ∧
          t = { answered s r rest .ok [] with gauges := s.gauges.put (r.byte 2) ch } ∧
          ch.state = (s.channel (r.byte 2)).state ∧ ch.position = (s.channel (r.byte 2)).position ∧
          ch.staged = (s.channel (r.byte 2)).staged ∧
          ch.live.settings = (s.channel (r.byte 2)).staged.settings ∧
          ch.live.curve = (s.channel (r.byte 2)).staged.points.items.take (r.byte 3) ∧
          CommitReaction s { s.channel (r.byte 2) with live := ch.live } ch)

/-- GAUGE_READ answers the dynamic fields of a channel or one field of a record; the two values the manual leaves open (a
pending target that is not present, a live curve point beyond the point count) hold for every value. -/
def Obligations.GaugeRead : Prop :=
  ∀ (s : State) (r : FrameRecord) (rest : List FrameRecord), Asked 0x22 s r rest →
    (7 < r.byte 2 ∨ 4 < r.byte 3 ∨ (r.byte 3 = 3 ∧ 31 < r.byte 4) ∨ (r.byte 3 = 4 ∧ (31 < r.byte 4 ∨ r.byte 4 = 7)) →
      exec .gaugeRead s = .next (answered s r rest .badArg [])) ∧
    (r.byte 2 ≤ 7 → r.byte 3 = 0 →
      exec .gaugeRead s = .next (answered s r rest .ok
        (u8 (s.channel (r.byte 2)).state.code ++
          u8 ((s.channel (r.byte 2)).direction.code + 16 * (s.channel (r.byte 2)).level) ++
          u8 (causeCode (s.channel (r.byte 2)).cause) ++ u8 (bit (s.channel (r.byte 2)).parkMark)))) ∧
    (r.byte 2 ≤ 7 → r.byte 3 = 1 →
      exec .gaugeRead s = .next (answered s r rest .ok
        (u16 (s.channel (r.byte 2)).position ++ u16 (s.channel (r.byte 2)).target))) ∧
    (r.byte 2 ≤ 7 → r.byte 3 = 2 → ∃ open16 : Nat, open16 < 65536 ∧
      exec .gaugeRead s = .next (answered s r rest .ok
        (u16 ((s.channel (r.byte 2)).pending.getD open16) ++
          u16 ((s.channel (r.byte 2)).homingLeft + 2 ^ 15 * bit (s.channel (r.byte 2)).pending.isSome))).useFree) ∧
    (r.byte 2 ≤ 7 → r.byte 3 = 3 → r.byte 4 ≤ 31 → ∃ open32 : Nat, open32 < 2 ^ 32 ∧
      exec .gaugeRead s = .next (answered s r rest .ok
        (if r.byte 4 = 7 then s32 (s.channel (r.byte 2)).live.curve.length
         else if r.byte 4 < 16 then s32 ((s.channel (r.byte 2)).live.settings.field (r.byte 4))
         else
           match (s.channel (r.byte 2)).live.curve[(r.byte 4 - 16) % 8]? with
           | some p => s32 (if r.byte 4 < 24 then p.value else p.position)
           | none => u32 open32)).useFree) ∧
    (r.byte 2 ≤ 7 → r.byte 3 = 4 → r.byte 4 ≤ 31 → r.byte 4 ≠ 7 →
      exec .gaugeRead s = .next (answered s r rest .ok
        (if r.byte 4 < 16 then s32 ((s.channel (r.byte 2)).staged.settings.field (r.byte 4))
         else
           s32 (if r.byte 4 < 24 then
               ((s.channel (r.byte 2)).staged.points.get ((r.byte 4 - 16) % 8) ⟨0, 0⟩).value
             else ((s.channel (r.byte 2)).staged.points.get ((r.byte 4 - 16) % 8) ⟨0, 0⟩).position))))

/-- A step event takes a pending target and then acts on the first row of the step table; a PARKING needle that stops is
PARKED and reports so, and the last report brings SLEEP where no store operation is in flight. -/
def Obligations.StepEvent : Prop :=
  (∀ (s : State) (c due : Nat), c < 8 → (s.channel c).stepTimer = some due → (s.channel c).direction ≠ .none →
    ((s.channel c).state = .tracking ∨
      ((s.channel c).state = .parking ∧
        (0 < (s.channel c).level ∨ (s.channel c).pending.getD (s.channel c).target ≠ (s.channel c).position))) →
    ∃ t ch, exec (.stepEvent c) s = .next t ∧ t = { s.reach due with gauges := s.gauges.put c ch } ∧
      ch.target = (s.channel c).pending.getD (s.channel c).target ∧ ch.pending = none ∧
      ch.state = (s.channel c).state ∧
      ∀ ahead : Int,
        ahead = (if (s.channel c).direction = .up then (ch.target : Int) - (s.channel c).position
          else ((s.channel c).position : Int) - ch.target) →
        (0 < ahead → ch.direction = (s.channel c).direction ∧
          (ch.level : Int) = min (min 7 (((s.channel c).level : Int) + 1)) (ahead - 1)) ∧
        (ahead ≤ 0 → 0 < (s.channel c).level →
          ch.direction = (s.channel c).direction ∧ ch.level = (s.channel c).level - 1) ∧
        (0 < ahead ∨ 0 < (s.channel c).level →
          ch.position = (if (s.channel c).direction = .up then (s.channel c).position + 1
            else (s.channel c).position - 1)) ∧
        (ahead < 0 → (s.channel c).level = 0 →
          ch.direction = (if (s.channel c).direction = .up then .down else .up) ∧
          ch.position = (if (s.channel c).direction = .up then (s.channel c).position - 1
            else (s.channel c).position + 1) ∧
          (ch.level : Int) = min 1 (-ahead - 1)) ∧
        (ahead = 0 → (s.channel c).level = 0 →
          ch.direction = .none ∧ ch.position = (s.channel c).position ∧ ch.level = 0 ∧ ch.stepTimer = none ∧
            ch.driveIndex = (s.channel c).driveIndex) ∧
        (ahead ≠ 0 ∨ 0 < (s.channel c).level →
          ch.stepTimer = some (max s.clock due + (s.channel c).live.settings.intervals.get ch.level 0) ∧
          ch.driveIndex =
            (if ch.direction = .up then ((s.channel c).driveIndex + 1) % 48
             else ((s.channel c).driveIndex + 47) % 48))) ∧
  (∀ (s : State) (c due : Nat), c < 8 → (s.channel c).stepTimer = some due → (s.channel c).direction ≠ .none →
    (s.channel c).state = .parking → (s.channel c).level = 0 →
    (s.channel c).pending.getD (s.channel c).target = (s.channel c).position →
    ∃ t, exec (.stepEvent c) s = .next t ∧
      Judged
        { s.reach due with
          gauges := s.gauges.put c
            { s.channel c with
              state := .parked, target := (s.channel c).position, pending := none, direction := .none, level := 0,
              stepTimer := none },
          ign.reports := s.ign.reports.put c .parked } t)

/-- The coils of a channel can give this report (R63, R64): they are driven, and OPEN needs a coil whose duty is not 0. -/
def CanReport (c : Channel) (cause : CoilFault) : Prop :=
  (c.state = .homing ∨ c.state = .tracking ∨ c.state = .parking) ∧
    (cause = .openA → sineEntry c.driveIndex ≠ 0) ∧ (cause = .openB → sineEntry ((c.driveIndex + 12) % 48) ≠ 0)

/-- A homing step makes one microstep DOWN and goes on at the interval of level 4 until none remains; the last makes the channel
TRACKING or PARKED and is reported; the end of the rest delay sets the rest mark and makes the rest position a candidate; a fault report
that the coils can give puts the channel in FAULT, its timers stopped and its rest mark clear, shown in slot 14, with GAUGE_FAULT and its
alert, and is reported; any other report does nothing. The channel's report can bring RUN or SLEEP. (That a channel which fails in HOMING
keeps its drive index is the model's choice, log 35.) -/
def Obligations.ChannelEvents : Prop :=
  (∀ (s : State) (c due : Nat), c < 8 → (s.channel c).state = .homing → (s.channel c).stepTimer = some due →
    1 < (s.channel c).homingLeft →
    exec (.homingStep c) s = .next
      { s.reach due with
        gauges := s.gauges.put c
          { s.channel c with
            position := (s.channel c).position - 1, driveIndex := ((s.channel c).driveIndex + 47) % 48,
            homingLeft := (s.channel c).homingLeft - 1,
            stepTimer := some (max s.clock due + (s.channel c).live.settings.intervals.get 4 0) } }) ∧
  (∀ (s : State) (c due : Nat), c < 8 → (s.channel c).state = .homing → (s.channel c).stepTimer = some due →
    (s.channel c).homingLeft ≤ 1 →
    ∃ ch t, exec (.homingStep c) s = .next t ∧
      ((s.channel c).parkMark = true →
        ch =
          { s.channel c with
            state := .parked, parkMark := false, position := 0, target := 0, pending := none, level := 0,
            direction := .none, stepTimer := none, driveIndex := 0, homingLeft := 0 }) ∧
      (∀ goal : Nat, goal = (s.channel c).pending.getD (s.channel c).target → (s.channel c).parkMark = false →
        ch =
          { s.channel c with
            state := .tracking, position := 0, target := goal, pending := none, level := 0, driveIndex := 0,
            homingLeft := 0, direction := if goal = 0 then .none else .up,
            stepTimer := if goal = 0 then none
              else some (max s.clock due + (s.channel c).live.settings.intervals.get 0 0) }) ∧
      Judged
        { s.reach due with
          gauges := s.gauges.put c ch,
          ign.reports := s.ign.reports.put c (if (s.channel c).parkMark then .parked else .tracking) } t) ∧
  (∀ (s : State) (c due : Nat), c < 8 → (s.channel c).restTimer = some due →
    ∃ t ch, exec (.restDelayExpiry c) s = .next t ∧ t = { s.reach due with gauges := s.gauges.put c ch } ∧
      ch.restTimer = none ∧ ch.restMark = true ∧ ch.fixed = (s.channel c).fixed ∧
      Placed { s.channel c with restTimer := none, restMark := true } (max s.clock due) true
        (s.channel c).live.settings.rest ch) ∧
  (∀ (s : State) (c : Nat) (cause : CoilFault), c < 8 → ¬ CanReport (s.channel c) cause →
    exec (.coilFaultReport c cause) s = .next s) ∧
  (∀ (s : State) (c : Nat) (cause : CoilFault), c < 8 → CanReport (s.channel c) cause →
    ∃ x t u, exec (.coilFaultReport c cause) s = .next t ∧ Judged x t ∧
      x.channel c =
        { s.channel c with
          state := .fault, cause := some cause, stepTimer := none, restTimer := none, restMark := false,
          direction := .none, level := 0, pending := none } ∧
      x.alert = (u.push (0xF010 + c) .caution (.gauge c)).alert ∧
      Ripple (fun n => n = 13 ∨ n = 14) (s.putChannel c (x.channel c)) u ∧
      x.ign = { s.ign with reports := s.ign.reports.put c .fault } ∧
      Flagged x .gaugeFault ∧
      Shows x 14
        ((List.range 8).foldl (fun sum d => if (x.channel d).state = .fault then sum + 2 ^ d else sum) 0 : Nat) ∧
      Ripple (fun n => n = 13 ∨ n = 14)
        { s with
          gauges := s.gauges.put c (x.channel c), ign.reports := s.ign.reports.put c .fault } x)

/-! ### Lamp rules and lamps -/

/-- The state once a part of a rule has been accepted: the rule is EDITING and keeps its other parts; a FREE rule had none. -/
def storedPart (s : State) (r : FrameRecord) (rest : List FrameRecord) (f : Rule → Rule) : State :=
  { answered s r rest .ok [] with
    telltale.rules := s.telltale.rules.put (r.byte 2)
      { f (if (s.rule (r.byte 2)).life = .free then Rule.blank else s.rule (r.byte 2)) with life := .editing } }

/-- RULE_A to RULE_D are refused for an index above 63, a LIVE rule and an argument out of range, and RULE_D for an alert code
that another rule in EDITING or LIVE holds; otherwise the part is stored and the rule is EDITING. -/
def Obligations.RuleParts : Prop :=
  ∀ (s : State) (r : FrameRecord) (rest : List FrameRecord),
    (∀ (code : Nat) (c : Instr) (inRange : Prop),
      (code, c, inRange) ∈
        [(0x28, Instr.ruleA, r.byte 3 ≤ 31 ∧ r.byte 4 ≤ 95 ∧ r.byte 5 ≤ 4 ∧ r.byte 6 ≤ 2 ∧ r.byte 7 ≤ 15),
         (0x29, .ruleB, True), (0x2A, .ruleC, r.byte 5 ≤ 2 ∧ r.byte 6 ≤ 1),
         (0x2B, .ruleD, (r.word 3 = 0 ∧ r.byte 5 = 0) ∨
           (1 ≤ r.word 3 ∧ r.word 3 ≤ 0xEFFF ∧ 1 ≤ r.byte 5 ∧ r.byte 5 ≤ 3))] →
      Asked code s r rest →
      (63 < r.byte 2 → exec c s = .next (answered s r rest .badArg [])) ∧
      (r.byte 2 ≤ 63 → (s.rule (r.byte 2)).life = .live → exec c s = .next (answered s r rest .wrongState [])) ∧
      (r.byte 2 ≤ 63 → (s.rule (r.byte 2)).life ≠ .live → ¬ inRange → exec c s = .next (answered s r rest .badArg []))) ∧
    (r.byte 2 ≤ 63 → (s.rule (r.byte 2)).life ≠ .live →
      (∀ test pattern, Asked 0x28 s r rest → RuleTest.code test = r.byte 5 → LampPattern.code pattern = r.byte 6 →
        r.byte 3 ≤ 31 → r.byte 4 ≤ 95 → r.byte 7 ≤ 15 →
        exec .ruleA s = .next (storedPart s r rest (fun q =>
          { q with
            a := some
              { lamp := r.byte 3, slot := r.byte 4, test := test, pattern := pattern, priority := r.byte 7 } }))) ∧
      (Asked 0x29 s r rest →
        exec .ruleB s = .next (storedPart s r rest (fun q => { q with b := some (r.signedLong 3) }))) ∧
      (∀ action, Asked 0x2A s r rest → StaleAction.code action = r.byte 5 → r.byte 6 ≤ 1 →
        exec .ruleC s = .next (storedPart s r rest (fun q =>
          { q with
            c := some
              { hysteresis := r.word 3, staleAction := action, errorAction := decide (r.byte 6 = 1),
                confirmTime := r.byte 7 } }))) ∧
      (Asked 0x2B s r rest → r.word 3 = 0 → r.byte 5 = 0 →
        exec .ruleD s = .next (storedPart s r rest (fun q => { q with d := some { alert := none } }))) ∧
      (∀ severity, Asked 0x2B s r rest → 1 ≤ r.word 3 → r.word 3 ≤ 0xEFFF → Severity.rank severity = r.byte 5 →
        ((∃ j v, j < 64 ∧ j ≠ r.byte 2 ∧ (s.rule j).life ≠ .free ∧ (s.rule j).d = some { alert := some (r.word 3, v) }) →
          exec .ruleD s = .next (answered s r rest .conflict [])) ∧
        ((∀ j v, j < 64 → j ≠ r.byte 2 → (s.rule j).life ≠ .free →
            (s.rule j).d ≠ some { alert := some (r.word 3, v) }) →
          exec .ruleD s = .next (storedPart s r rest (fun q =>
            { q with d := some { alert := some (r.word 3, severity) } })))))

/-- RULE_ENABLE makes an EDITING rule of four parts LIVE and INACTIVE, and in WAKING or RUN it evaluates at once; RULE_CLEAR makes a
rule FREE, and releases the alert of one that is ACTIVE or owes its release. -/
def Obligations.RuleLifecycle : Prop :=
  ∀ (s : State) (r : FrameRecord) (rest : List FrameRecord), ¬ Saving s →
    (Asked 0x2C s r rest →
      (63 < r.byte 2 → exec .ruleEnable s = .next (answered s r rest .badArg [])) ∧
      (r.byte 2 ≤ 63 → (s.rule (r.byte 2)).life ≠ .editing →
        exec .ruleEnable s = .next (answered s r rest .wrongState [])) ∧
      (r.byte 2 ≤ 63 → (s.rule (r.byte 2)).life = .editing →
        ((s.rule (r.byte 2)).a = none ∨ (s.rule (r.byte 2)).b = none ∨ (s.rule (r.byte 2)).c = none ∨
          (s.rule (r.byte 2)).d = none) →
        exec .ruleEnable s = .next (answered s r rest .badArg [])) ∧
      (∀ a b c d, r.byte 2 ≤ 63 → (s.rule (r.byte 2)).life = .editing → (s.rule (r.byte 2)).a = some a →
        (s.rule (r.byte 2)).b = some b → (s.rule (r.byte 2)).c = some c → (s.rule (r.byte 2)).d = some d →
        ∃ t, exec .ruleEnable s = .next t ∧
          (∀ (enabled evaluated : Rule) (x : State),
            enabled =
              { life := .live, live := .inactive, a := some a, b := some b, c := some c, d := some d, condition := false,
                confirm := none, releaseOwed := false } →
            evaluated =
              (if s.ign.power = .waking ∨ s.ign.power = .run then ruleAfter s.clock enabled (s.slot a.slot) else enabled) →
            x = { answered s r rest .ok [] with telltale.rules := s.telltale.rules.put (r.byte 2) evaluated } →
            Ripple (· = 13) x t ∧
              t =
                (x.send
                  (match d.alert with
                    | some (code, severity) =>
                      if evaluated.live = .active then [.push code severity (.rule (r.byte 2))] else []
                    | none => [])).settleLamps) ∧
          (s.ign.power ≠ .waking → s.ign.power ≠ .run → s.alert.backlog = [] →
            (t.rule (r.byte 2)).live = .inactive ∧ (t.rule (r.byte 2)).condition = false ∧
              (t.rule (r.byte 2)).confirm = none) ∧
          (s.ign.power = .waking ∨ s.ign.power = .run → a.slot ≠ 13 →
            (t.rule (r.byte 2)).condition =
              (s.rule (r.byte 2)).judge false (s.slot a.slot) ∧
            (t.rule (r.byte 2)).live =
              (if (t.rule (r.byte 2)).condition = false then .inactive
               else if c.confirmTime = 0 then .active else .pending) ∧
            (t.rule (r.byte 2)).confirm =
              (if (t.rule (r.byte 2)).condition = true ∧ 0 < c.confirmTime then
                some (s.clock + 100000 * c.confirmTime)
               else none)))) ∧
    (Asked 0x2D s r rest →
      (63 < r.byte 2 → exec .ruleClear s = .next (answered s r rest .badArg [])) ∧
      (r.byte 2 ≤ 63 →
        ∃ t, exec .ruleClear s = .next t ∧ t.rule (r.byte 2) = Rule.blank ∧
          Ripple (· = 13)
            { answered s r rest .ok [] with telltale.rules := s.telltale.rules.put (r.byte 2) Rule.blank } t ∧
          (s.alert.backlog = [] →
            (s.rule (r.byte 2)).life ≠ .live ∨
                ((s.rule (r.byte 2)).live ≠ .active ∧ (s.rule (r.byte 2)).releaseOwed = false) ∨
                (s.rule (r.byte 2)).d = some { alert := none } →
            t.alert = s.alert) ∧
          (∀ code severity, s.alert.backlog = [] → s.ign.power ≠ .sleep → (s.rule (r.byte 2)).life = .live →
            (s.rule (r.byte 2)).live = .active ∨ (s.rule (r.byte 2)).releaseOwed = true →
            (s.rule (r.byte 2)).d = some { alert := some (code, severity) } →
            t =
              ((({ answered s r rest .ok [] with
                  telltale.rules := s.telltale.rules.put (r.byte 2) Rule.blank } : State).release code
                    (.rule (r.byte 2))).settleLamps))))

/-- RULE_READ (R72): the rule as it stands, with 0 in every field of an absent part. -/
def Obligations.RuleRead : Prop :=
  ∀ (s : State) (r : FrameRecord) (rest : List FrameRecord), Asked 0x2E s r rest →
    exec .ruleRead s = .next
      (if 63 < r.byte 2 ∨ 4 < r.byte 3 then answered s r rest .badArg []
       else
         match r.byte 3 with
         | 0 =>
           answered s r rest .ok
             (u8 (s.rule (r.byte 2)).life.code ++
               u8 (if (s.rule (r.byte 2)).life = .live then (s.rule (r.byte 2)).live.code else 0) ++
               u8 (bit (s.rule (r.byte 2)).a.isSome + 2 * bit (s.rule (r.byte 2)).b.isSome +
                 4 * bit (s.rule (r.byte 2)).c.isSome + 8 * bit (s.rule (r.byte 2)).d.isSome) ++
               u8 (bit (s.rule (r.byte 2)).condition + 2 * bit (s.rule (r.byte 2)).releaseOwed))
         | 1 =>
           answered s r rest .ok
             (match (s.rule (r.byte 2)).a with
              | some a => u8 a.lamp ++ u8 a.slot ++ u8 (a.test.code + 16 * a.pattern.code) ++ u8 a.priority
              | none => [0, 0, 0, 0])
         | 2 =>
           answered s r rest .ok
             (match (s.rule (r.byte 2)).b with
              | some b => s32 b
              | none => [0, 0, 0, 0])
         | 3 =>
           answered s r rest .ok
             (match (s.rule (r.byte 2)).c with
              | some c => u16 c.hysteresis ++ u8 (c.staleAction.code + 16 * bit c.errorAction) ++ u8 c.confirmTime
              | none => [0, 0, 0, 0])
         | _ =>
           answered s r rest .ok
             (match (s.rule (r.byte 2)).d with
              | some { alert := some (code, severity) } => u16 code ++ u8 severity.rank
              | some { alert := none } => [0, 0, 0, 0]
              | none => [0, 0, 0, 0]))

/-- LAMP_READ (R85): the shown pattern, the deciding rule, the output and the open mark of a lamp, or the common fields. That the
hold of lamp 0 reads 0 in PARKING and during prove-out is the model's choice (log 19). -/
def Obligations.LampRead : Prop :=
  ∀ (s : State) (r : FrameRecord) (rest : List FrameRecord), Asked 0x2F s r rest →
    exec .lampRead s = .next
      (if 1 < r.byte 3 ∨ (r.byte 3 = 0 ∧ 31 < r.byte 2) then answered s r rest .badArg []
       else if r.byte 3 = 0 then
         answered s r rest .ok
           (u8 (match s.shown (r.byte 2) with
                | none => 0
                | some .steady => 1
                | some .slow => 2
                | some .fast => 3) ++
             u8 (match s.deciding (r.byte 2) with
                 | none => 255
                 | some i => i) ++
             u8 (bit (s.lampLit (r.byte 2))) ++ u8 (bit (s.lamp (r.byte 2)).openMark))
       else
         answered s r rest .ok
           (u8 s.telltale.phase ++ u8 (bit s.telltale.proveOut.isSome) ++ u8 (bit s.l0Held) ++ u8 s.telltale.duty))

/-- The condition of a rule on a FRESH value (R73), and, by the rule's actions, on a slot that is not FRESH (R74). -/
def Obligations.RuleCondition : Prop :=
  ∀ (q : Rule) (a : RulePartA) (t : Int) (c : RulePartC) (before : Bool) (k : SlotRecord),
    q.a = some a → q.b = some t → q.c = some c →
    (k.state = .fresh →
      (q.judge before k = true ↔
        match a.test with
        | .above => if before = true then t - c.hysteresis < k.value else t < k.value
        | .below => if before = true then k.value < t + c.hysteresis else k.value < t
        | .equal => k.value = t
        | .notEqual => k.value ≠ t
        | .anyBit => ∃ i, (BitVec.ofInt 32 k.value).getLsbD i = true ∧ (BitVec.ofInt 32 t).getLsbD i = true)) ∧
    (k.state = .error → q.judge before k = c.errorAction) ∧
    (k.state = .never ∨ k.state = .stale ∨ k.state = .notAvailable →
      q.judge before k =
        match c.staleAction with
        | .toFalse => false
        | .toTrue => true
        | .keep => before)

/-- The deciding rule of a lamp is the ACTIVE rule that names it with the highest priority, and of those the lowest index; a lamp is
lit in WAKING and RUN alone, by the prove-out, as L0 of an invalid configuration, or by its shown pattern's lit half. The dimming
takes the duty of R84 at an event of the dimmer slot and at no other. -/
def Obligations.LampResolution : Prop :=
  ∀ (s : State) (n : Nat),
    (s.deciding n = none ↔
      ∀ i, i < 64 → ¬ ((s.rule i).life = .live ∧ (s.rule i).live = .active ∧ (s.rule i).a.map (·.lamp) = some n)) ∧
    (∀ i, s.deciding n = some i →
      i < 64 ∧ (s.rule i).life = .live ∧ (s.rule i).live = .active ∧
      s.shown n = (s.rule i).a.map (·.pattern) ∧
      ∃ a, (s.rule i).a = some a ∧ a.lamp = n ∧
        ∀ j b, j < 64 → (s.rule j).life = .live → (s.rule j).live = .active → (s.rule j).a = some b → b.lamp = n →
          b.priority ≤ a.priority ∧ (b.priority = a.priority → i ≤ j)) ∧
    (s.lampLit n = true ↔
      (s.ign.power = .waking ∨ s.ign.power = .run) ∧
        (s.telltale.proveOut ≠ none ∨ (n = 0 ∧ s.store.report = false) ∨ s.shown n = some .steady ∨
          (s.shown n = some .slow ∧ s.telltale.phase < 16) ∨ (s.shown n = some .fast ∧ s.telltale.phase % 8 < 4))) ∧
    DutyIs s s.dutyNow ∧
    ∀ m : Nat,
      (s.param 4 = m →
        (s.dimEvent m).telltale.duty = s.dutyNow ∧
          s.dimEvent m = { s with telltale.duty := s.dutyNow, display := (s.dimEvent m).display } ∧
          (s.telltale.duty ≠ s.dutyNow → s.display.link ≠ .off → (s.dimEvent m).display.dirty.pageSelect = true)) ∧
      (s.param 4 ≠ m → s.dimEvent m = s)

/-- The confirm timer makes its rule ACTIVE, which then pushes its alert; the phase event advances the flash phase count; the end of
prove-out is told to the controller, which enters RUN where every channel has reported, with the chime of the top entry; and the check of
a lamp at its turn-on sets or clears its open mark, with the alert. -/
def Obligations.LampEvents : Prop :=
  (∀ (s : State) (i due : Nat), i < 64 → (s.rule i).confirm = some due →
    ∃ t, exec (.confirmTimerExpiry i) s = .next t ∧
      (∀ code severity, (s.rule i).d = some { alert := some (code, severity) } →
        t =
          ((({ s.reach due with
              telltale.rules := s.telltale.rules.put i
                { s.rule i with live := .active, condition := true, confirm := none } } : State).push code severity
                  (.rule i)).settleLamps)) ∧
      ((s.rule i).d = some { alert := none } → s.alert.backlog = [] →
        t.rule i = { s.rule i with live := .active, condition := true, confirm := none } ∧
          (∀ j, j ≠ i → t.rule j = s.rule j) ∧
          t = { s.reach due with telltale.rules := t.telltale.rules, telltale.lamps := t.telltale.lamps })) ∧
  (∀ (s : State) (due : Nat), s.telltale.phaseTimer = some due →
    ∃ t, exec .phaseEvent s = .next t ∧
      t =
        { s.reach due with
          telltale.phase := (s.telltale.phase + 1) % 32, telltale.phaseTimer := some (max s.clock due + 31250),
          telltale.lamps := t.telltale.lamps } ∧
      ∀ n, n < 32 → t.lamp n = { s.lamp n with checked := (s.lamp n).checked && t.lampLit n }) ∧
  (∀ (s : State) (due : Nat), s.telltale.proveOut = some due →
    ∃ x t, exec .proveOutEnd s = .next t ∧
      x =
        { s.reach due with
          telltale.proveOut := none, telltale.lamps := x.telltale.lamps, ign.proveOutRunning := false } ∧
      (∀ n, n < 32 → x.lamp n = { s.lamp n with checked := (s.lamp n).checked && x.lampLit n }) ∧
      (RunReady x → RunEntered x t) ∧ (¬ RunReady x → t = x)) ∧
  (∀ (s : State) (n : Nat) (current : Bool), n < 32 →
    (s.lampLit n = true → (s.lamp n).checked = false →
      exec (.lampTurnOnCheck n current) s = .next
        (match current, (s.lamp n).openMark with
         | false, false =>
           (({ s with telltale.lamps := s.telltale.lamps.put n ⟨true, true⟩ } : State).raise .lampFault).push (0xF020 + n)
             .info (.lamp n)
         | false, true => { s with telltale.lamps := s.telltale.lamps.put n ⟨true, true⟩ }
         | true, true =>
           ({ s with telltale.lamps := s.telltale.lamps.put n ⟨false, true⟩ } : State).release (0xF020 + n) (.lamp n)
         | true, false => { s with telltale.lamps := s.telltale.lamps.put n ⟨false, true⟩ })) ∧
    (s.lampLit n = false ∨ (s.lamp n).checked = true → exec (.lampTurnOnCheck n current) s = .next s))

/-! ### The alert block and the chime -/

/-- The pattern of severity `v` has just begun in the state `t`, from its start and with its tone (R101, R102, R104). -/
def ChimeStarts (s t : State) (v : Severity) : Prop :=
  t.alert.playing =
      some
        { pattern := (match v with
            | .info => .info
            | .caution => .caution
            | .stop => .stop),
          interval := 0, began := s.clock } ∧
    t.alert.chimeTimer = some (s.clock + if v = .stop then 300000 else 150000) ∧ t.alert.tone = true ∧
    t.alert.toneTimer = some (s.clock + 16 * s.paramNat 6)

/-- The chime after a change of the Alert Stack (R98 steps 4 and 5): a STOP pattern ends unless a held STOP entry stands at the top;
then the pattern of the severity asked for, if any, starts in RUN unless the pattern still playing outranks it (R103); where
none starts, the chime goes on as it was, or is idle where a STOP pattern ended. -/
def ChimeAfter (s t : State) (asked : Option Severity) : Prop :=
  ∀ ended : Prop,
    (ended ↔ (∃ q, s.alert.playing = some q ∧ q.pattern = .stop) ∧
      ¬ ∃ e rest, t.alert.stack = e :: rest ∧ e.severity = .stop ∧ e.held = true) →
    (∀ v, asked = some v → s.ign.power = .run →
      ended ∨ (∀ q, s.alert.playing = some q → q.pattern.rank ≤ v.pattern.rank) → ChimeStarts s t v) ∧
    (asked = none ∨ s.ign.power ≠ .run ∨
        (¬ ended ∧ ∃ v q, asked = some v ∧ s.alert.playing = some q ∧ v.pattern.rank < q.pattern.rank) →
      (ended →
        t.alert.playing = none ∧ t.alert.chimeTimer = none ∧ t.alert.tone = false ∧ t.alert.toneTimer = none) ∧
      (¬ ended →
        t.alert.playing = s.alert.playing ∧ t.alert.chimeTimer = s.alert.chimeTimer ∧ t.alert.tone = s.alert.tone ∧
          t.alert.toneTimer = s.alert.toneTimer))

/-- A push and a release of an alert, where nothing is on its way to the alert block and no rule names slot 13: what the Alert Stack,
the lost count, slot 13, the display's marks and the chime become. Each push that is not dropped asks for the pattern of its
entry's severity, a merged entry's being the higher one; a release asks for none. That a merge which alters no field asks for its chime too
is the model's choice, log 36; that ALERT_LOST is set before the stack changes, log 6. -/
def Obligations.AlertStack : Prop :=
  ∀ (s : State) (code : Nat) (severity : Severity) (origin : Origin), s.alert.backlog = [] → s.watched 13 = false →
    (s.ign.power ≠ .waking → s.ign.power ≠ .run → s.push code severity origin = s) ∧
    (s.ign.power = .waking ∨ s.ign.power = .run →
      (∀ above e below, s.alert.stack = above ++ e :: below → e.code = code → (∀ f ∈ above, f.code ≠ code) →
        (∀ f ∈ below, f.code ≠ code) →
        (s.push code severity origin).alert.stack =
          { e with
            held := true, repeats := min (e.repeats + 1) 255,
            severity := if e.severity.rank < severity.rank then severity else e.severity } :: (above ++ below) ∧
        (s.push code severity origin).alert.lost = s.alert.lost) ∧
      ((∀ f ∈ s.alert.stack, f.code ≠ code) → s.alert.stack.length < 16 →
        (s.push code severity origin).alert.stack =
          { code := code, severity := severity, origin := origin, held := true, repeats := 0,
            raisedAt := if (s.slot 15).state = .never then 0 else (s.slot 15).value.toNat } :: s.alert.stack ∧
        (s.push code severity origin).alert.lost = s.alert.lost) ∧
      ((∀ f ∈ s.alert.stack, f.code ≠ code) → 16 ≤ s.alert.stack.length →
        (s.push code severity origin).alert.lost = min (s.alert.lost + 1) 255 ∧
        Flagged (s.push code severity origin) .alertLost ∧
        ((∀ f ∈ s.alert.stack, severity.rank < f.severity.rank) →
          (s.push code severity origin).alert.stack = s.alert.stack ∧
          (s.push code severity origin).alert.playing = s.alert.playing) ∧
        (∀ above e below, s.alert.stack = above ++ e :: below → (∀ f ∈ s.alert.stack, e.severity.rank ≤ f.severity.rank) →
          (∀ f ∈ below, f.severity ≠ e.severity) → e.severity.rank ≤ severity.rank →
          (s.push code severity origin).alert.stack =
            { code := code, severity := severity, origin := origin, held := true, repeats := 0,
              raisedAt := if (s.slot 15).state = .never then 0 else (s.slot 15).value.toNat } :: (above ++ below)))) ∧
    (s.ign.power = .sleep ∨ (∀ f ∈ s.alert.stack, f.code ≠ code) → s.release code origin = s) ∧
    (∀ above e below, s.ign.power ≠ .sleep → s.alert.stack = above ++ e :: below → e.code = code →
      (∀ f ∈ above, f.code ≠ code) → (∀ f ∈ below, f.code ≠ code) →
      (e.severity = .info → (s.release code origin).alert.stack = above ++ below) ∧
      (e.severity ≠ .info →
        (s.release code origin).alert.stack = above ++ { e with held := false } :: below ∧
        (e.held = false → s.release code origin = s))) ∧
    (∀ t, t = s.push code severity origin ∨ t = s.release code origin → t.alert.stack ≠ s.alert.stack →
      (t.slot 13).value = (match t.alert.stack with
        | [] => 0
        | e :: _ => (e.severity.rank : Int)) ∧
      (s.display.link ≠ .off → t.display.dirty.topAlert = true ∧ t.display.dirty.alertList = true) ∧
      Ripple (· = 13) s t) ∧
    (∀ t, t = s.push code severity origin → s.ign.power = .waking ∨ s.ign.power = .run →
      (∃ f ∈ s.alert.stack, f.code = code) ∨ s.alert.stack.length < 16 ∨
          (∃ f ∈ s.alert.stack, f.severity.rank ≤ severity.rank) →
      ∃ e rest, t.alert.stack = e :: rest ∧ e.code = code ∧ ChimeAfter s t (some e.severity)) ∧
    (∀ t, t = s.release code origin → t.alert.stack ≠ s.alert.stack → ChimeAfter s t none)

/-- The chime: a request outside RUN is discarded; in RUN it starts its pattern from the beginning unless one of higher rank plays.
The end of an interval begins the next, STOP repeats, any other pattern ends idle; the tone counter's expiry turns the output. -/
def Obligations.Chime : Prop :=
  (∀ (s : State) (p : ChimePattern),
    (s.ign.power ≠ .run ∨ (∃ q, s.alert.playing = some q ∧ p.rank < q.pattern.rank) → s.chimeRequest p = s) ∧
    (s.ign.power = .run → (∀ q, s.alert.playing = some q → q.pattern.rank ≤ p.rank) →
      s.chimeRequest p =
        { s with
          alert.playing := some { pattern := p, interval := 0, began := s.clock },
          alert.chimeTimer := some (s.clock + (match p with
            | .info => 150000
            | .refuse => 60000
            | .caution => 150000
            | .stop => 300000)),
          alert.tone := true,
          alert.toneTimer := some (s.clock + 16 * (if p = .refuse then 2 * s.paramNat 6 else s.paramNat 6)) })) ∧
  (∀ (s : State) (due : Nat) (q : Playing), s.alert.chimeTimer = some due → s.alert.playing = some q →
    exec .chimeIntervalEnd s = .next
      (match q.pattern, q.interval with
       | .caution, 0 =>
         { s.reach due with
           alert.playing := some { q with interval := 1 }, alert.chimeTimer := some (max s.clock due + 150000),
           alert.tone := false, alert.toneTimer := none }
       | .caution, 1 =>
         { s.reach due with
           alert.playing := some { q with interval := 2 }, alert.chimeTimer := some (max s.clock due + 150000),
           alert.tone := true, alert.toneTimer := some (max s.clock due + 16 * s.paramNat 6) }
       | .stop, 0 =>
         { s.reach due with
           alert.playing := some { q with interval := 1 }, alert.chimeTimer := some (max s.clock due + 300000),
           alert.tone := false, alert.toneTimer := none }
       | .stop, _ =>
         { s.reach due with
           alert.playing := some { q with interval := 0 }, alert.chimeTimer := some (max s.clock due + 300000),
           alert.tone := true, alert.toneTimer := some (max s.clock due + 16 * s.paramNat 6) }
       | _, _ =>
         { s.reach due with
           alert.playing := none, alert.chimeTimer := none, alert.tone := false, alert.toneTimer := none })) ∧
  (∀ (s : State) (due : Nat) (q : Playing), s.alert.toneTimer = some due → s.alert.playing = some q →
    exec .toneCounterExpiry s = .next
      { s.reach due with
        alert.tone := !s.alert.tone,
        alert.toneTimer :=
          some (max s.clock due + 16 * (if q.pattern = .refuse then 2 * s.paramNat 6 else s.paramNat 6)) })

/-- The ACK button: a press held 50 ms gives, in RUN alone, one acknowledgement, and the next press needs 50 ms of release.
ALERT_ACK gives one in RUN and answers with its result. An acknowledgement removes the top entry unless it is a held STOP. -/
def Obligations.Acknowledgement : Prop :=
  (∀ (s : State) (pressed : Bool),
    (s.pins.ack = pressed → exec (.ackInputChange pressed) s = .next s) ∧
    (s.pins.ack ≠ pressed → s.powered = false ∨ s.ign.power = .sleep →
      exec (.ackInputChange pressed) s = .next { s with pins.ack := pressed }) ∧
    (s.pins.ack ≠ pressed → s.powered = true → s.ign.power ≠ .sleep →
      (pressed = true → s.alert.ackArmed = true ∨ (∃ due, s.alert.ackRelease = some due ∧ due ≤ s.clock) →
        exec (.ackInputChange pressed) s = .next
          { s with
            pins.ack := true, alert.ackArmed := true, alert.ackHold := some (s.clock + 50000),
            alert.ackRelease := none }) ∧
      (pressed = true → s.alert.ackArmed = false → (∀ due, s.alert.ackRelease = some due → s.clock < due) →
        exec (.ackInputChange pressed) s = .next { s with pins.ack := true, alert.ackRelease := none }) ∧
      (pressed = false → s.alert.ackArmed = true →
        exec (.ackInputChange pressed) s = .next { s with pins.ack := false, alert.ackHold := none }) ∧
      (pressed = false → s.alert.ackArmed = false →
        exec (.ackInputChange pressed) s = .next
          { s with pins.ack := false, alert.ackRelease := some (s.clock + 50000) }))) ∧
  (∀ (s : State) (due : Nat), s.alert.ackHold = some due →
    (s.ign.power ≠ .run →
      exec .ackPress s = .next { s.reach due with alert.ackHold := none, alert.ackArmed := false }) ∧
    (s.ign.power = .run → s.alert.stack = [] →
      exec .ackPress s = .next { s.reach due with alert.ackHold := none, alert.ackArmed := false }) ∧
    (∀ e rest, s.ign.power = .run → s.alert.stack = e :: rest → e.severity = .stop → e.held = true →
      exec .ackPress s = .next
        (({ s.reach due with alert.ackHold := none, alert.ackArmed := false } : State).chimeRequest .refuse)) ∧
    (∀ e rest, s.ign.power = .run → s.alert.stack = e :: rest → e.severity ≠ .stop ∨ e.held = false →
      ∃ t, exec .ackPress s = .next t ∧
        Ripple (· = 13) { s.reach due with alert.ackHold := none, alert.ackArmed := false } t ∧
        (s.alert.backlog = [] → s.watched 13 = false → t.alert.stack = rest ∧ ChimeAfter s t none))) ∧
  (∀ (s : State) (r : FrameRecord) (tail : List FrameRecord), Asked 0x30 s r tail →
    (s.ign.power ≠ .run → exec .alertAck s = .next (answered s r tail .wrongState [])) ∧
    (s.ign.power = .run → s.alert.stack = [] → exec .alertAck s = .next (answered s r tail .empty [])) ∧
    (∀ e rest, s.ign.power = .run → s.alert.stack = e :: rest → e.severity = .stop → e.held = true →
      exec .alertAck s = .next ((answered s r tail .refused (u16 e.code)).chimeRequest .refuse)) ∧
    (∀ e rest, s.ign.power = .run → s.alert.stack = e :: rest → e.severity ≠ .stop ∨ e.held = false →
      ∃ t, exec .alertAck s = .next t ∧ Ripple (· = 13) (answered s r tail .ok (u16 e.code)) t ∧
        (s.alert.backlog = [] → s.watched 13 = false → t.alert.stack = rest ∧ ChimeAfter s t none)))

/-- ALERT_READ (R99): an entry of the Alert Stack, or its common fields. -/
def Obligations.AlertRead : Prop :=
  ∀ (s : State) (r : FrameRecord) (rest : List FrameRecord), Asked 0x31 s r rest →
    exec .alertRead s = .next
      (if 3 < r.byte 3 ∨ (r.byte 3 ≠ 3 ∧ 15 < r.byte 2) then answered s r rest .badArg []
       else if r.byte 3 = 3 then
         answered s r rest .ok
           (u8 s.alert.stack.length ++ u8 s.alert.lost ++
             u8 (match s.alert.playing with
               | none => 0
               | some { pattern := .info, .. } => 1
               | some { pattern := .refuse, .. } => 2
               | some { pattern := .caution, .. } => 3
               | some { pattern := .stop, .. } => 4))
       else
         match s.alert.stack[r.byte 2]? with
         | none => answered s r rest .notFound []
         | some e =>
           match r.byte 3 with
           | 0 =>
             answered s r rest .ok
               (u16 e.code ++
                 u8 (match e.severity with
                   | .info => 1
                   | .caution => 2
                   | .stop => 3) ++ u8 (if e.held then 1 else 0))
           | 1 =>
             answered s r rest .ok
               ((match e.origin with
                 | .rule n => u8 0 ++ u8 n
                 | .gauge n => u8 1 ++ u8 n
                 | .lamp n => u8 2 ++ u8 n
                 | .speed => u8 3 ++ u8 0
                 | .sensor => u8 4 ++ u8 0
                 | .tacho n => u8 5 ++ u8 n
                 | .port => u8 6 ++ u8 0
                 | .config => u8 7 ++ u8 0) ++ u8 e.repeats)
           | _ => answered s r rest .ok (u32 e.raisedAt))

/-! ### Distance and speed -/

/-- A calibration write requested: it starts with 5 ms, or, behind one in flight, one follow-on write is owed. -/
def withCalWrite (s : State) : State :=
  match s.store.write with
  | .idle =>
    { s with
      store.write := .writing
        { kFactor := s.dist.kFactor, history := s.dist.history, sealed := s.dist.sealed, odometer := s.dist.storedOdo },
      store.writeTimer := some (s.clock + 5000), ign.writeMark := true }
  | .writing image => { s with store.write := .writingPending image }
  | .writingPending _ => s

/-- SET_KFACTOR, SET_ODOMETER and SEAL: their refusals, and what an accepted one makes of the calibration, with the write it
requests. -/
def Obligations.CalRequests : Prop :=
  ∀ (s : State) (r : FrameRecord) (rest : List FrameRecord),
    (Asked 0x38 s r rest →
      exec .setKfactor s = .next
        (if r.word 2 < 2000 ∨ 64000 < r.word 2 then answered s r rest .badArg []
         else if r.word 2 = s.dist.kFactor then answered s r rest .noChange []
         else if 8 ≤ s.dist.history.length then answered s r rest .historyFull []
         else
           withCalWrite
             { answered s r rest .ok (u8 (s.dist.history.length + 1)) with
               dist.history :=
                 s.dist.history ++ [{ oldK := s.dist.kFactor, newK := r.word 2, odometer := s.dist.liveOdo }],
               dist.kFactor := r.word 2, dist.accumulator := 0, dist.storedOdo := s.dist.liveOdo })) ∧
    (Asked 0x39 s r rest →
      (s.dist.sealed = true → exec .setOdometer s = .next (answered s r rest .sealed [])) ∧
      (s.dist.sealed = false →
        ∃ t, exec .setOdometer s = .next t ∧ (t.slot 2).value = (r.long 2 / 100 : Nat) ∧
          Ripple (fun n => n = 2 ∨ n = 13)
            (withCalWrite
              { answered s r rest .ok [] with
                dist.liveOdo := r.long 2, dist.storedOdo := r.long 2, dist.accumulator := 0 }) t ∧
          ((s.slot 2).value = (r.long 2 / 100 : Nat) →
            t =
              withCalWrite
                { answered s r rest .ok [] with
                  dist.liveOdo := r.long 2, dist.storedOdo := r.long 2, dist.accumulator := 0 }))) ∧
    (Asked 0x3A s r rest →
      exec .sealOdometer s = .next
        (if s.dist.sealed = true then answered s r rest .noChange []
         else
           withCalWrite
             { answered s r rest .ok [] with dist.sealed := true, dist.storedOdo := s.dist.liveOdo }))

/-- READ_CAL_HISTORY (R119) and DISTANCE_READ (R122). -/
def Obligations.DistanceReads : Prop :=
  ∀ (s : State) (r : FrameRecord) (rest : List FrameRecord),
    (Asked 0x3B s r rest →
      exec .readCalHistory s = .next
        (if 7 < r.byte 2 ∨ 1 < r.byte 3 then answered s r rest .badArg []
         else
           match s.dist.history[r.byte 2]? with
           | none => answered s r rest .notFound []
           | some e =>
             if r.byte 3 = 0 then answered s r rest .ok (u16 e.oldK ++ u16 e.newK)
             else answered s r rest .ok (u32 e.odometer))) ∧
    (Asked 0x3C s r rest →
      exec .distanceRead s = .next
        (match r.byte 2 with
         | 0 => answered s r rest .ok (u32 s.dist.liveOdo)
         | 1 => answered s r rest .ok (u32 s.dist.storedOdo)
         | 2 =>
           answered s r rest .ok (u16 s.dist.kFactor ++ u8 s.dist.history.length ++ u8 (if s.dist.sealed then 1 else 0))
         | 3 =>
           answered s r rest .ok
             (u16 s.dist.accumulator ++
               u8 (s.dist.ring.length + (if s.dist.reverse then 16 else 0) + (if s.param 7 = 0 then 0 else 32)) ++
               u8 s.dist.phaseB)
         | _ => answered s r rest .badArg []))

/-- The filters: a raw level away from the filtered level starts the stability time, one back at it rejects the change and counts it;
in SLEEP the level alone is held. The zero timer empties the ring and writes slot 0 FRESH 0, which marks DISTANCE_PAGE, unless the silent
mark is set. -/
def Obligations.FilterEvents : Prop :=
  (∀ (s : State) (high : Bool),
    (s.pins.spa = high → exec (.pinRawChange .spa high) s = .next s) ∧
    (s.pins.spb = high → exec (.pinRawChange .spb high) s = .next s) ∧
    (s.powered = false ∨ s.ign.power = .sleep →
      exec (.pinRawChange .spa high) s = .next { s with pins.spa := high } ∧
        exec (.pinRawChange .spb high) s = .next { s with pins.spb := high }) ∧
    (s.powered = true → s.ign.power ≠ .sleep →
      (s.pins.spa ≠ high → s.dist.spaLevel ≠ high →
        exec (.pinRawChange .spa high) s = .next
          { s with pins.spa := high, dist.spaTimer := some (s.clock + s.paramNat 8) }) ∧
      (s.pins.spa ≠ high → s.dist.spaLevel = high →
        exec (.pinRawChange .spa high) s = .next
          { s with
            pins.spa := high, dist.spaTimer := none,
            dist.filterReject :=
              if s.dist.spaTimer = none then s.dist.filterReject else min (s.dist.filterReject + 1) 65535 }) ∧
      (s.pins.spb ≠ high → s.dist.spbLevel ≠ high →
        exec (.pinRawChange .spb high) s = .next
          { s with pins.spb := high, dist.spbTimer := some (s.clock + s.paramNat 8) }) ∧
      (s.pins.spb ≠ high → s.dist.spbLevel = high →
        exec (.pinRawChange .spb high) s = .next
          { s with
            pins.spb := high, dist.spbTimer := none,
            dist.filterReject :=
              if s.dist.spbTimer = none then s.dist.filterReject else min (s.dist.filterReject + 1) 65535 }))) ∧
  (∀ (s : State) (due : Nat), s.dist.zeroTimer = some due →
    ∃ t, exec .zeroTimerExpiry s = .next t ∧
      (s.table.silentMark = true →
        t = { s.reach due with dist.ring := [], dist.lastPulse := none, dist.zeroTimer := none }) ∧
      (s.table.silentMark = false →
        Shows t 0 0 ∧ (s.display.link ≠ .off → t.display.dirty.distancePage = true) ∧
        Ripple (fun n => n = 0 ∨ onlyTacho n)
          { s.reach due with dist.ring := [], dist.lastPulse := none, dist.zeroTimer := none } t))

/-- The state `a` with the distance block, the store block, the write mark and the marks of slot 12 of `t`. -/
def travelled (a t : State) : State :=
  { a with
    dist := t.dist, store := t.store, ign.writeMark := t.ign.writeMark, table.silentMark := t.table.silentMark,
    table.phaseBMark := t.table.phaseBMark }

/-- Nothing but the pulse's own pushes and releases reaches the alert block: nothing is on its way, no rule names a slot that the distance
block writes, or slot 13, and no tachograph field names slot 0. -/
def OnlyThePulse (s : State) : Prop :=
  s.alert.backlog = [] ∧ (∀ n ∈ [0, 1, 2, 12, 13], s.watched n = false) ∧ ∀ id ∈ [10, 13, 14, 15, 16], s.param id ≠ 0

/-- The alerts of a pulse (R108, R112), which leaves `t`: cleared of the silent mark, the part releases 0xF102 unless the phase-B mark is
set; a count that reaches 64 sets SENSOR_FAULT and pushes 0xF102. -/
def PulseAlerts (s t : State) : Prop :=
  ∀ cleared fault : Bool,
    cleared = (s.table.silentMark && !s.table.phaseBMark) → fault = decide (s.param 7 = 0 ∧ s.dist.phaseB = 63) →
    ∃ u v : State,
      Ripple (fun n => n = 12 ∨ n = 13) (travelled s u) u ∧
      Ripple (fun n => n = 1 ∨ n = 12 ∨ n = 13) (travelled (if cleared then u.release 0xF102 .sensor else u) v) v ∧
      (fault = true → Flagged v .sensorFault) ∧
      Ripple (fun n => n = 0 ∨ n = 2 ∨ onlyTacho n)
        (travelled (if fault then v.push 0xF102 .caution .sensor else v) t) t ∧
      (OnlyThePulse s →
        u.alert = s.alert ∧ v.alert = (if cleared then u.release 0xF102 .sensor else u).alert ∧
          t.alert = (if fault then v.push 0xF102 .caution .sensor else v).alert)

/-- An accepted edge. A falling edge of SPA acts on the filter alone. A rising one is a pulse: the ring takes its interval, slot 0 the
speed of the ring, the accumulator 1000 and the odometer a metre with slot 2, the kilometre requests a calibration write, the direction
with slot 1 and the phase-B count follow, the silent mark is cleared, slot 12 and alert 0xF102 follow the marks, and the zero timer
restarts; events of slots 0 to 2 mark DISTANCE_PAGE. An edge of SPB sets the phase-B count to 0 and clears its mark, with the release; in
SINGLE it does nothing. That slot 12 is written, and SENSOR_FAULT set, before 0xF102 is pushed or released is the model's choice, log 6. -/
def Obligations.AcceptedEdges : Prop :=
  (∀ (s : State) (due : Nat), s.dist.spaTimer = some due → s.pins.spa = false →
    exec (.filterStabilityExpiry .spa) s = .next { s.reach due with dist.spaTimer := none, dist.spaLevel := false }) ∧
  (∀ (s : State) (due : Nat), s.dist.spaTimer = some due → s.pins.spa = true →
    ∃ t, exec (.filterStabilityExpiry .spa) s = .next t ∧ t.table.silentMark = false ∧
      t.dist.spaTimer = none ∧ t.dist.spaLevel = true ∧ t.dist.spbLevel = s.dist.spbLevel ∧
      t.dist.spbTimer = s.dist.spbTimer ∧ t.dist.filterReject = s.dist.filterReject ∧ t.dist.history = s.dist.history ∧
      t.dist.kFactor = s.dist.kFactor ∧ t.dist.sealed = s.dist.sealed ∧
      t.dist.reverse = (decide (s.param 7 = 0) && !s.table.phaseBMark && s.dist.spbLevel) ∧
      t.dist.phaseB = (if s.param 7 = 0 ∧ s.dist.phaseB < 64 then s.dist.phaseB + 1 else s.dist.phaseB) ∧
      t.table.phaseBMark = (s.table.phaseBMark || decide (s.param 7 = 0 ∧ s.dist.phaseB = 63)) ∧
      t.dist.lastPulse = some (max s.clock due) ∧
      (s.dist.lastPulse = none → t.dist.ring = s.dist.ring) ∧
      (∀ last, s.dist.lastPulse = some last →
        t.dist.ring =
          if 4000000 < max s.clock due - last then []
          else if s.dist.ring.length < 8 then s.dist.ring ++ [max s.clock due - last]
          else (s.dist.ring ++ [max s.clock due - last]).tail) ∧
      (t.dist.ring ≠ [] →
        Shows t 0 (min 25000 (t.dist.ring.length * 360000000000 / (s.dist.kFactor * t.dist.ring.sum)) : Nat)) ∧
      (t.dist.ring = [] → s.table.silentMark = true → Shows t 0 0) ∧
      (t.dist.ring = [] → s.table.silentMark = false → t.slot 0 = s.slot 0) ∧
      t.dist.accumulator =
        (if s.dist.accumulator + 1000 < s.dist.kFactor then s.dist.accumulator + 1000
         else s.dist.accumulator + 1000 - s.dist.kFactor) ∧
      t.dist.liveOdo =
        (if s.dist.accumulator + 1000 < s.dist.kFactor then s.dist.liveOdo
         else if s.dist.liveOdo < 4294967295 then s.dist.liveOdo + 1 else s.dist.liveOdo) ∧
      t.dist.storedOdo =
        (if s.dist.liveOdo < t.dist.liveOdo ∧ s.dist.storedOdo + 1000 ≤ t.dist.liveOdo then t.dist.liveOdo
         else s.dist.storedOdo) ∧
      (t.dist.storedOdo = s.dist.storedOdo → t.store = s.store ∧ t.ign = s.ign) ∧
      (t.dist.storedOdo ≠ s.dist.storedOdo →
        t.store = (withCalWrite { s.reach due with dist := t.dist }).store ∧
          t.ign = (withCalWrite { s.reach due with dist := t.dist }).ign) ∧
      (if t.dist.reverse = s.dist.reverse then t.slot 1 = s.slot 1 else Shows t 1 (if t.dist.reverse then 1 else 0)) ∧
      (if t.dist.liveOdo = s.dist.liveOdo then t.slot 2 = s.slot 2
       else (t.slot 2).value = (t.dist.liveOdo / 100 : Nat)) ∧
      (s.display.link ≠ .off →
        t.dist.ring ≠ [] ∨ s.table.silentMark = true ∨ t.dist.reverse ≠ s.dist.reverse ∨ t.slot 2 ≠ s.slot 2 →
        t.display.dirty.distancePage = true) ∧
      (if s.table.silentMark = false ∧ t.table.phaseBMark = s.table.phaseBMark then t.slot 12 = s.slot 12
       else (t.slot 12).value = if t.table.phaseBMark then 1 else 0) ∧
      PulseAlerts { s.reach due with dist.spaTimer := none, dist.spaLevel := true } t ∧
      t.dist.zeroTimer = some (max s.clock due + 1000 * s.paramNat 9) ∧
      t.tacho.watch = (if t.watchHolds then some (max s.clock due + 3000000) else none) ∧
      Ripple (fun n => n = 0 ∨ n = 1 ∨ n = 2 ∨ n = 12 ∨ onlyTacho n)
        { s.reach due with
          dist := t.dist, store := t.store, ign.writeMark := t.ign.writeMark, table.silentMark := false,
          table.phaseBMark := t.table.phaseBMark } t) ∧
  (∀ (s : State) (due : Nat), s.dist.spbTimer = some due →
    (s.param 7 ≠ 0 →
      exec (.filterStabilityExpiry .spb) s = .next
        { s.reach due with dist.spbTimer := none, dist.spbLevel := s.pins.spb }) ∧
    (s.param 7 = 0 → s.table.phaseBMark = false →
      exec (.filterStabilityExpiry .spb) s = .next
        { s.reach due with dist.spbTimer := none, dist.spbLevel := s.pins.spb, dist.phaseB := 0 }) ∧
    (s.param 7 = 0 → s.table.phaseBMark = true →
      ∃ u t, exec (.filterStabilityExpiry .spb) s = .next t ∧
        (t.slot 12).value = (if s.table.silentMark then 2 else 0) ∧
        t = (if s.table.silentMark then u else u.release 0xF102 .sensor) ∧ (s.watched 12 = false → u.alert = s.alert) ∧
        Ripple (fun n => n = 12 ∨ n = 13)
          { s.reach due with
            dist.spbTimer := none, dist.spbLevel := s.pins.spb, dist.phaseB := 0, table.phaseBMark := false } u ∧
        Ripple (fun n => n = 12 ∨ n = 13)
          { s.reach due with
            dist.spbTimer := none, dist.spbLevel := s.pins.spb, dist.phaseB := 0, table.phaseBMark := false } t))

/-! ### Tachograph -/

/-- A minute event counts for each present driver by its activity: none leaves the counters and makes the driver ESTIMATING, a rest
adds to the rest run and may complete the break, work ends the run, drive counts; the slots follow, and the driver's page is marked. (An activity field names a slot
from 16 up: the range of R173, which `Obligations.ParamsKept` keeps.) A write of the card slot inserts or withdraws the driver, and one
of the continuous-driving slot reconciles it. -/
def Obligations.MinuteEvents : Prop :=
  (∀ (s : State) (due : Nat), s.tacho.minuteTimer = some due →
    (∀ d n, s.paramSlot (activityParam d) = some n → 16 ≤ n) →
    ∃ t, exec .minuteTimerExpiry s = .next t ∧ t.tacho.minuteTimer = some (max s.clock due + 60000000) ∧
      t.tacho.readout = s.tacho.readout ∧ t.tacho.transfer = s.tacho.transfer ∧ t.tacho.side = s.tacho.side ∧
      t.tacho.watch = s.tacho.watch ∧
      Ripple onlyTacho (s.reach due) t ∧
      ∀ d : Driver,
        ((s.driver d).state = .noDriver → t.driver d = s.driver d) ∧
        ((s.driver d).state ≠ .noDriver →
          (t.driver d).summary = (s.driver d).summary ∧ (t.driver d).outcome = (s.driver d).outcome ∧
          (t.driver d).sinceReconcile = min ((s.driver d).sinceReconcile + 1) 1439 ∧
          (t.slot (contSlot d)).value = (t.driver d).contDrive ∧
          (t.slot (leftSlot d)).value = s.param 17 - (t.driver d).contDrive ∧
          (s.display.link ≠ .off →
            (t.driver d).state ≠ (s.driver d).state ∨ t.slot (contSlot d) ≠ s.slot (contSlot d) ∨
              t.slot (leftSlot d) ≠ s.slot (leftSlot d) →
            t.display.dirty.has (pageOf d) = true) ∧
          (s.activity d = none →
            (t.driver d).state = .estimating ∧ (t.driver d).contDrive = (s.driver d).contDrive ∧
              (t.driver d).breakAccum = (s.driver d).breakAccum ∧ (t.driver d).stretch = (s.driver d).stretch) ∧
          (s.activity d ≠ none →
            (t.driver d).state =
              if s.paramNat 20 ≤ min ((s.driver d).sinceReconcile + 1) 1439 then .estimating else (s.driver d).state) ∧
          (s.activity d = some 0 →
            if s.paramNat 18 ≤ (s.driver d).breakAccum + min ((s.driver d).stretch + 1) 1439 then
              (t.driver d).contDrive = 0 ∧ (t.driver d).breakAccum = 0 ∧ (t.driver d).stretch = 0
            else
              (t.driver d).contDrive = (s.driver d).contDrive ∧ (t.driver d).breakAccum = (s.driver d).breakAccum ∧
                (t.driver d).stretch = min ((s.driver d).stretch + 1) 1439) ∧
          (∀ v, s.activity d = some v → v ≠ 0 →
            (t.driver d).stretch = 0 ∧
            (t.driver d).breakAccum =
              (if s.paramNat 19 ≤ (s.driver d).stretch then
                min 120 ((s.driver d).breakAccum + (s.driver d).stretch) else (s.driver d).breakAccum) ∧
            (t.driver d).contDrive =
              (if v = 3 then min ((s.driver d).contDrive + 1) 1439 else (s.driver d).contDrive)))) ∧
  (∀ (s : State) (r : FrameRecord) (rest : List FrameRecord) (e : RouteEntry) (x : Extractor) (w : SlotWrite) (d : Driver),
    Lands s r rest e x w → OnlyField s (cardParam d) x.a.slot → ReadoutOk s.tacho →
    ∃ u t, exec .routedFrame s = .next t ∧ SlotTold (landed s rest e x w) x.a.slot u ∧ u.tacho = s.tacho ∧
      ∀ inserts : Prop,
        (inserts ↔ w = .fresh 1 ∧
          ((s.slot x.a.slot).value = 0 ∨ (s.slot x.a.slot).state = .never ∨ (s.slot x.a.slot).state = .stale)) →
        (inserts → CardInserted u d t) ∧ (w = .fresh 0 → CardWithdrawn u d t) ∧
          (¬ inserts → w ≠ .fresh 0 → LinkTold u t ∧ t = { u with display := t.display })) ∧
  (∀ (s : State) (r : FrameRecord) (rest : List FrameRecord) (e : RouteEntry) (x : Extractor) (w : SlotWrite) (d : Driver),
    Lands s r rest e x w → OnlyField s (contParam d) x.a.slot →
    ∃ u t, exec .routedFrame s = .next t ∧ SlotTold (landed s rest e x w) x.a.slot u ∧ u.tacho = s.tacho ∧
      Ripple (fun n => n = 13 ∨ n = contSlot d ∨ n = leftSlot d) u t ∧ OtherDriverKept s d t ∧
      t.tacho.readout = s.tacho.readout ∧ t.tacho.transfer = s.tacho.transfer ∧
      t.tacho.transferTimer = s.tacho.transferTimer ∧
      (∀ v : Nat, w = .fresh v → v ≤ 1439 → (s.driver d).state ≠ .noDriver →
        t.driver d =
            { s.driver d with
              state := .confirmed, contDrive := v, sinceReconcile := 0,
              breakAccum := if v = 0 then 0 else (s.driver d).breakAccum,
              stretch := if v = 0 then 0 else (s.driver d).stretch } ∧
          (t.slot (contSlot d)).value = v ∧ (t.slot (leftSlot d)).value = s.param 17 - v) ∧
      ((∀ v : Nat, w = .fresh v → 1439 < v) ∨ (s.driver d).state = .noDriver →
        LinkTold u t ∧ t = { u with display := t.display }))

/-- A write of the TACHO_SPEED slot, and one of slot 0, is judged by the mismatch monitor, and the first by the silence watch as well; the
mismatch timer confirms the side it timed, in slot 3 and with alert 0xF101; the silence watch's expiry sets the silent mark, with
SENSOR_FAULT, slot 12 at 2, alert 0xF102 pushed as CAUTION with origin SENSOR, and slot 0 in ERROR at its last value. An event
of slot 0 marks DISTANCE_PAGE. That slot 3 is written before 0xF101 is pushed or released, and the order of the effects at the silence
watch's expiry, are the model's choice, log 6; that an expiry command first brings the clock to its timer's moment, log 2. -/
def Obligations.SpeedWatches : Prop :=
  (∀ (s : State) (due : Nat), s.tacho.mismatchTimer = some due →
    (s.tacho.side = .none ∨
        (s.tacho.side = .outside ∧ (s.slot 3).state ≠ .never ∧ (s.slot 3).value ≠ 0) ∨
        (s.tacho.side = .inside ∧ (s.slot 3).state ≠ .never ∧ (s.slot 3).value ≠ 1) →
      exec .mismatchTimerExpiry s = .next { s.reach due with tacho.mismatchTimer := none }) ∧
    (s.tacho.side = .outside → (s.slot 3).state = .never ∨ (s.slot 3).value = 0 →
      ∃ t u, exec .mismatchTimerExpiry s = .next u ∧ u = t.push 0xF101 .caution .speed ∧ Shows t 3 1 ∧ Shows u 3 1 ∧
        u.tacho = { s.tacho with mismatchTimer := none } ∧
        Ripple (fun n => n = 3 ∨ n = 13) { s.reach due with tacho.mismatchTimer := none } t) ∧
    (s.tacho.side = .inside → (s.slot 3).state = .never →
      ∃ t, exec .mismatchTimerExpiry s = .next t ∧ Shows t 3 0 ∧ t.tacho = { s.tacho with mismatchTimer := none } ∧
        Ripple (fun n => n = 3 ∨ n = 13) { s.reach due with tacho.mismatchTimer := none } t) ∧
    (s.tacho.side = .inside → (s.slot 3).state ≠ .never → (s.slot 3).value = 1 →
      ∃ t u, exec .mismatchTimerExpiry s = .next u ∧ u = t.release 0xF101 .speed ∧ Shows t 3 0 ∧ Shows u 3 0 ∧
        u.tacho = { s.tacho with mismatchTimer := none } ∧
        Ripple (fun n => n = 3 ∨ n = 13) { s.reach due with tacho.mismatchTimer := none } t)) ∧
  (∀ (s : State) (due : Nat), s.tacho.watch = some due → s.table.silentMark = false →
    ∃ u t, exec .silenceWatchExpiry s = .next t ∧ Flagged t .sensorFault ∧ (t.slot 12).value = 2 ∧
      (t.slot 0).state = .error ∧ (t.slot 0).value = (s.slot 0).value ∧
      (s.display.link ≠ .off → t.display.dirty.distancePage = true) ∧
      Ripple (fun n => n = 12 ∨ n = 13) { s.reach due with tacho.watch := none, table.silentMark := true } u ∧
      Flagged u .sensorFault ∧ Ripple (fun n => n = 0 ∨ onlyTacho n) (u.push 0xF102 .caution .sensor) t ∧
      (OnlyThePulse s → u.alert = s.alert ∧ t.alert = (u.push 0xF102 .caution .sensor).alert) ∧
      Ripple (fun n => n = 0 ∨ n = 12 ∨ onlyTacho n) { s.reach due with table.silentMark := true } t) ∧
  (∀ (s : State) (r : FrameRecord) (rest : List FrameRecord) (e : RouteEntry) (x : Extractor) (w : SlotWrite),
    Lands s r rest e x w → OnlyField s 10 x.a.slot →
    ∃ u t, exec .routedFrame s = .next t ∧ SlotTold (landed s rest e x w) x.a.slot u ∧ u.tacho = s.tacho ∧
      SpeedJudged u t ∧ WatchJudged u t ∧ LinkTold u t ∧
      t =
        { u with
          tacho.side := t.tacho.side, tacho.mismatchTimer := t.tacho.mismatchTimer, tacho.watch := t.tacho.watch,
          display := t.display }) ∧
  (∀ (s : State) (due : Nat), s.dist.zeroTimer = some due → s.table.silentMark = false →
    (∀ id ∈ [10, 13, 14, 15, 16], s.param id ≠ 0) →
    ∃ u t, exec .zeroTimerExpiry s = .next t ∧
      Ripple (fun n => n = 0 ∨ n = 13)
        { s.reach due with dist.ring := [], dist.lastPulse := none, dist.zeroTimer := none } u ∧
      Shows u 0 0 ∧ u.tacho = s.tacho ∧ SpeedJudged u t ∧
      (s.display.link ≠ .off → t.display.dirty.distancePage = true) ∧
      t = { u with tacho.side := t.tacho.side, tacho.mismatchTimer := t.tacho.mismatchTimer })

/-- The frames of a transfer, the CRC-16 and the layout of the payload. An OPEN in order starts the reception and a DATA in order joins
the payload, each with 500 ms; a CLOSE of a whole payload whose CRC-16 matches and which parses ends it in success: the summary held, the
counters reconciled with it, the driver's three slots following and its page marked; any other frame, and the timer, fails it by its cause. A transfer that starts as the retry of the driver whose timer expired is marked with the moment, for an
abandonment that falls together with it (R143, log 34). -/
def Obligations.TransferFrames : Prop :=
  (crc16 [] = 0xFFFF ∧ crc16 [0x31, 0x32, 0x33, 0x34, 0x35, 0x36, 0x37, 0x38, 0x39] = 0x29B1 ∧
    ∀ (bytes : List Byte) (b : Byte),
      crc16 (bytes ++ [b]) = (crcShift^[8]) (crc16 bytes ^^^ (b.setWidth 16 <<< 8))) ∧
  (∀ (total : Nat) (p : List Byte) (m : Summary), p.length = total →
    (parseSummary total p = some m ↔ SummaryLayout total p m)) ∧
  (∀ (s : State) (r : FrameRecord) (rest : List FrameRecord), AtHead s r rest → s.isXfer r = true → ReadoutOk s.tacho →
    (∀ d attempt, s.tacho.transfer = .requested d attempt →
      (∀ total, readXfer r = some (.opening d total) → 25 ≤ total → total ≤ 49 →
        exec .xferOpen s = .next
          { s with
            intake.queue := rest, tacho.transfer := .receiving d attempt total ((total + 5) / 6) 0 [],
            tacho.transferTimer := some (s.clock + 500000) }) ∧
      (∀ total, readXfer r = some (.opening d total) → total < 25 ∨ 49 < total →
        ∃ t, exec .xferOpen s = .next t ∧ TransferFails { s with intake.queue := rest } d attempt .format t) ∧
      (∀ e total, e ≠ d → readXfer r = some (.opening e total) →
        ∃ t, exec .xferOpen s = .next t ∧ TransferFails { s with intake.queue := rest } d attempt .sequence t) ∧
      (∀ number bytes, readXfer r = some (.data d number bytes) →
        ∃ t, exec .xferData s = .next t ∧ TransferFails { s with intake.queue := rest } d attempt .sequence t) ∧
      (∀ crc, readXfer r = some (.closing d crc) →
        ∃ t, exec .xferClose s = .next t ∧ TransferFails { s with intake.queue := rest } d attempt .sequence t) ∧
      (readXfer r = some (.aborting d) →
        ∃ t, exec .xferAbort s = .next t ∧ TransferFails { s with intake.queue := rest } d attempt .aborted t)) ∧
    (∀ d attempt total expected count payload,
      s.tacho.transfer = .receiving d attempt total expected count payload →
      (∀ announced, readXfer r = some (.opening d announced) →
        ∃ t, exec .xferOpen s = .next t ∧ TransferFails { s with intake.queue := rest } d attempt .sequence t) ∧
      (∀ bytes, readXfer r = some (.data d count bytes) → count < expected →
        exec .xferData s = .next
          { s with
            intake.queue := rest,
            tacho.transfer := .receiving d attempt total expected (count + 1) ((payload ++ bytes).take total),
            tacho.transferTimer := some (s.clock + 500000) }) ∧
      (∀ number bytes, readXfer r = some (.data d number bytes) → expected ≤ count ∨ number ≠ count →
        ∃ t, exec .xferData s = .next t ∧
          TransferFails { s with intake.queue := rest } d attempt (if expected ≤ count then .length else .sequence) t) ∧
      (∀ crc, readXfer r = some (.closing d crc) →
        (count < expected →
          ∃ t, exec .xferClose s = .next t ∧ TransferFails { s with intake.queue := rest } d attempt .length t) ∧
        (expected ≤ count → crc16 payload ≠ crc →
          ∃ t, exec .xferClose s = .next t ∧ TransferFails { s with intake.queue := rest } d attempt .crc t) ∧
        (expected ≤ count → crc16 payload = crc → parseSummary total payload = none →
          ∃ t, exec .xferClose s = .next t ∧ TransferFails { s with intake.queue := rest } d attempt .format t) ∧
        (∀ m, expected ≤ count → crc16 payload = crc → parseSummary total payload = some m →
          ∃ t, exec .xferClose s = .next t ∧
            t.driver d =
              { state := .confirmed, contDrive := m.contDrive, sinceReconcile := 0, summary := some m, outcome := .ok,
                breakAccum := if m.contDrive = 0 then 0 else (s.driver d).breakAccum,
                stretch := if m.contDrive = 0 then 0 else (s.driver d).stretch } ∧
            (∀ e, e ≠ d → t.driver e = s.driver e) ∧ (t.slot (summarySlot d)).value = 2 ∧
            (t.slot (contSlot d)).value = m.contDrive ∧ (t.slot (leftSlot d)).value = s.param 17 - m.contDrive ∧
            (s.display.link ≠ .off → t.display.dirty.has (pageOf d) = true) ∧
            NextTransfer { s with intake.queue := rest } s.tacho.readout t ∧
            (∃ u, Ripple onlyTacho { s with intake.queue := rest } u ∧ (u.slot (summarySlot d)).value = 2 ∧
              Ripple onlyTacho (u.release (readoutCode d) (.tacho d.number)) t) ∧
            Ripple onlyTacho { s with intake.queue := rest } t)) ∧
      (readXfer r = some (.aborting d) →
        ∃ t, exec .xferAbort s = .next t ∧ TransferFails { s with intake.queue := rest } d attempt .aborted t))) ∧
  (∀ (s : State) (due : Nat) (d : Driver) (attempt : Nat), s.tacho.transferTimer = some due → ReadoutOk s.tacho →
    (s.tacho.transfer = .requested d attempt ∨
      ∃ total expected count payload, s.tacho.transfer = .receiving d attempt total expected count payload) →
    ∃ t, exec .transferTimerExpiry s = .next t ∧ TransferFails (s.reach due) d attempt .timeout t ∧
      t.tacho.restarted = if t.tacho.transfer.driver = some d then some t.clock else none)

/-- CARD_READ enqueues a readout with attempt 1 behind its response and answers the number of entries; TACHO_READ answers by selector.
The values the manual leaves open (the attempt and DATA count of an idle record, a driving time that a valid summary does not hold)
hold for every value. -/
def Obligations.TachoRequests : Prop :=
  ∀ (s : State) (r : FrameRecord) (rest : List FrameRecord),
    (Asked 0x40 s r rest →
      (r.byte 2 ≠ 1 → r.byte 2 ≠ 2 → exec .cardRead s = .next (answered s r rest .badArg [])) ∧
      (∀ d : Driver, r.byte 2 = d.number →
        ((s.driver d).state = .noDriver → exec .cardRead s = .next (answered s r rest .wrongState [])) ∧
        ((s.driver d).state ≠ .noDriver →
          ((∃ e ∈ s.tacho.readout, e.driver = d) ∨ s.tacho.transfer.driver = some d →
            exec .cardRead s = .next (answered s r rest .noChange [])) ∧
          ((∀ e ∈ s.tacho.readout, e.driver ≠ d) → s.tacho.transfer.driver ≠ some d →
            ∃ t, exec .cardRead s = .next t ∧ t.tacho.d1 = s.tacho.d1 ∧ t.tacho.d2 = s.tacho.d2 ∧
              Ripple onlyTacho (answered s r rest .ok (u8 (s.tacho.readout.length + 1))) t ∧
              (s.tacho.transfer ≠ .idle ∨ (s.ign.power ≠ .waking ∧ s.ign.power ≠ .run) →
                t =
                  { answered s r rest .ok (u8 (s.tacho.readout.length + 1)) with
                    tacho.readout := s.tacho.readout ++ [{ driver := d, attempt := 1 }] }) ∧
              (s.tacho.transfer = .idle → s.ign.power = .waking ∨ s.ign.power = .run →
                NextTransfer (answered s r rest .ok (u8 (s.tacho.readout.length + 1)))
                  (s.tacho.readout ++ [{ driver := d, attempt := 1 }]) t))))) ∧
    (Asked 0x41 s r rest →
      ((r.byte 2 ≠ 1 ∧ r.byte 2 ≠ 2) ∨ 8 < r.byte 3 ∨ (r.byte 3 = 7 ∧ 3 < r.byte 4) ∨ (r.byte 3 = 8 ∧ 4 < r.byte 4) →
        exec .tachoRead s = .next (answered s r rest .badArg [])) ∧
      (∀ d : Driver, r.byte 2 = d.number →
        (r.byte 3 = 0 →
          exec .tachoRead s = .next (answered s r rest .ok
            (u16 ((s.driver d).contDrive + 16384 * (s.driver d).state.code) ++ u16 (s.driver d).sinceReconcile))) ∧
        (r.byte 3 = 1 →
          exec .tachoRead s = .next (answered s r rest .ok
            (u8 (s.driver d).breakAccum ++ u16 (s.driver d).stretch ++ u8 (s.driver d).outcome.code))) ∧
        (r.byte 3 = 2 → ∃ attempt count : Nat, attempt < 4 ∧ count < 256 ∧
          exec .tachoRead s = .next (answered s r rest .ok
            ((match s.tacho.transfer with
              | .idle => u8 (16 * attempt) ++ u8 count
              | .requested e k => u8 (1 + 4 * e.number + 16 * k) ++ u8 0
              | .receiving e k _ _ n _ => u8 (2 + 4 * e.number + 16 * k) ++ u8 n) ++
              u8 s.tacho.readout.length ++
              u8 (match s.tacho.readout with
                | [] => 0
                | e :: _ => e.driver.number))).useFree) ∧
        (r.byte 3 = 3 →
          exec .tachoRead s = .next (answered s r rest .ok
            (match (s.driver d).summary with
             | none => [0, 0, 0, 0]
             | some m => u8 (m.day + 128) ++ u8 m.month ++ u16 m.year))) ∧
        (r.byte 3 = 4 → ∃ drive : Nat, drive < 32768 ∧
          exec .tachoRead s = .next (answered s r rest .ok
            (match (s.driver d).summary with
             | none => [0, 0, 0, 0]
             | some m =>
               u16 m.contDrive ++ (match m.daily with
                 | some v => u16 (v + 32768)
                 | none => u16 drive))).useFree) ∧
        (r.byte 3 = 5 → ∃ drive : Nat, drive < 32768 ∧
          exec .tachoRead s = .next (answered s r rest .ok
            (match (s.driver d).summary with
             | none => [0, 0, 0, 0]
             | some m =>
               (match m.weekly with
                 | some v => u16 (v + 32768)
                 | none => u16 drive) ++ u8 m.name.length)).useFree) ∧
        (r.byte 3 = 6 →
          exec .tachoRead s = .next (answered s r rest .ok
            (u8 (if s.checking = none then 0 else 1) ++
              u8 (match s.tacho.side with
                | .none => 0
                | .inside => 1
                | .outside => 2) ++
              u8 (if s.tacho.watch = none then 0 else 1)))) ∧
        (r.byte 3 = 7 → r.byte 4 ≤ 3 →
          exec .tachoRead s = .next (answered s r rest .ok
            (match (s.driver d).summary with
             | none => [0, 0, 0, 0]
             | some m =>
               [m.card.getD (4 * r.byte 4) 0, m.card.getD (4 * r.byte 4 + 1) 0, m.card.getD (4 * r.byte 4 + 2) 0,
                m.card.getD (4 * r.byte 4 + 3) 0]))) ∧
        (r.byte 3 = 8 → r.byte 4 ≤ 4 →
          exec .tachoRead s = .next (answered s r rest .ok
            (match (s.driver d).summary with
             | none => [0, 0, 0, 0]
             | some m =>
               [m.name.getD (4 * r.byte 4) 0, m.name.getD (4 * r.byte 4 + 1) 0, m.name.getD (4 * r.byte 4 + 2) 0,
                m.name.getD (4 * r.byte 4 + 3) 0])))))

/-! ### Display link -/

/-- The origin of an alert entry in a display record: its kind's code and its number (R99, R159). -/
def originBytes (o : Origin) : List Byte :=
  match o with
  | .rule n => u8 0 ++ u8 n
  | .gauge n => u8 1 ++ u8 n
  | .lamp n => u8 2 ++ u8 n
  | .speed => u8 3 ++ u8 0
  | .sensor => u8 4 ++ u8 0
  | .tacho n => u8 5 ++ u8 n
  | .port => u8 6 ++ u8 0
  | .config => u8 7 ++ u8 0

/-- The bytes of a record built in the state `s` (R159 to R161, R196), with `daily` and `weekly` for the driving times that a valid
summary does not hold. -/
def recordOf (s : State) (k : RecordKind) (daily weekly : Nat) : List Byte :=
  let page := fun (d : Driver) =>
    u8 3 ++ u8 d.number ++
      (match (s.driver d).state with
       | .noDriver => u8 0 ++ u8 0
       | .estimating => u8 1 ++ u8 1
       | .confirmed => u8 2 ++ u8 0) ++
      u16 (ofSigned 16 (s.slot (contSlot d)).value) ++ s32 (s.slot (leftSlot d)).value ++
      u8 (s.slot (leftSlot d)).state.code ++ u8 (ofSigned 8 (s.slot (summarySlot d)).value) ++
      (match (s.driver d).summary with
       | none => List.replicate 52 0
       | some m =>
         u8 1 ++ (m.card ++ List.replicate 16 0).take 16 ++ u16 m.year ++ u8 m.month ++ u8 m.day ++
           u16 (m.daily.getD daily) ++ u16 (m.weekly.getD weekly) ++
           u8 ((if m.daily = none then 0 else 1) + (if m.weekly = none then 0 else 2)) ++ u8 m.name.length ++
           (m.name ++ List.replicate 20 0).take 20 ++ List.replicate 5 0)
  match k with
  | .topAlert =>
    u8 1 ++ u8 s.alert.stack.length ++
      (match s.alert.stack with
       | [] => List.replicate 14 0
       | e :: _ =>
         u16 e.code ++ u8 e.severity.rank ++ u8 (if e.held then 1 else 0) ++ originBytes e.origin ++ u8 e.repeats ++
           u32 e.raisedAt ++ List.replicate 3 0)
  | .pageSelect =>
    u8 2 ++ u8 s.display.page ++
      u8 (match s.ign.power with
        | .run => 1
        | .parking => 2
        | .waking => 0
        | .sleep => 0) ++ u8 s.telltale.duty
  | .driverPage1 => page .one
  | .driverPage2 => page .two
  | .distancePage =>
    u8 4 ++ u8 (s.slot 0).state.code ++ s32 (s.slot 0).value ++ u8 (ofSigned 8 (s.slot 1).value) ++
      u8 (s.slot 2).state.code ++ s32 (s.slot 2).value
  | .alertList =>
    u8 5 ++ u8 s.alert.stack.length ++
      s.alert.stack.flatMap (fun e => u16 e.code ++ u8 (e.severity.rank + if e.held then 128 else 0)) ++
      List.replicate (48 - 3 * s.alert.stack.length) 0

/-- READY, the ready timer, the retry timer and the transfers move the link: the due record is TOP_ALERT, else PAGE_SELECT, else the
record of the current page; READY is sampled at a transfer's start, and low makes the link WAITING; a transfer removes its kind's mark
and builds its bytes at its start, and lasts 4 µs for each byte, chip select asserted, each byte with its highest bit first. -/
def Obligations.DisplayLink : Prop :=
  (∀ d : Display,
    d.due =
      if d.dirty.topAlert = true then some .topAlert
      else if d.dirty.pageSelect = true then some .pageSelect
      else
        match d.page with
        | 0 => if d.dirty.driverPage1 = true then some .driverPage1 else none
        | 1 => if d.dirty.driverPage2 = true then some .driverPage2 else none
        | 2 => if d.dirty.distancePage = true then some .distancePage else none
        | _ => if d.dirty.alertList = true then some .alertList else none) ∧
  (∀ s : State,
    (s.display.link = .waiting →
      exec .readyRise s = .next { s with pins.ready := true, display := linkChooses s.display true s.clock }) ∧
    (s.display.link ≠ .waiting → exec .readyRise s = .next { s with pins.ready := true }) ∧
    exec .readyFall s = .next { s with pins.ready := false }) ∧
  (∀ (s : State) (due : Nat), s.display.readyTimer = some due →
    exec .readyTimerExpiry s = .next
      { s.reach due with
        display.link := .fault, display.readyTimer := none,
        display.readyTimeout := min (s.display.readyTimeout + 1) 65535,
        display.retryTimer := some (max s.clock due + 500000) }) ∧
  (∀ (s : State) (due : Nat), s.display.retryTimer = some due →
    exec .retryTimerExpiry s = .next
      (if s.pins.ready = true then
        { s.reach due with display := linkChooses s.display true (max s.clock due) }
       else { s.reach due with display.retryTimer := some (max s.clock due + 500000) })) ∧
  (∀ (s : State) (due : Nat) (k : RecordKind), s.display.startTimer = some due → s.display.due = some k →
    (s.pins.ready = false →
      exec .displayTransferStart s = .next
        { s.reach due with
          display.link := .waiting, display.startTimer := none, display.readyTimer := some (max s.clock due + 100000),
          display.retryTimer := none }) ∧
    (s.pins.ready = true → s.alert.stack.length ≤ 16 →
      ∃ bytes t, exec .displayTransferStart s = .next t ∧ t.display.chipSelect = true ∧
        t =
          ({ s.reach due with
            display.dirty := s.display.dirty.unmark k, display.sending := some { kind := k, bytes := bytes },
            display.startTimer := none, display.doneTimer := some (max s.clock due + 4 * bytes.length) } : State).useFree ∧
        bytes.length =
          (match k with
           | .topAlert => 16
           | .pageSelect => 4
           | .driverPage1 => 64
           | .driverPage2 => 64
           | .distancePage => 12
           | .alertList => 50) ∧
        ∃ daily weekly, daily < 65536 ∧ weekly < 65536 ∧ bytes = recordOf s k daily weekly)) ∧
  (∀ bytes : List Byte, (wireBits bytes).length = 8 * bytes.length ∧
    ∀ i, i < 8 * bytes.length → (wireBits bytes)[i]? = some ((bytes.getD (i / 8) 0).getLsbD (7 - i % 8))) ∧
  (∀ (s : State) (due : Nat), s.display.doneTimer = some due →
    exec .displayTransferComplete s = .next
      { s.reach due with
        display := linkChooses
          { s.display with
            sent := min (s.display.sent + 1) 65535, sending := none, doneTimer := none,
            csFree := max s.clock due + 4 } s.pins.ready (max s.clock due) }) ∧
  (∀ d : Display, d.chipSelect = true ↔ d.sending ≠ none)

/-- DISPLAY_READ (R162), and the PAGE button: a press that stays until its 1000 ms mark is long and enqueues a readout of the page's
driver; one that a release of 50 ms ends before it is short and turns the page, with PAGE_SELECT and the new page's record marked. -/
def Obligations.DisplayInputs : Prop :=
  (∀ (s : State) (r : FrameRecord) (rest : List FrameRecord), Asked 0x48 s r rest →
    exec .displayRead s = .next
      (match r.byte 2 with
       | 0 =>
         answered s r rest .ok
           (u8 (match s.display.link with
              | .off => 0
              | .idle => 1
              | .waiting => 2
              | .sending => 3
              | .fault => 4) ++
             u8 s.display.page ++ u8 (if s.pins.ready then 1 else 0) ++
             u8 (bit s.display.dirty.topAlert + 2 * bit s.display.dirty.pageSelect + 4 * bit s.display.dirty.driverPage1 +
               8 * bit s.display.dirty.driverPage2 + 16 * bit s.display.dirty.distancePage +
               32 * bit s.display.dirty.alertList))
       | 1 => answered s r rest .ok (u16 s.display.sent ++ u16 s.display.readyTimeout)
       | _ => answered s r rest .badArg [])) ∧
  (∀ (s : State) (pressed : Bool),
    (s.pins.page = pressed → exec (.pageInputChange pressed) s = .next s) ∧
    (s.pins.page ≠ pressed → s.powered = false ∨ s.ign.power = .sleep →
      exec (.pageInputChange pressed) s = .next { s with pins.page := pressed }) ∧
    (s.pins.page ≠ pressed → s.powered = true → s.ign.power ≠ .sleep →
      (pressed = true → s.display.pagePress = none →
        s.display.pageArmed = true ∨ (∃ due, s.display.pageRelease = some due ∧ due ≤ s.clock) →
        exec (.pageInputChange pressed) s = .next
          { s with
            pins.page := true, display.pageArmed := true, display.pagePress := some s.clock, display.pageKnown := false,
            display.pageRelease := none }) ∧
      (pressed = true →
        s.display.pagePress ≠ none ∨
          (s.display.pageArmed = false ∧ ∀ due, s.display.pageRelease = some due → s.clock < due) →
        exec (.pageInputChange pressed) s = .next { s with pins.page := true, display.pageRelease := none }) ∧
      (∀ began, pressed = false → s.display.pagePress = some began →
        exec (.pageInputChange pressed) s = .next
          (if s.display.pageKnown = true ∨ began + 50000 ≤ s.clock then
            { s with
              pins.page := false, display.pageKnown := true, display.pageRelease := some (s.clock + 50000) }
           else { s with pins.page := false, display.pagePress := none })) ∧
      (pressed = false → s.display.pagePress = none →
        exec (.pageInputChange pressed) s = .next
          (if s.display.pageArmed = true then { s with pins.page := false }
           else { s with pins.page := false, display.pageRelease := some (s.clock + 50000) })))) ∧
  (∀ (s : State) (began due : Nat), s.display.pagePress = some began → s.display.pageRelease = some due →
    due < began + 1000000 →
    ∃ t, exec .pageShortPress s = .next t ∧ t.display.page = (s.display.page + 1) % 4 ∧ t.display.pagePress = none ∧
      t.display.pageRelease = none ∧ t.display.pageArmed = true ∧ t = { s.reach due with display := t.display } ∧
      (s.display.link ≠ .off →
        t.display.dirty.pageSelect = true ∧ t.display.dirty.has (pageRecord ((s.display.page + 1) % 4)) = true)) ∧
  (∀ (s : State) (began : Nat), s.display.pagePress = some began →
    (∀ due, s.display.pageRelease = some due → began + 1000000 ≤ due) →
    ∃ t, exec .pageLongPress s = .next t ∧ t.display.page = s.display.page ∧ t.display.pagePress = none ∧
      t.display.pageArmed = false ∧ t.clock = max s.clock (began + 1000000) ∧
      Ripple onlyTacho
        { s.reach (began + 1000000) with
          display.pagePress := none, display.pageKnown := false, display.pageArmed := false } t ∧
      (2 ≤ s.display.page →
        t =
          { s.reach (began + 1000000) with
            display.pagePress := none, display.pageKnown := false, display.pageArmed := false }) ∧
      (∀ d : Driver, s.display.page + 1 = d.number → (s.driver d).state ≠ .noDriver →
        (∀ e ∈ s.tacho.readout, e.driver ≠ d) → s.tacho.transfer.driver ≠ some d →
        (s.tacho.transfer ≠ .idle ∨ (s.ign.power ≠ .waking ∧ s.ign.power ≠ .run) →
          t.tacho = { s.tacho with readout := s.tacho.readout ++ [{ driver := d, attempt := 1 }] }) ∧
        (s.tacho.transfer = .idle → s.ign.power = .waking ∨ s.ign.power = .run →
          NextTransfer
            { s.reach (began + 1000000) with
              display.pagePress := none, display.pageKnown := false, display.pageArmed := false }
            (s.tacho.readout ++ [{ driver := d, attempt := 1 }]) t)))
end

