-- ==== Sys2Proof/Laws/Bank.lean ====
section
/-! SUPPORT. What reading a bank gives after a write, a fill or a map. -/

namespace Sys2Proof

theorem Bank.get_put_same {α : Type} {n : Nat} (b : Bank α n) (i : Nat) (a d : α) (h : i < n) :
    (b.put i a).get i d = a := by
  have hl : i < b.items.length := by rw [b.len]; exact h
  simp [Bank.get, Bank.put, List.getD_eq_getElem?_getD, hl]

theorem Bank.get_put_other {α : Type} {n : Nat} (b : Bank α n) (i j : Nat) (a d : α) (h : i ≠ j) :
    (b.put i a).get j d = b.get j d := by
  simp [Bank.get, Bank.put, List.getD_eq_getElem?_getD, List.getElem?_set_ne h]

theorem Bank.put_outside {α : Type} {n : Nat} (b : Bank α n) (i : Nat) (a : α) (h : n ≤ i) : b.put i a = b := by
  cases b with
  | mk items len =>
    have hl : items.length ≤ i := by rw [len]; exact h
    simp [Bank.put, List.set_eq_of_length_le hl]

theorem Bank.get_outside {α : Type} {n : Nat} (b : Bank α n) (i : Nat) (d : α) (h : n ≤ i) : b.get i d = d := by
  have hl : b.items.length ≤ i := by rw [b.len]; exact h
  simp [Bank.get, List.getD_eq_getElem?_getD, List.getElem?_eq_none hl]

theorem Bank.get_fill {α : Type} (n i : Nat) (a d : α) (h : i < n) : (Bank.fill n a).get i d = a := by
  simp [Bank.get, Bank.fill, List.getD_eq_getElem?_getD, h]

theorem Bank.get_map {α β : Type} {n : Nat} (b : Bank α n) (f : α → β) (i : Nat) (d : α) :
    (b.map f).get i (f d) = f (b.get i d) := by
  simp only [Bank.get, Bank.map, List.getD_eq_getElem?_getD, List.getElem?_map]
  cases b.items[i]? <;> rfl

theorem Bank.get_map_inside {α β : Type} {n : Nat} (b : Bank α n) (f : α → β) (i : Nat) (d : α) (e : β) (h : i < n) :
    (b.map f).get i e = f (b.get i d) := by
  have hl : i < b.items.length := by rw [b.len]; exact h
  simp [Bank.get, Bank.map, List.getD_eq_getElem?_getD, hl]

theorem Bank.ext_items {α : Type} {n : Nat} (b c : Bank α n) (h : b.items = c.items) : b = c := by
  cases b; cases c; cases h; rfl

/-- Every record of a bank satisfies a test exactly when the record at each place does. -/
theorem Bank.all_iff {α : Type} {n : Nat} (b : Bank α n) (d : α) (p : α → Bool) : b.items.all p = true ↔ ∀ c, c < n → p (b.get c d) = true := by
  rw [List.all_eq_true]
  constructor
  · intro h c hc
    apply h
    unfold Bank.get
    have : c < b.items.length := by rw [b.len]; exact hc
    rw [List.getD_eq_getElem?_getD, List.getElem?_eq_getElem this]
    exact List.getElem_mem _
  · intro h x hx
    obtain ⟨c, hc, e⟩ := List.mem_iff_getElem.mp hx
    have := h c (by rw [← b.len]; exact hc)
    unfold Bank.get at this
    rw [List.getD_eq_getElem?_getD, List.getElem?_eq_getElem hc] at this
    simpa [e] using this

theorem satInc_le (most n : Nat) : satInc most n ≤ most := Nat.min_le_right _ _

end Sys2Proof
end

