-- ==== Sys2Proof/Laws/State.lean ====
section
/-! SUPPORT. What each update of the state leaves alone: one lemma for each field, and what reading back gives. -/

namespace Sys2Proof.Machine

/-! `reach` -/

@[simp] theorem State.reach_powered (s : State) (due : Nat) : (s.reach due).powered = s.powered := rfl
@[simp] theorem State.reach_ign (s : State) (due : Nat) : (s.reach due).ign = s.ign := rfl
@[simp] theorem State.reach_pins (s : State) (due : Nat) : (s.reach due).pins = s.pins := rfl
@[simp] theorem State.reach_portT (s : State) (due : Nat) : (s.reach due).portT = s.portT := rfl
@[simp] theorem State.reach_portL (s : State) (due : Nat) : (s.reach due).portL = s.portL := rfl
@[simp] theorem State.reach_intake (s : State) (due : Nat) : (s.reach due).intake = s.intake := rfl
@[simp] theorem State.reach_table (s : State) (due : Nat) : (s.reach due).table = s.table := rfl
@[simp] theorem State.reach_gauges (s : State) (due : Nat) : (s.reach due).gauges = s.gauges := rfl
@[simp] theorem State.reach_telltale (s : State) (due : Nat) : (s.reach due).telltale = s.telltale := rfl
@[simp] theorem State.reach_alert (s : State) (due : Nat) : (s.reach due).alert = s.alert := rfl
@[simp] theorem State.reach_dist (s : State) (due : Nat) : (s.reach due).dist = s.dist := rfl
@[simp] theorem State.reach_tacho (s : State) (due : Nat) : (s.reach due).tacho = s.tacho := rfl
@[simp] theorem State.reach_display (s : State) (due : Nat) : (s.reach due).display = s.display := rfl
@[simp] theorem State.reach_mgmt (s : State) (due : Nat) : (s.reach due).mgmt = s.mgmt := rfl
@[simp] theorem State.reach_store (s : State) (due : Nat) : (s.reach due).store = s.store := rfl
@[simp] theorem State.reach_fresh (s : State) (due : Nat) : (s.reach due).fresh = s.fresh := rfl
@[simp] theorem State.reach_pending (s : State) (due : Nat) : (s.reach due).pending = s.pending := rfl

/-! `putSlot` -/

@[simp] theorem State.putSlot_clock (s : State) (n : Nat) (r : SlotRecord) : (s.putSlot n r).clock = s.clock := rfl
@[simp] theorem State.putSlot_powered (s : State) (n : Nat) (r : SlotRecord) : (s.putSlot n r).powered = s.powered := rfl
@[simp] theorem State.putSlot_ign (s : State) (n : Nat) (r : SlotRecord) : (s.putSlot n r).ign = s.ign := rfl
@[simp] theorem State.putSlot_pins (s : State) (n : Nat) (r : SlotRecord) : (s.putSlot n r).pins = s.pins := rfl
@[simp] theorem State.putSlot_portT (s : State) (n : Nat) (r : SlotRecord) : (s.putSlot n r).portT = s.portT := rfl
@[simp] theorem State.putSlot_portL (s : State) (n : Nat) (r : SlotRecord) : (s.putSlot n r).portL = s.portL := rfl
@[simp] theorem State.putSlot_intake (s : State) (n : Nat) (r : SlotRecord) : (s.putSlot n r).intake = s.intake := rfl
@[simp] theorem State.putSlot_gauges (s : State) (n : Nat) (r : SlotRecord) : (s.putSlot n r).gauges = s.gauges := rfl
@[simp] theorem State.putSlot_telltale (s : State) (n : Nat) (r : SlotRecord) : (s.putSlot n r).telltale = s.telltale := rfl
@[simp] theorem State.putSlot_alert (s : State) (n : Nat) (r : SlotRecord) : (s.putSlot n r).alert = s.alert := rfl
@[simp] theorem State.putSlot_dist (s : State) (n : Nat) (r : SlotRecord) : (s.putSlot n r).dist = s.dist := rfl
@[simp] theorem State.putSlot_tacho (s : State) (n : Nat) (r : SlotRecord) : (s.putSlot n r).tacho = s.tacho := rfl
@[simp] theorem State.putSlot_display (s : State) (n : Nat) (r : SlotRecord) : (s.putSlot n r).display = s.display := rfl
@[simp] theorem State.putSlot_mgmt (s : State) (n : Nat) (r : SlotRecord) : (s.putSlot n r).mgmt = s.mgmt := rfl
@[simp] theorem State.putSlot_store (s : State) (n : Nat) (r : SlotRecord) : (s.putSlot n r).store = s.store := rfl
@[simp] theorem State.putSlot_fresh (s : State) (n : Nat) (r : SlotRecord) : (s.putSlot n r).fresh = s.fresh := rfl
@[simp] theorem State.putSlot_pending (s : State) (n : Nat) (r : SlotRecord) : (s.putSlot n r).pending = s.pending := rfl

/-! `writeRecord` -/

@[simp] theorem State.writeRecord_clock (s : State) (n : Nat) (w : SlotWrite) : (s.writeRecord n w).clock = s.clock := rfl
@[simp] theorem State.writeRecord_powered (s : State) (n : Nat) (w : SlotWrite) : (s.writeRecord n w).powered = s.powered := rfl
@[simp] theorem State.writeRecord_ign (s : State) (n : Nat) (w : SlotWrite) : (s.writeRecord n w).ign = s.ign := rfl
@[simp] theorem State.writeRecord_pins (s : State) (n : Nat) (w : SlotWrite) : (s.writeRecord n w).pins = s.pins := rfl
@[simp] theorem State.writeRecord_portT (s : State) (n : Nat) (w : SlotWrite) : (s.writeRecord n w).portT = s.portT := rfl
@[simp] theorem State.writeRecord_portL (s : State) (n : Nat) (w : SlotWrite) : (s.writeRecord n w).portL = s.portL := rfl
@[simp] theorem State.writeRecord_intake (s : State) (n : Nat) (w : SlotWrite) : (s.writeRecord n w).intake = s.intake := rfl
@[simp] theorem State.writeRecord_gauges (s : State) (n : Nat) (w : SlotWrite) : (s.writeRecord n w).gauges = s.gauges := rfl
@[simp] theorem State.writeRecord_telltale (s : State) (n : Nat) (w : SlotWrite) : (s.writeRecord n w).telltale = s.telltale := rfl
@[simp] theorem State.writeRecord_alert (s : State) (n : Nat) (w : SlotWrite) : (s.writeRecord n w).alert = s.alert := rfl
@[simp] theorem State.writeRecord_dist (s : State) (n : Nat) (w : SlotWrite) : (s.writeRecord n w).dist = s.dist := rfl
@[simp] theorem State.writeRecord_tacho (s : State) (n : Nat) (w : SlotWrite) : (s.writeRecord n w).tacho = s.tacho := rfl
@[simp] theorem State.writeRecord_display (s : State) (n : Nat) (w : SlotWrite) : (s.writeRecord n w).display = s.display := rfl
@[simp] theorem State.writeRecord_mgmt (s : State) (n : Nat) (w : SlotWrite) : (s.writeRecord n w).mgmt = s.mgmt := rfl
@[simp] theorem State.writeRecord_store (s : State) (n : Nat) (w : SlotWrite) : (s.writeRecord n w).store = s.store := rfl
@[simp] theorem State.writeRecord_fresh (s : State) (n : Nat) (w : SlotWrite) : (s.writeRecord n w).fresh = s.fresh := rfl
@[simp] theorem State.writeRecord_pending (s : State) (n : Nat) (w : SlotWrite) : (s.writeRecord n w).pending = s.pending := rfl

/-! `putChannel` -/

@[simp] theorem State.putChannel_clock (s : State) (c : Nat) (h : Channel) : (s.putChannel c h).clock = s.clock := rfl
@[simp] theorem State.putChannel_powered (s : State) (c : Nat) (h : Channel) : (s.putChannel c h).powered = s.powered := rfl
@[simp] theorem State.putChannel_ign (s : State) (c : Nat) (h : Channel) : (s.putChannel c h).ign = s.ign := rfl
@[simp] theorem State.putChannel_pins (s : State) (c : Nat) (h : Channel) : (s.putChannel c h).pins = s.pins := rfl
@[simp] theorem State.putChannel_portT (s : State) (c : Nat) (h : Channel) : (s.putChannel c h).portT = s.portT := rfl
@[simp] theorem State.putChannel_portL (s : State) (c : Nat) (h : Channel) : (s.putChannel c h).portL = s.portL := rfl
@[simp] theorem State.putChannel_intake (s : State) (c : Nat) (h : Channel) : (s.putChannel c h).intake = s.intake := rfl
@[simp] theorem State.putChannel_table (s : State) (c : Nat) (h : Channel) : (s.putChannel c h).table = s.table := rfl
@[simp] theorem State.putChannel_telltale (s : State) (c : Nat) (h : Channel) : (s.putChannel c h).telltale = s.telltale := rfl
@[simp] theorem State.putChannel_alert (s : State) (c : Nat) (h : Channel) : (s.putChannel c h).alert = s.alert := rfl
@[simp] theorem State.putChannel_dist (s : State) (c : Nat) (h : Channel) : (s.putChannel c h).dist = s.dist := rfl
@[simp] theorem State.putChannel_tacho (s : State) (c : Nat) (h : Channel) : (s.putChannel c h).tacho = s.tacho := rfl
@[simp] theorem State.putChannel_display (s : State) (c : Nat) (h : Channel) : (s.putChannel c h).display = s.display := rfl
@[simp] theorem State.putChannel_mgmt (s : State) (c : Nat) (h : Channel) : (s.putChannel c h).mgmt = s.mgmt := rfl
@[simp] theorem State.putChannel_store (s : State) (c : Nat) (h : Channel) : (s.putChannel c h).store = s.store := rfl
@[simp] theorem State.putChannel_fresh (s : State) (c : Nat) (h : Channel) : (s.putChannel c h).fresh = s.fresh := rfl
@[simp] theorem State.putChannel_pending (s : State) (c : Nat) (h : Channel) : (s.putChannel c h).pending = s.pending := rfl

/-! `gaugeEvent` -/

@[simp] theorem State.gaugeEvent_clock (s : State) (n : Nat) : (s.gaugeEvent n).clock = s.clock := rfl
@[simp] theorem State.gaugeEvent_powered (s : State) (n : Nat) : (s.gaugeEvent n).powered = s.powered := rfl
@[simp] theorem State.gaugeEvent_ign (s : State) (n : Nat) : (s.gaugeEvent n).ign = s.ign := rfl
@[simp] theorem State.gaugeEvent_pins (s : State) (n : Nat) : (s.gaugeEvent n).pins = s.pins := rfl
@[simp] theorem State.gaugeEvent_portT (s : State) (n : Nat) : (s.gaugeEvent n).portT = s.portT := rfl
@[simp] theorem State.gaugeEvent_portL (s : State) (n : Nat) : (s.gaugeEvent n).portL = s.portL := rfl
@[simp] theorem State.gaugeEvent_intake (s : State) (n : Nat) : (s.gaugeEvent n).intake = s.intake := rfl
@[simp] theorem State.gaugeEvent_table (s : State) (n : Nat) : (s.gaugeEvent n).table = s.table := rfl
@[simp] theorem State.gaugeEvent_telltale (s : State) (n : Nat) : (s.gaugeEvent n).telltale = s.telltale := rfl
@[simp] theorem State.gaugeEvent_alert (s : State) (n : Nat) : (s.gaugeEvent n).alert = s.alert := rfl
@[simp] theorem State.gaugeEvent_dist (s : State) (n : Nat) : (s.gaugeEvent n).dist = s.dist := rfl
@[simp] theorem State.gaugeEvent_tacho (s : State) (n : Nat) : (s.gaugeEvent n).tacho = s.tacho := rfl
@[simp] theorem State.gaugeEvent_display (s : State) (n : Nat) : (s.gaugeEvent n).display = s.display := rfl
@[simp] theorem State.gaugeEvent_mgmt (s : State) (n : Nat) : (s.gaugeEvent n).mgmt = s.mgmt := rfl
@[simp] theorem State.gaugeEvent_store (s : State) (n : Nat) : (s.gaugeEvent n).store = s.store := rfl
@[simp] theorem State.gaugeEvent_fresh (s : State) (n : Nat) : (s.gaugeEvent n).fresh = s.fresh := rfl
@[simp] theorem State.gaugeEvent_pending (s : State) (n : Nat) : (s.gaugeEvent n).pending = s.pending := rfl

/-! `putRule` -/

@[simp] theorem State.putRule_clock (s : State) (i : Nat) (r : Rule) : (s.putRule i r).clock = s.clock := rfl
@[simp] theorem State.putRule_powered (s : State) (i : Nat) (r : Rule) : (s.putRule i r).powered = s.powered := rfl
@[simp] theorem State.putRule_ign (s : State) (i : Nat) (r : Rule) : (s.putRule i r).ign = s.ign := rfl
@[simp] theorem State.putRule_pins (s : State) (i : Nat) (r : Rule) : (s.putRule i r).pins = s.pins := rfl
@[simp] theorem State.putRule_portT (s : State) (i : Nat) (r : Rule) : (s.putRule i r).portT = s.portT := rfl
@[simp] theorem State.putRule_portL (s : State) (i : Nat) (r : Rule) : (s.putRule i r).portL = s.portL := rfl
@[simp] theorem State.putRule_intake (s : State) (i : Nat) (r : Rule) : (s.putRule i r).intake = s.intake := rfl
@[simp] theorem State.putRule_table (s : State) (i : Nat) (r : Rule) : (s.putRule i r).table = s.table := rfl
@[simp] theorem State.putRule_gauges (s : State) (i : Nat) (r : Rule) : (s.putRule i r).gauges = s.gauges := rfl
@[simp] theorem State.putRule_alert (s : State) (i : Nat) (r : Rule) : (s.putRule i r).alert = s.alert := rfl
@[simp] theorem State.putRule_dist (s : State) (i : Nat) (r : Rule) : (s.putRule i r).dist = s.dist := rfl
@[simp] theorem State.putRule_tacho (s : State) (i : Nat) (r : Rule) : (s.putRule i r).tacho = s.tacho := rfl
@[simp] theorem State.putRule_display (s : State) (i : Nat) (r : Rule) : (s.putRule i r).display = s.display := rfl
@[simp] theorem State.putRule_mgmt (s : State) (i : Nat) (r : Rule) : (s.putRule i r).mgmt = s.mgmt := rfl
@[simp] theorem State.putRule_store (s : State) (i : Nat) (r : Rule) : (s.putRule i r).store = s.store := rfl
@[simp] theorem State.putRule_fresh (s : State) (i : Nat) (r : Rule) : (s.putRule i r).fresh = s.fresh := rfl
@[simp] theorem State.putRule_pending (s : State) (i : Nat) (r : Rule) : (s.putRule i r).pending = s.pending := rfl

/-! `putLamp` -/

@[simp] theorem State.putLamp_clock (s : State) (n : Nat) (l : Lamp) : (s.putLamp n l).clock = s.clock := rfl
@[simp] theorem State.putLamp_powered (s : State) (n : Nat) (l : Lamp) : (s.putLamp n l).powered = s.powered := rfl
@[simp] theorem State.putLamp_ign (s : State) (n : Nat) (l : Lamp) : (s.putLamp n l).ign = s.ign := rfl
@[simp] theorem State.putLamp_pins (s : State) (n : Nat) (l : Lamp) : (s.putLamp n l).pins = s.pins := rfl
@[simp] theorem State.putLamp_portT (s : State) (n : Nat) (l : Lamp) : (s.putLamp n l).portT = s.portT := rfl
@[simp] theorem State.putLamp_portL (s : State) (n : Nat) (l : Lamp) : (s.putLamp n l).portL = s.portL := rfl
@[simp] theorem State.putLamp_intake (s : State) (n : Nat) (l : Lamp) : (s.putLamp n l).intake = s.intake := rfl
@[simp] theorem State.putLamp_table (s : State) (n : Nat) (l : Lamp) : (s.putLamp n l).table = s.table := rfl
@[simp] theorem State.putLamp_gauges (s : State) (n : Nat) (l : Lamp) : (s.putLamp n l).gauges = s.gauges := rfl
@[simp] theorem State.putLamp_alert (s : State) (n : Nat) (l : Lamp) : (s.putLamp n l).alert = s.alert := rfl
@[simp] theorem State.putLamp_dist (s : State) (n : Nat) (l : Lamp) : (s.putLamp n l).dist = s.dist := rfl
@[simp] theorem State.putLamp_tacho (s : State) (n : Nat) (l : Lamp) : (s.putLamp n l).tacho = s.tacho := rfl
@[simp] theorem State.putLamp_display (s : State) (n : Nat) (l : Lamp) : (s.putLamp n l).display = s.display := rfl
@[simp] theorem State.putLamp_mgmt (s : State) (n : Nat) (l : Lamp) : (s.putLamp n l).mgmt = s.mgmt := rfl
@[simp] theorem State.putLamp_store (s : State) (n : Nat) (l : Lamp) : (s.putLamp n l).store = s.store := rfl
@[simp] theorem State.putLamp_fresh (s : State) (n : Nat) (l : Lamp) : (s.putLamp n l).fresh = s.fresh := rfl
@[simp] theorem State.putLamp_pending (s : State) (n : Nat) (l : Lamp) : (s.putLamp n l).pending = s.pending := rfl

/-! `setStack` -/

@[simp] theorem State.setStack_clock (s : State) (k : List AlertEntry) : (s.setStack k).clock = s.clock := rfl
@[simp] theorem State.setStack_powered (s : State) (k : List AlertEntry) : (s.setStack k).powered = s.powered := rfl
@[simp] theorem State.setStack_ign (s : State) (k : List AlertEntry) : (s.setStack k).ign = s.ign := rfl
@[simp] theorem State.setStack_pins (s : State) (k : List AlertEntry) : (s.setStack k).pins = s.pins := rfl
@[simp] theorem State.setStack_portT (s : State) (k : List AlertEntry) : (s.setStack k).portT = s.portT := rfl
@[simp] theorem State.setStack_portL (s : State) (k : List AlertEntry) : (s.setStack k).portL = s.portL := rfl
@[simp] theorem State.setStack_intake (s : State) (k : List AlertEntry) : (s.setStack k).intake = s.intake := rfl
@[simp] theorem State.setStack_table (s : State) (k : List AlertEntry) : (s.setStack k).table = s.table := rfl
@[simp] theorem State.setStack_gauges (s : State) (k : List AlertEntry) : (s.setStack k).gauges = s.gauges := rfl
@[simp] theorem State.setStack_telltale (s : State) (k : List AlertEntry) : (s.setStack k).telltale = s.telltale := rfl
@[simp] theorem State.setStack_dist (s : State) (k : List AlertEntry) : (s.setStack k).dist = s.dist := rfl
@[simp] theorem State.setStack_tacho (s : State) (k : List AlertEntry) : (s.setStack k).tacho = s.tacho := rfl
@[simp] theorem State.setStack_display (s : State) (k : List AlertEntry) : (s.setStack k).display = s.display := rfl
@[simp] theorem State.setStack_mgmt (s : State) (k : List AlertEntry) : (s.setStack k).mgmt = s.mgmt := rfl
@[simp] theorem State.setStack_store (s : State) (k : List AlertEntry) : (s.setStack k).store = s.store := rfl
@[simp] theorem State.setStack_fresh (s : State) (k : List AlertEntry) : (s.setStack k).fresh = s.fresh := rfl
@[simp] theorem State.setStack_pending (s : State) (k : List AlertEntry) : (s.setStack k).pending = s.pending := rfl

/-! `chimeIdle` -/

@[simp] theorem State.chimeIdle_clock (s : State) : (s.chimeIdle).clock = s.clock := rfl
@[simp] theorem State.chimeIdle_powered (s : State) : (s.chimeIdle).powered = s.powered := rfl
@[simp] theorem State.chimeIdle_ign (s : State) : (s.chimeIdle).ign = s.ign := rfl
@[simp] theorem State.chimeIdle_pins (s : State) : (s.chimeIdle).pins = s.pins := rfl
@[simp] theorem State.chimeIdle_portT (s : State) : (s.chimeIdle).portT = s.portT := rfl
@[simp] theorem State.chimeIdle_portL (s : State) : (s.chimeIdle).portL = s.portL := rfl
@[simp] theorem State.chimeIdle_intake (s : State) : (s.chimeIdle).intake = s.intake := rfl
@[simp] theorem State.chimeIdle_table (s : State) : (s.chimeIdle).table = s.table := rfl
@[simp] theorem State.chimeIdle_gauges (s : State) : (s.chimeIdle).gauges = s.gauges := rfl
@[simp] theorem State.chimeIdle_telltale (s : State) : (s.chimeIdle).telltale = s.telltale := rfl
@[simp] theorem State.chimeIdle_dist (s : State) : (s.chimeIdle).dist = s.dist := rfl
@[simp] theorem State.chimeIdle_tacho (s : State) : (s.chimeIdle).tacho = s.tacho := rfl
@[simp] theorem State.chimeIdle_display (s : State) : (s.chimeIdle).display = s.display := rfl
@[simp] theorem State.chimeIdle_mgmt (s : State) : (s.chimeIdle).mgmt = s.mgmt := rfl
@[simp] theorem State.chimeIdle_store (s : State) : (s.chimeIdle).store = s.store := rfl
@[simp] theorem State.chimeIdle_fresh (s : State) : (s.chimeIdle).fresh = s.fresh := rfl
@[simp] theorem State.chimeIdle_pending (s : State) : (s.chimeIdle).pending = s.pending := rfl

/-! `chimeInterval` -/

@[simp] theorem State.chimeInterval_clock (s : State) (p : ChimePattern) (b k : Nat) (o : Bool) (l : Nat) : (s.chimeInterval p b k o l).clock = s.clock := rfl
@[simp] theorem State.chimeInterval_powered (s : State) (p : ChimePattern) (b k : Nat) (o : Bool) (l : Nat) : (s.chimeInterval p b k o l).powered = s.powered := rfl
@[simp] theorem State.chimeInterval_ign (s : State) (p : ChimePattern) (b k : Nat) (o : Bool) (l : Nat) : (s.chimeInterval p b k o l).ign = s.ign := rfl
@[simp] theorem State.chimeInterval_pins (s : State) (p : ChimePattern) (b k : Nat) (o : Bool) (l : Nat) : (s.chimeInterval p b k o l).pins = s.pins := rfl
@[simp] theorem State.chimeInterval_portT (s : State) (p : ChimePattern) (b k : Nat) (o : Bool) (l : Nat) : (s.chimeInterval p b k o l).portT = s.portT := rfl
@[simp] theorem State.chimeInterval_portL (s : State) (p : ChimePattern) (b k : Nat) (o : Bool) (l : Nat) : (s.chimeInterval p b k o l).portL = s.portL := rfl
@[simp] theorem State.chimeInterval_intake (s : State) (p : ChimePattern) (b k : Nat) (o : Bool) (l : Nat) : (s.chimeInterval p b k o l).intake = s.intake := rfl
@[simp] theorem State.chimeInterval_table (s : State) (p : ChimePattern) (b k : Nat) (o : Bool) (l : Nat) : (s.chimeInterval p b k o l).table = s.table := rfl
@[simp] theorem State.chimeInterval_gauges (s : State) (p : ChimePattern) (b k : Nat) (o : Bool) (l : Nat) : (s.chimeInterval p b k o l).gauges = s.gauges := rfl
@[simp] theorem State.chimeInterval_telltale (s : State) (p : ChimePattern) (b k : Nat) (o : Bool) (l : Nat) : (s.chimeInterval p b k o l).telltale = s.telltale := rfl
@[simp] theorem State.chimeInterval_dist (s : State) (p : ChimePattern) (b k : Nat) (o : Bool) (l : Nat) : (s.chimeInterval p b k o l).dist = s.dist := rfl
@[simp] theorem State.chimeInterval_tacho (s : State) (p : ChimePattern) (b k : Nat) (o : Bool) (l : Nat) : (s.chimeInterval p b k o l).tacho = s.tacho := rfl
@[simp] theorem State.chimeInterval_display (s : State) (p : ChimePattern) (b k : Nat) (o : Bool) (l : Nat) : (s.chimeInterval p b k o l).display = s.display := rfl
@[simp] theorem State.chimeInterval_mgmt (s : State) (p : ChimePattern) (b k : Nat) (o : Bool) (l : Nat) : (s.chimeInterval p b k o l).mgmt = s.mgmt := rfl
@[simp] theorem State.chimeInterval_store (s : State) (p : ChimePattern) (b k : Nat) (o : Bool) (l : Nat) : (s.chimeInterval p b k o l).store = s.store := rfl
@[simp] theorem State.chimeInterval_fresh (s : State) (p : ChimePattern) (b k : Nat) (o : Bool) (l : Nat) : (s.chimeInterval p b k o l).fresh = s.fresh := rfl
@[simp] theorem State.chimeInterval_pending (s : State) (p : ChimePattern) (b k : Nat) (o : Bool) (l : Nat) : (s.chimeInterval p b k o l).pending = s.pending := rfl

/-! `setFlag` -/

@[simp] theorem State.setFlag_clock (s : State) (f : EventFlag) : (s.setFlag f).clock = s.clock := rfl
@[simp] theorem State.setFlag_powered (s : State) (f : EventFlag) : (s.setFlag f).powered = s.powered := rfl
@[simp] theorem State.setFlag_ign (s : State) (f : EventFlag) : (s.setFlag f).ign = s.ign := rfl
@[simp] theorem State.setFlag_pins (s : State) (f : EventFlag) : (s.setFlag f).pins = s.pins := rfl
@[simp] theorem State.setFlag_portT (s : State) (f : EventFlag) : (s.setFlag f).portT = s.portT := rfl
@[simp] theorem State.setFlag_portL (s : State) (f : EventFlag) : (s.setFlag f).portL = s.portL := rfl
@[simp] theorem State.setFlag_intake (s : State) (f : EventFlag) : (s.setFlag f).intake = s.intake := rfl
@[simp] theorem State.setFlag_table (s : State) (f : EventFlag) : (s.setFlag f).table = s.table := rfl
@[simp] theorem State.setFlag_gauges (s : State) (f : EventFlag) : (s.setFlag f).gauges = s.gauges := rfl
@[simp] theorem State.setFlag_telltale (s : State) (f : EventFlag) : (s.setFlag f).telltale = s.telltale := rfl
@[simp] theorem State.setFlag_alert (s : State) (f : EventFlag) : (s.setFlag f).alert = s.alert := rfl
@[simp] theorem State.setFlag_dist (s : State) (f : EventFlag) : (s.setFlag f).dist = s.dist := rfl
@[simp] theorem State.setFlag_tacho (s : State) (f : EventFlag) : (s.setFlag f).tacho = s.tacho := rfl
@[simp] theorem State.setFlag_display (s : State) (f : EventFlag) : (s.setFlag f).display = s.display := rfl
@[simp] theorem State.setFlag_store (s : State) (f : EventFlag) : (s.setFlag f).store = s.store := rfl
@[simp] theorem State.setFlag_fresh (s : State) (f : EventFlag) : (s.setFlag f).fresh = s.fresh := rfl
@[simp] theorem State.setFlag_pending (s : State) (f : EventFlag) : (s.setFlag f).pending = s.pending := rfl

/-! `setHeld` -/

@[simp] theorem State.setHeld_clock (s : State) (i : Nat) (v : Int) : (s.setHeld i v).clock = s.clock := rfl
@[simp] theorem State.setHeld_powered (s : State) (i : Nat) (v : Int) : (s.setHeld i v).powered = s.powered := rfl
@[simp] theorem State.setHeld_ign (s : State) (i : Nat) (v : Int) : (s.setHeld i v).ign = s.ign := rfl
@[simp] theorem State.setHeld_pins (s : State) (i : Nat) (v : Int) : (s.setHeld i v).pins = s.pins := rfl
@[simp] theorem State.setHeld_portT (s : State) (i : Nat) (v : Int) : (s.setHeld i v).portT = s.portT := rfl
@[simp] theorem State.setHeld_portL (s : State) (i : Nat) (v : Int) : (s.setHeld i v).portL = s.portL := rfl
@[simp] theorem State.setHeld_intake (s : State) (i : Nat) (v : Int) : (s.setHeld i v).intake = s.intake := rfl
@[simp] theorem State.setHeld_table (s : State) (i : Nat) (v : Int) : (s.setHeld i v).table = s.table := rfl
@[simp] theorem State.setHeld_gauges (s : State) (i : Nat) (v : Int) : (s.setHeld i v).gauges = s.gauges := rfl
@[simp] theorem State.setHeld_telltale (s : State) (i : Nat) (v : Int) : (s.setHeld i v).telltale = s.telltale := rfl
@[simp] theorem State.setHeld_alert (s : State) (i : Nat) (v : Int) : (s.setHeld i v).alert = s.alert := rfl
@[simp] theorem State.setHeld_dist (s : State) (i : Nat) (v : Int) : (s.setHeld i v).dist = s.dist := rfl
@[simp] theorem State.setHeld_tacho (s : State) (i : Nat) (v : Int) : (s.setHeld i v).tacho = s.tacho := rfl
@[simp] theorem State.setHeld_display (s : State) (i : Nat) (v : Int) : (s.setHeld i v).display = s.display := rfl
@[simp] theorem State.setHeld_store (s : State) (i : Nat) (v : Int) : (s.setHeld i v).store = s.store := rfl
@[simp] theorem State.setHeld_fresh (s : State) (i : Nat) (v : Int) : (s.setHeld i v).fresh = s.fresh := rfl
@[simp] theorem State.setHeld_pending (s : State) (i : Nat) (v : Int) : (s.setHeld i v).pending = s.pending := rfl

/-! `useFree` -/

@[simp] theorem State.useFree_clock (s : State) : (s.useFree).clock = s.clock := rfl
@[simp] theorem State.useFree_powered (s : State) : (s.useFree).powered = s.powered := rfl
@[simp] theorem State.useFree_ign (s : State) : (s.useFree).ign = s.ign := rfl
@[simp] theorem State.useFree_pins (s : State) : (s.useFree).pins = s.pins := rfl
@[simp] theorem State.useFree_portT (s : State) : (s.useFree).portT = s.portT := rfl
@[simp] theorem State.useFree_portL (s : State) : (s.useFree).portL = s.portL := rfl
@[simp] theorem State.useFree_intake (s : State) : (s.useFree).intake = s.intake := rfl
@[simp] theorem State.useFree_table (s : State) : (s.useFree).table = s.table := rfl
@[simp] theorem State.useFree_gauges (s : State) : (s.useFree).gauges = s.gauges := rfl
@[simp] theorem State.useFree_telltale (s : State) : (s.useFree).telltale = s.telltale := rfl
@[simp] theorem State.useFree_alert (s : State) : (s.useFree).alert = s.alert := rfl
@[simp] theorem State.useFree_dist (s : State) : (s.useFree).dist = s.dist := rfl
@[simp] theorem State.useFree_tacho (s : State) : (s.useFree).tacho = s.tacho := rfl
@[simp] theorem State.useFree_display (s : State) : (s.useFree).display = s.display := rfl
@[simp] theorem State.useFree_mgmt (s : State) : (s.useFree).mgmt = s.mgmt := rfl
@[simp] theorem State.useFree_store (s : State) : (s.useFree).store = s.store := rfl
@[simp] theorem State.useFree_pending (s : State) : (s.useFree).pending = s.pending := rfl

/-! `idleTransfer` -/

@[simp] theorem State.idleTransfer_clock (s : State) : (s.idleTransfer).clock = s.clock := rfl
@[simp] theorem State.idleTransfer_powered (s : State) : (s.idleTransfer).powered = s.powered := rfl
@[simp] theorem State.idleTransfer_ign (s : State) : (s.idleTransfer).ign = s.ign := rfl
@[simp] theorem State.idleTransfer_pins (s : State) : (s.idleTransfer).pins = s.pins := rfl
@[simp] theorem State.idleTransfer_portT (s : State) : (s.idleTransfer).portT = s.portT := rfl
@[simp] theorem State.idleTransfer_portL (s : State) : (s.idleTransfer).portL = s.portL := rfl
@[simp] theorem State.idleTransfer_intake (s : State) : (s.idleTransfer).intake = s.intake := rfl
@[simp] theorem State.idleTransfer_table (s : State) : (s.idleTransfer).table = s.table := rfl
@[simp] theorem State.idleTransfer_gauges (s : State) : (s.idleTransfer).gauges = s.gauges := rfl
@[simp] theorem State.idleTransfer_telltale (s : State) : (s.idleTransfer).telltale = s.telltale := rfl
@[simp] theorem State.idleTransfer_alert (s : State) : (s.idleTransfer).alert = s.alert := rfl
@[simp] theorem State.idleTransfer_dist (s : State) : (s.idleTransfer).dist = s.dist := rfl
@[simp] theorem State.idleTransfer_display (s : State) : (s.idleTransfer).display = s.display := rfl
@[simp] theorem State.idleTransfer_mgmt (s : State) : (s.idleTransfer).mgmt = s.mgmt := rfl
@[simp] theorem State.idleTransfer_store (s : State) : (s.idleTransfer).store = s.store := rfl
@[simp] theorem State.idleTransfer_fresh (s : State) : (s.idleTransfer).fresh = s.fresh := rfl
@[simp] theorem State.idleTransfer_pending (s : State) : (s.idleTransfer).pending = s.pending := rfl

/-! `pollDisplay` -/

@[simp] theorem State.pollDisplay_clock (s : State) : (s.pollDisplay).clock = s.clock := rfl
@[simp] theorem State.pollDisplay_powered (s : State) : (s.pollDisplay).powered = s.powered := rfl
@[simp] theorem State.pollDisplay_ign (s : State) : (s.pollDisplay).ign = s.ign := rfl
@[simp] theorem State.pollDisplay_pins (s : State) : (s.pollDisplay).pins = s.pins := rfl
@[simp] theorem State.pollDisplay_portT (s : State) : (s.pollDisplay).portT = s.portT := rfl
@[simp] theorem State.pollDisplay_portL (s : State) : (s.pollDisplay).portL = s.portL := rfl
@[simp] theorem State.pollDisplay_intake (s : State) : (s.pollDisplay).intake = s.intake := rfl
@[simp] theorem State.pollDisplay_table (s : State) : (s.pollDisplay).table = s.table := rfl
@[simp] theorem State.pollDisplay_gauges (s : State) : (s.pollDisplay).gauges = s.gauges := rfl
@[simp] theorem State.pollDisplay_telltale (s : State) : (s.pollDisplay).telltale = s.telltale := rfl
@[simp] theorem State.pollDisplay_alert (s : State) : (s.pollDisplay).alert = s.alert := rfl
@[simp] theorem State.pollDisplay_dist (s : State) : (s.pollDisplay).dist = s.dist := rfl
@[simp] theorem State.pollDisplay_tacho (s : State) : (s.pollDisplay).tacho = s.tacho := rfl
@[simp] theorem State.pollDisplay_mgmt (s : State) : (s.pollDisplay).mgmt = s.mgmt := rfl
@[simp] theorem State.pollDisplay_store (s : State) : (s.pollDisplay).store = s.store := rfl
@[simp] theorem State.pollDisplay_fresh (s : State) : (s.pollDisplay).fresh = s.fresh := rfl
@[simp] theorem State.pollDisplay_pending (s : State) : (s.pollDisplay).pending = s.pending := rfl

/-! `settleLink` -/

@[simp] theorem State.settleLink_clock (s : State) : (s.settleLink).clock = s.clock := rfl
@[simp] theorem State.settleLink_powered (s : State) : (s.settleLink).powered = s.powered := rfl
@[simp] theorem State.settleLink_ign (s : State) : (s.settleLink).ign = s.ign := rfl
@[simp] theorem State.settleLink_pins (s : State) : (s.settleLink).pins = s.pins := rfl
@[simp] theorem State.settleLink_portT (s : State) : (s.settleLink).portT = s.portT := rfl
@[simp] theorem State.settleLink_portL (s : State) : (s.settleLink).portL = s.portL := rfl
@[simp] theorem State.settleLink_intake (s : State) : (s.settleLink).intake = s.intake := rfl
@[simp] theorem State.settleLink_table (s : State) : (s.settleLink).table = s.table := rfl
@[simp] theorem State.settleLink_gauges (s : State) : (s.settleLink).gauges = s.gauges := rfl
@[simp] theorem State.settleLink_telltale (s : State) : (s.settleLink).telltale = s.telltale := rfl
@[simp] theorem State.settleLink_alert (s : State) : (s.settleLink).alert = s.alert := rfl
@[simp] theorem State.settleLink_dist (s : State) : (s.settleLink).dist = s.dist := rfl
@[simp] theorem State.settleLink_tacho (s : State) : (s.settleLink).tacho = s.tacho := rfl
@[simp] theorem State.settleLink_mgmt (s : State) : (s.settleLink).mgmt = s.mgmt := rfl
@[simp] theorem State.settleLink_store (s : State) : (s.settleLink).store = s.store := rfl
@[simp] theorem State.settleLink_fresh (s : State) : (s.settleLink).fresh = s.fresh := rfl
@[simp] theorem State.settleLink_pending (s : State) : (s.settleLink).pending = s.pending := rfl

/-! `restartZero` -/

@[simp] theorem State.restartZero_clock (s : State) : (s.restartZero).clock = s.clock := rfl
@[simp] theorem State.restartZero_powered (s : State) : (s.restartZero).powered = s.powered := rfl
@[simp] theorem State.restartZero_ign (s : State) : (s.restartZero).ign = s.ign := rfl
@[simp] theorem State.restartZero_pins (s : State) : (s.restartZero).pins = s.pins := rfl
@[simp] theorem State.restartZero_portT (s : State) : (s.restartZero).portT = s.portT := rfl
@[simp] theorem State.restartZero_portL (s : State) : (s.restartZero).portL = s.portL := rfl
@[simp] theorem State.restartZero_intake (s : State) : (s.restartZero).intake = s.intake := rfl
@[simp] theorem State.restartZero_table (s : State) : (s.restartZero).table = s.table := rfl
@[simp] theorem State.restartZero_gauges (s : State) : (s.restartZero).gauges = s.gauges := rfl
@[simp] theorem State.restartZero_telltale (s : State) : (s.restartZero).telltale = s.telltale := rfl
@[simp] theorem State.restartZero_alert (s : State) : (s.restartZero).alert = s.alert := rfl
@[simp] theorem State.restartZero_tacho (s : State) : (s.restartZero).tacho = s.tacho := rfl
@[simp] theorem State.restartZero_display (s : State) : (s.restartZero).display = s.display := rfl
@[simp] theorem State.restartZero_mgmt (s : State) : (s.restartZero).mgmt = s.mgmt := rfl
@[simp] theorem State.restartZero_store (s : State) : (s.restartZero).store = s.store := rfl
@[simp] theorem State.restartZero_fresh (s : State) : (s.restartZero).fresh = s.fresh := rfl
@[simp] theorem State.restartZero_pending (s : State) : (s.restartZero).pending = s.pending := rfl

/-! `tick` -/

@[simp] theorem State.tick_powered (s : State) : (s.tick).powered = s.powered := rfl
@[simp] theorem State.tick_ign (s : State) : (s.tick).ign = s.ign := rfl
@[simp] theorem State.tick_pins (s : State) : (s.tick).pins = s.pins := rfl
@[simp] theorem State.tick_portT (s : State) : (s.tick).portT = s.portT := rfl
@[simp] theorem State.tick_portL (s : State) : (s.tick).portL = s.portL := rfl
@[simp] theorem State.tick_intake (s : State) : (s.tick).intake = s.intake := rfl
@[simp] theorem State.tick_table (s : State) : (s.tick).table = s.table := rfl
@[simp] theorem State.tick_gauges (s : State) : (s.tick).gauges = s.gauges := rfl
@[simp] theorem State.tick_telltale (s : State) : (s.tick).telltale = s.telltale := rfl
@[simp] theorem State.tick_alert (s : State) : (s.tick).alert = s.alert := rfl
@[simp] theorem State.tick_dist (s : State) : (s.tick).dist = s.dist := rfl
@[simp] theorem State.tick_tacho (s : State) : (s.tick).tacho = s.tacho := rfl
@[simp] theorem State.tick_display (s : State) : (s.tick).display = s.display := rfl
@[simp] theorem State.tick_mgmt (s : State) : (s.tick).mgmt = s.mgmt := rfl
@[simp] theorem State.tick_store (s : State) : (s.tick).store = s.store := rfl
@[simp] theorem State.tick_fresh (s : State) : (s.tick).fresh = s.fresh := rfl
@[simp] theorem State.tick_pending (s : State) : (s.tick).pending = s.pending := rfl

/-! `compareIgn` -/

@[simp] theorem State.compareIgn_clock (s : State) : (s.compareIgn).clock = s.clock := rfl
@[simp] theorem State.compareIgn_powered (s : State) : (s.compareIgn).powered = s.powered := rfl
@[simp] theorem State.compareIgn_pins (s : State) : (s.compareIgn).pins = s.pins := rfl
@[simp] theorem State.compareIgn_portT (s : State) : (s.compareIgn).portT = s.portT := rfl
@[simp] theorem State.compareIgn_portL (s : State) : (s.compareIgn).portL = s.portL := rfl
@[simp] theorem State.compareIgn_intake (s : State) : (s.compareIgn).intake = s.intake := rfl
@[simp] theorem State.compareIgn_table (s : State) : (s.compareIgn).table = s.table := rfl
@[simp] theorem State.compareIgn_gauges (s : State) : (s.compareIgn).gauges = s.gauges := rfl
@[simp] theorem State.compareIgn_telltale (s : State) : (s.compareIgn).telltale = s.telltale := rfl
@[simp] theorem State.compareIgn_alert (s : State) : (s.compareIgn).alert = s.alert := rfl
@[simp] theorem State.compareIgn_dist (s : State) : (s.compareIgn).dist = s.dist := rfl
@[simp] theorem State.compareIgn_tacho (s : State) : (s.compareIgn).tacho = s.tacho := rfl
@[simp] theorem State.compareIgn_display (s : State) : (s.compareIgn).display = s.display := rfl
@[simp] theorem State.compareIgn_mgmt (s : State) : (s.compareIgn).mgmt = s.mgmt := rfl
@[simp] theorem State.compareIgn_store (s : State) : (s.compareIgn).store = s.store := rfl
@[simp] theorem State.compareIgn_fresh (s : State) : (s.compareIgn).fresh = s.fresh := rfl
@[simp] theorem State.compareIgn_pending (s : State) : (s.compareIgn).pending = s.pending := rfl

/-! `startCalWrite` -/

@[simp] theorem State.startCalWrite_clock (s : State) : (s.startCalWrite).clock = s.clock := rfl
@[simp] theorem State.startCalWrite_powered (s : State) : (s.startCalWrite).powered = s.powered := rfl
@[simp] theorem State.startCalWrite_pins (s : State) : (s.startCalWrite).pins = s.pins := rfl
@[simp] theorem State.startCalWrite_portT (s : State) : (s.startCalWrite).portT = s.portT := rfl
@[simp] theorem State.startCalWrite_portL (s : State) : (s.startCalWrite).portL = s.portL := rfl
@[simp] theorem State.startCalWrite_intake (s : State) : (s.startCalWrite).intake = s.intake := rfl
@[simp] theorem State.startCalWrite_table (s : State) : (s.startCalWrite).table = s.table := rfl
@[simp] theorem State.startCalWrite_gauges (s : State) : (s.startCalWrite).gauges = s.gauges := rfl
@[simp] theorem State.startCalWrite_telltale (s : State) : (s.startCalWrite).telltale = s.telltale := rfl
@[simp] theorem State.startCalWrite_alert (s : State) : (s.startCalWrite).alert = s.alert := rfl
@[simp] theorem State.startCalWrite_dist (s : State) : (s.startCalWrite).dist = s.dist := rfl
@[simp] theorem State.startCalWrite_tacho (s : State) : (s.startCalWrite).tacho = s.tacho := rfl
@[simp] theorem State.startCalWrite_display (s : State) : (s.startCalWrite).display = s.display := rfl
@[simp] theorem State.startCalWrite_mgmt (s : State) : (s.startCalWrite).mgmt = s.mgmt := rfl
@[simp] theorem State.startCalWrite_fresh (s : State) : (s.startCalWrite).fresh = s.fresh := rfl
@[simp] theorem State.startCalWrite_pending (s : State) : (s.startCalWrite).pending = s.pending := rfl

/-! `setPort` -/

@[simp] theorem State.setPort_clock (s : State) (p : Port) (b : PortBlock) : (s.setPort p b).clock = s.clock := by
  cases p <;> rfl
@[simp] theorem State.setPort_powered (s : State) (p : Port) (b : PortBlock) : (s.setPort p b).powered = s.powered := by
  cases p <;> rfl
@[simp] theorem State.setPort_ign (s : State) (p : Port) (b : PortBlock) : (s.setPort p b).ign = s.ign := by
  cases p <;> rfl
@[simp] theorem State.setPort_pins (s : State) (p : Port) (b : PortBlock) : (s.setPort p b).pins = s.pins := by
  cases p <;> rfl
@[simp] theorem State.setPort_intake (s : State) (p : Port) (b : PortBlock) : (s.setPort p b).intake = s.intake := by
  cases p <;> rfl
@[simp] theorem State.setPort_table (s : State) (p : Port) (b : PortBlock) : (s.setPort p b).table = s.table := by
  cases p <;> rfl
@[simp] theorem State.setPort_gauges (s : State) (p : Port) (b : PortBlock) : (s.setPort p b).gauges = s.gauges := by
  cases p <;> rfl
@[simp] theorem State.setPort_telltale (s : State) (p : Port) (b : PortBlock) : (s.setPort p b).telltale = s.telltale := by
  cases p <;> rfl
@[simp] theorem State.setPort_alert (s : State) (p : Port) (b : PortBlock) : (s.setPort p b).alert = s.alert := by
  cases p <;> rfl
@[simp] theorem State.setPort_dist (s : State) (p : Port) (b : PortBlock) : (s.setPort p b).dist = s.dist := by
  cases p <;> rfl
@[simp] theorem State.setPort_tacho (s : State) (p : Port) (b : PortBlock) : (s.setPort p b).tacho = s.tacho := by
  cases p <;> rfl
@[simp] theorem State.setPort_display (s : State) (p : Port) (b : PortBlock) : (s.setPort p b).display = s.display := by
  cases p <;> rfl
@[simp] theorem State.setPort_mgmt (s : State) (p : Port) (b : PortBlock) : (s.setPort p b).mgmt = s.mgmt := by
  cases p <;> rfl
@[simp] theorem State.setPort_store (s : State) (p : Port) (b : PortBlock) : (s.setPort p b).store = s.store := by
  cases p <;> rfl
@[simp] theorem State.setPort_fresh (s : State) (p : Port) (b : PortBlock) : (s.setPort p b).fresh = s.fresh := by
  cases p <;> rfl
@[simp] theorem State.setPort_pending (s : State) (p : Port) (b : PortBlock) : (s.setPort p b).pending = s.pending := by
  cases p <;> rfl

/-! `putDriver` -/

@[simp] theorem State.putDriver_clock (s : State) (d : Driver) (r : DriverRecord) : (s.putDriver d r).clock = s.clock := by
  cases d <;> rfl
@[simp] theorem State.putDriver_powered (s : State) (d : Driver) (r : DriverRecord) : (s.putDriver d r).powered = s.powered := by
  cases d <;> rfl
@[simp] theorem State.putDriver_ign (s : State) (d : Driver) (r : DriverRecord) : (s.putDriver d r).ign = s.ign := by
  cases d <;> rfl
@[simp] theorem State.putDriver_pins (s : State) (d : Driver) (r : DriverRecord) : (s.putDriver d r).pins = s.pins := by
  cases d <;> rfl
@[simp] theorem State.putDriver_portT (s : State) (d : Driver) (r : DriverRecord) : (s.putDriver d r).portT = s.portT := by
  cases d <;> rfl
@[simp] theorem State.putDriver_portL (s : State) (d : Driver) (r : DriverRecord) : (s.putDriver d r).portL = s.portL := by
  cases d <;> rfl
@[simp] theorem State.putDriver_intake (s : State) (d : Driver) (r : DriverRecord) : (s.putDriver d r).intake = s.intake := by
  cases d <;> rfl
@[simp] theorem State.putDriver_table (s : State) (d : Driver) (r : DriverRecord) : (s.putDriver d r).table = s.table := by
  cases d <;> rfl
@[simp] theorem State.putDriver_gauges (s : State) (d : Driver) (r : DriverRecord) : (s.putDriver d r).gauges = s.gauges := by
  cases d <;> rfl
@[simp] theorem State.putDriver_telltale (s : State) (d : Driver) (r : DriverRecord) : (s.putDriver d r).telltale = s.telltale := by
  cases d <;> rfl
@[simp] theorem State.putDriver_alert (s : State) (d : Driver) (r : DriverRecord) : (s.putDriver d r).alert = s.alert := by
  cases d <;> rfl
@[simp] theorem State.putDriver_dist (s : State) (d : Driver) (r : DriverRecord) : (s.putDriver d r).dist = s.dist := by
  cases d <;> rfl
@[simp] theorem State.putDriver_display (s : State) (d : Driver) (r : DriverRecord) : (s.putDriver d r).display = s.display := by
  cases d <;> rfl
@[simp] theorem State.putDriver_mgmt (s : State) (d : Driver) (r : DriverRecord) : (s.putDriver d r).mgmt = s.mgmt := by
  cases d <;> rfl
@[simp] theorem State.putDriver_store (s : State) (d : Driver) (r : DriverRecord) : (s.putDriver d r).store = s.store := by
  cases d <;> rfl
@[simp] theorem State.putDriver_fresh (s : State) (d : Driver) (r : DriverRecord) : (s.putDriver d r).fresh = s.fresh := by
  cases d <;> rfl
@[simp] theorem State.putDriver_pending (s : State) (d : Driver) (r : DriverRecord) : (s.putDriver d r).pending = s.pending := by
  cases d <;> rfl

/-! `setRaw` -/

@[simp] theorem State.setRaw_clock (s : State) (p : Pin) (b : Bool) : (s.setRaw p b).clock = s.clock := by
  cases p <;> rfl
@[simp] theorem State.setRaw_powered (s : State) (p : Pin) (b : Bool) : (s.setRaw p b).powered = s.powered := by
  cases p <;> rfl
@[simp] theorem State.setRaw_ign (s : State) (p : Pin) (b : Bool) : (s.setRaw p b).ign = s.ign := by
  cases p <;> rfl
@[simp] theorem State.setRaw_portT (s : State) (p : Pin) (b : Bool) : (s.setRaw p b).portT = s.portT := by
  cases p <;> rfl
@[simp] theorem State.setRaw_portL (s : State) (p : Pin) (b : Bool) : (s.setRaw p b).portL = s.portL := by
  cases p <;> rfl
@[simp] theorem State.setRaw_intake (s : State) (p : Pin) (b : Bool) : (s.setRaw p b).intake = s.intake := by
  cases p <;> rfl
@[simp] theorem State.setRaw_table (s : State) (p : Pin) (b : Bool) : (s.setRaw p b).table = s.table := by
  cases p <;> rfl
@[simp] theorem State.setRaw_gauges (s : State) (p : Pin) (b : Bool) : (s.setRaw p b).gauges = s.gauges := by
  cases p <;> rfl
@[simp] theorem State.setRaw_telltale (s : State) (p : Pin) (b : Bool) : (s.setRaw p b).telltale = s.telltale := by
  cases p <;> rfl
@[simp] theorem State.setRaw_alert (s : State) (p : Pin) (b : Bool) : (s.setRaw p b).alert = s.alert := by
  cases p <;> rfl
@[simp] theorem State.setRaw_dist (s : State) (p : Pin) (b : Bool) : (s.setRaw p b).dist = s.dist := by
  cases p <;> rfl
@[simp] theorem State.setRaw_tacho (s : State) (p : Pin) (b : Bool) : (s.setRaw p b).tacho = s.tacho := by
  cases p <;> rfl
@[simp] theorem State.setRaw_display (s : State) (p : Pin) (b : Bool) : (s.setRaw p b).display = s.display := by
  cases p <;> rfl
@[simp] theorem State.setRaw_mgmt (s : State) (p : Pin) (b : Bool) : (s.setRaw p b).mgmt = s.mgmt := by
  cases p <;> rfl
@[simp] theorem State.setRaw_store (s : State) (p : Pin) (b : Bool) : (s.setRaw p b).store = s.store := by
  cases p <;> rfl
@[simp] theorem State.setRaw_fresh (s : State) (p : Pin) (b : Bool) : (s.setRaw p b).fresh = s.fresh := by
  cases p <;> rfl
@[simp] theorem State.setRaw_pending (s : State) (p : Pin) (b : Bool) : (s.setRaw p b).pending = s.pending := by
  cases p <;> rfl

/-! `setStability` -/

@[simp] theorem State.setStability_clock (s : State) (p : Pin) (t : Timer) : (s.setStability p t).clock = s.clock := by
  cases p <;> rfl
@[simp] theorem State.setStability_powered (s : State) (p : Pin) (t : Timer) : (s.setStability p t).powered = s.powered := by
  cases p <;> rfl
@[simp] theorem State.setStability_ign (s : State) (p : Pin) (t : Timer) : (s.setStability p t).ign = s.ign := by
  cases p <;> rfl
@[simp] theorem State.setStability_pins (s : State) (p : Pin) (t : Timer) : (s.setStability p t).pins = s.pins := by
  cases p <;> rfl
@[simp] theorem State.setStability_portT (s : State) (p : Pin) (t : Timer) : (s.setStability p t).portT = s.portT := by
  cases p <;> rfl
@[simp] theorem State.setStability_portL (s : State) (p : Pin) (t : Timer) : (s.setStability p t).portL = s.portL := by
  cases p <;> rfl
@[simp] theorem State.setStability_intake (s : State) (p : Pin) (t : Timer) : (s.setStability p t).intake = s.intake := by
  cases p <;> rfl
@[simp] theorem State.setStability_table (s : State) (p : Pin) (t : Timer) : (s.setStability p t).table = s.table := by
  cases p <;> rfl
@[simp] theorem State.setStability_gauges (s : State) (p : Pin) (t : Timer) : (s.setStability p t).gauges = s.gauges := by
  cases p <;> rfl
@[simp] theorem State.setStability_telltale (s : State) (p : Pin) (t : Timer) : (s.setStability p t).telltale = s.telltale := by
  cases p <;> rfl
@[simp] theorem State.setStability_alert (s : State) (p : Pin) (t : Timer) : (s.setStability p t).alert = s.alert := by
  cases p <;> rfl
@[simp] theorem State.setStability_tacho (s : State) (p : Pin) (t : Timer) : (s.setStability p t).tacho = s.tacho := by
  cases p <;> rfl
@[simp] theorem State.setStability_display (s : State) (p : Pin) (t : Timer) : (s.setStability p t).display = s.display := by
  cases p <;> rfl
@[simp] theorem State.setStability_mgmt (s : State) (p : Pin) (t : Timer) : (s.setStability p t).mgmt = s.mgmt := by
  cases p <;> rfl
@[simp] theorem State.setStability_store (s : State) (p : Pin) (t : Timer) : (s.setStability p t).store = s.store := by
  cases p <;> rfl
@[simp] theorem State.setStability_fresh (s : State) (p : Pin) (t : Timer) : (s.setStability p t).fresh = s.fresh := by
  cases p <;> rfl
@[simp] theorem State.setStability_pending (s : State) (p : Pin) (t : Timer) : (s.setStability p t).pending = s.pending := by
  cases p <;> rfl

/-! `setFiltered` -/

@[simp] theorem State.setFiltered_clock (s : State) (p : Pin) (b : Bool) : (s.setFiltered p b).clock = s.clock := by
  cases p <;> rfl
@[simp] theorem State.setFiltered_powered (s : State) (p : Pin) (b : Bool) : (s.setFiltered p b).powered = s.powered := by
  cases p <;> rfl
@[simp] theorem State.setFiltered_ign (s : State) (p : Pin) (b : Bool) : (s.setFiltered p b).ign = s.ign := by
  cases p <;> rfl
@[simp] theorem State.setFiltered_pins (s : State) (p : Pin) (b : Bool) : (s.setFiltered p b).pins = s.pins := by
  cases p <;> rfl
@[simp] theorem State.setFiltered_portT (s : State) (p : Pin) (b : Bool) : (s.setFiltered p b).portT = s.portT := by
  cases p <;> rfl
@[simp] theorem State.setFiltered_portL (s : State) (p : Pin) (b : Bool) : (s.setFiltered p b).portL = s.portL := by
  cases p <;> rfl
@[simp] theorem State.setFiltered_intake (s : State) (p : Pin) (b : Bool) : (s.setFiltered p b).intake = s.intake := by
  cases p <;> rfl
@[simp] theorem State.setFiltered_table (s : State) (p : Pin) (b : Bool) : (s.setFiltered p b).table = s.table := by
  cases p <;> rfl
@[simp] theorem State.setFiltered_gauges (s : State) (p : Pin) (b : Bool) : (s.setFiltered p b).gauges = s.gauges := by
  cases p <;> rfl
@[simp] theorem State.setFiltered_telltale (s : State) (p : Pin) (b : Bool) : (s.setFiltered p b).telltale = s.telltale := by
  cases p <;> rfl
@[simp] theorem State.setFiltered_alert (s : State) (p : Pin) (b : Bool) : (s.setFiltered p b).alert = s.alert := by
  cases p <;> rfl
@[simp] theorem State.setFiltered_tacho (s : State) (p : Pin) (b : Bool) : (s.setFiltered p b).tacho = s.tacho := by
  cases p <;> rfl
@[simp] theorem State.setFiltered_display (s : State) (p : Pin) (b : Bool) : (s.setFiltered p b).display = s.display := by
  cases p <;> rfl
@[simp] theorem State.setFiltered_mgmt (s : State) (p : Pin) (b : Bool) : (s.setFiltered p b).mgmt = s.mgmt := by
  cases p <;> rfl
@[simp] theorem State.setFiltered_store (s : State) (p : Pin) (b : Bool) : (s.setFiltered p b).store = s.store := by
  cases p <;> rfl
@[simp] theorem State.setFiltered_fresh (s : State) (p : Pin) (b : Bool) : (s.setFiltered p b).fresh = s.fresh := by
  cases p <;> rfl
@[simp] theorem State.setFiltered_pending (s : State) (p : Pin) (b : Bool) : (s.setFiltered p b).pending = s.pending := by
  cases p <;> rfl

/-! `offer` -/

@[simp] theorem State.offer_clock (s : State) (f : TxFrame) : (s.offer f).clock = s.clock := by
  unfold State.offer; split <;> rfl
@[simp] theorem State.offer_powered (s : State) (f : TxFrame) : (s.offer f).powered = s.powered := by
  unfold State.offer; split <;> rfl
@[simp] theorem State.offer_ign (s : State) (f : TxFrame) : (s.offer f).ign = s.ign := by
  unfold State.offer; split <;> rfl
@[simp] theorem State.offer_pins (s : State) (f : TxFrame) : (s.offer f).pins = s.pins := by
  unfold State.offer; split <;> rfl
@[simp] theorem State.offer_portL (s : State) (f : TxFrame) : (s.offer f).portL = s.portL := by
  unfold State.offer; split <;> rfl
@[simp] theorem State.offer_table (s : State) (f : TxFrame) : (s.offer f).table = s.table := by
  unfold State.offer; split <;> rfl
@[simp] theorem State.offer_gauges (s : State) (f : TxFrame) : (s.offer f).gauges = s.gauges := by
  unfold State.offer; split <;> rfl
@[simp] theorem State.offer_telltale (s : State) (f : TxFrame) : (s.offer f).telltale = s.telltale := by
  unfold State.offer; split <;> rfl
@[simp] theorem State.offer_alert (s : State) (f : TxFrame) : (s.offer f).alert = s.alert := by
  unfold State.offer; split <;> rfl
@[simp] theorem State.offer_dist (s : State) (f : TxFrame) : (s.offer f).dist = s.dist := by
  unfold State.offer; split <;> rfl
@[simp] theorem State.offer_tacho (s : State) (f : TxFrame) : (s.offer f).tacho = s.tacho := by
  unfold State.offer; split <;> rfl
@[simp] theorem State.offer_display (s : State) (f : TxFrame) : (s.offer f).display = s.display := by
  unfold State.offer; split <;> rfl
@[simp] theorem State.offer_mgmt (s : State) (f : TxFrame) : (s.offer f).mgmt = s.mgmt := by
  unfold State.offer; split <;> rfl
@[simp] theorem State.offer_store (s : State) (f : TxFrame) : (s.offer f).store = s.store := by
  unfold State.offer; split <;> rfl
@[simp] theorem State.offer_fresh (s : State) (f : TxFrame) : (s.offer f).fresh = s.fresh := by
  unfold State.offer; split <;> rfl
@[simp] theorem State.offer_pending (s : State) (f : TxFrame) : (s.offer f).pending = s.pending := by
  unfold State.offer; split <;> rfl

/-! `markDirty` -/

@[simp] theorem State.markDirty_clock (s : State) (k : List RecordKind) : (s.markDirty k).clock = s.clock := by
  unfold State.markDirty; split <;> rfl
@[simp] theorem State.markDirty_powered (s : State) (k : List RecordKind) : (s.markDirty k).powered = s.powered := by
  unfold State.markDirty; split <;> rfl
@[simp] theorem State.markDirty_ign (s : State) (k : List RecordKind) : (s.markDirty k).ign = s.ign := by
  unfold State.markDirty; split <;> rfl
@[simp] theorem State.markDirty_pins (s : State) (k : List RecordKind) : (s.markDirty k).pins = s.pins := by
  unfold State.markDirty; split <;> rfl
@[simp] theorem State.markDirty_portT (s : State) (k : List RecordKind) : (s.markDirty k).portT = s.portT := by
  unfold State.markDirty; split <;> rfl
@[simp] theorem State.markDirty_portL (s : State) (k : List RecordKind) : (s.markDirty k).portL = s.portL := by
  unfold State.markDirty; split <;> rfl
@[simp] theorem State.markDirty_intake (s : State) (k : List RecordKind) : (s.markDirty k).intake = s.intake := by
  unfold State.markDirty; split <;> rfl
@[simp] theorem State.markDirty_table (s : State) (k : List RecordKind) : (s.markDirty k).table = s.table := by
  unfold State.markDirty; split <;> rfl
@[simp] theorem State.markDirty_gauges (s : State) (k : List RecordKind) : (s.markDirty k).gauges = s.gauges := by
  unfold State.markDirty; split <;> rfl
@[simp] theorem State.markDirty_telltale (s : State) (k : List RecordKind) : (s.markDirty k).telltale = s.telltale := by
  unfold State.markDirty; split <;> rfl
@[simp] theorem State.markDirty_alert (s : State) (k : List RecordKind) : (s.markDirty k).alert = s.alert := by
  unfold State.markDirty; split <;> rfl
@[simp] theorem State.markDirty_dist (s : State) (k : List RecordKind) : (s.markDirty k).dist = s.dist := by
  unfold State.markDirty; split <;> rfl
@[simp] theorem State.markDirty_tacho (s : State) (k : List RecordKind) : (s.markDirty k).tacho = s.tacho := by
  unfold State.markDirty; split <;> rfl
@[simp] theorem State.markDirty_mgmt (s : State) (k : List RecordKind) : (s.markDirty k).mgmt = s.mgmt := by
  unfold State.markDirty; split <;> rfl
@[simp] theorem State.markDirty_store (s : State) (k : List RecordKind) : (s.markDirty k).store = s.store := by
  unfold State.markDirty; split <;> rfl
@[simp] theorem State.markDirty_fresh (s : State) (k : List RecordKind) : (s.markDirty k).fresh = s.fresh := by
  unfold State.markDirty; split <;> rfl
@[simp] theorem State.markDirty_pending (s : State) (k : List RecordKind) : (s.markDirty k).pending = s.pending := by
  unfold State.markDirty; split <;> rfl

/-! `raise` -/

@[simp] theorem State.raise_clock (s : State) (f : EventFlag) : (s.raise f).clock = s.clock := by
  unfold State.raise; split; · rfl
  · split <;> simp
@[simp] theorem State.raise_powered (s : State) (f : EventFlag) : (s.raise f).powered = s.powered := by
  unfold State.raise; split; · rfl
  · split <;> simp
@[simp] theorem State.raise_ign (s : State) (f : EventFlag) : (s.raise f).ign = s.ign := by
  unfold State.raise; split; · rfl
  · split <;> simp
@[simp] theorem State.raise_pins (s : State) (f : EventFlag) : (s.raise f).pins = s.pins := by
  unfold State.raise; split; · rfl
  · split <;> simp
@[simp] theorem State.raise_portL (s : State) (f : EventFlag) : (s.raise f).portL = s.portL := by
  unfold State.raise; split; · rfl
  · split <;> simp
@[simp] theorem State.raise_table (s : State) (f : EventFlag) : (s.raise f).table = s.table := by
  unfold State.raise; split; · rfl
  · split <;> simp
@[simp] theorem State.raise_gauges (s : State) (f : EventFlag) : (s.raise f).gauges = s.gauges := by
  unfold State.raise; split; · rfl
  · split <;> simp
@[simp] theorem State.raise_telltale (s : State) (f : EventFlag) : (s.raise f).telltale = s.telltale := by
  unfold State.raise; split; · rfl
  · split <;> simp
@[simp] theorem State.raise_alert (s : State) (f : EventFlag) : (s.raise f).alert = s.alert := by
  unfold State.raise; split; · rfl
  · split <;> simp
@[simp] theorem State.raise_dist (s : State) (f : EventFlag) : (s.raise f).dist = s.dist := by
  unfold State.raise; split; · rfl
  · split <;> simp
@[simp] theorem State.raise_tacho (s : State) (f : EventFlag) : (s.raise f).tacho = s.tacho := by
  unfold State.raise; split; · rfl
  · split <;> simp
@[simp] theorem State.raise_display (s : State) (f : EventFlag) : (s.raise f).display = s.display := by
  unfold State.raise; split; · rfl
  · split <;> simp
@[simp] theorem State.raise_store (s : State) (f : EventFlag) : (s.raise f).store = s.store := by
  unfold State.raise; split; · rfl
  · split <;> simp
@[simp] theorem State.raise_fresh (s : State) (f : EventFlag) : (s.raise f).fresh = s.fresh := by
  unfold State.raise; split; · rfl
  · split <;> simp
@[simp] theorem State.raise_pending (s : State) (f : EventFlag) : (s.raise f).pending = s.pending := by
  unfold State.raise; split; · rfl
  · split <;> simp

/-! `updateDuty` -/

@[simp] theorem State.updateDuty_clock (s : State) : (s.updateDuty).clock = s.clock := by
  unfold State.updateDuty; split <;> simp
@[simp] theorem State.updateDuty_powered (s : State) : (s.updateDuty).powered = s.powered := by
  unfold State.updateDuty; split <;> simp
@[simp] theorem State.updateDuty_ign (s : State) : (s.updateDuty).ign = s.ign := by
  unfold State.updateDuty; split <;> simp
@[simp] theorem State.updateDuty_pins (s : State) : (s.updateDuty).pins = s.pins := by
  unfold State.updateDuty; split <;> simp
@[simp] theorem State.updateDuty_portT (s : State) : (s.updateDuty).portT = s.portT := by
  unfold State.updateDuty; split <;> simp
@[simp] theorem State.updateDuty_portL (s : State) : (s.updateDuty).portL = s.portL := by
  unfold State.updateDuty; split <;> simp
@[simp] theorem State.updateDuty_intake (s : State) : (s.updateDuty).intake = s.intake := by
  unfold State.updateDuty; split <;> simp
@[simp] theorem State.updateDuty_table (s : State) : (s.updateDuty).table = s.table := by
  unfold State.updateDuty; split <;> simp
@[simp] theorem State.updateDuty_gauges (s : State) : (s.updateDuty).gauges = s.gauges := by
  unfold State.updateDuty; split <;> simp
@[simp] theorem State.updateDuty_alert (s : State) : (s.updateDuty).alert = s.alert := by
  unfold State.updateDuty; split <;> simp
@[simp] theorem State.updateDuty_dist (s : State) : (s.updateDuty).dist = s.dist := by
  unfold State.updateDuty; split <;> simp
@[simp] theorem State.updateDuty_tacho (s : State) : (s.updateDuty).tacho = s.tacho := by
  unfold State.updateDuty; split <;> simp
@[simp] theorem State.updateDuty_mgmt (s : State) : (s.updateDuty).mgmt = s.mgmt := by
  unfold State.updateDuty; split <;> simp
@[simp] theorem State.updateDuty_store (s : State) : (s.updateDuty).store = s.store := by
  unfold State.updateDuty; split <;> simp
@[simp] theorem State.updateDuty_fresh (s : State) : (s.updateDuty).fresh = s.fresh := by
  unfold State.updateDuty; split <;> simp
@[simp] theorem State.updateDuty_pending (s : State) : (s.updateDuty).pending = s.pending := by
  unfold State.updateDuty; split <;> simp

/-! Reading back -/

theorem State.slot_putSlot_same (s : State) (n : Nat) (r : SlotRecord) (h : n < 96) : (s.putSlot n r).slot n = r :=
  Bank.get_put_same _ _ _ _ h

theorem State.slot_putSlot_other (s : State) (n m : Nat) (r : SlotRecord) (h : n ≠ m) :
    (s.putSlot n r).slot m = s.slot m := Bank.get_put_other _ _ _ _ _ h

theorem State.channel_putChannel_same (s : State) (c : Nat) (h : Channel) (hc : c < 8) :
    (s.putChannel c h).channel c = h := Bank.get_put_same _ _ _ _ hc

theorem State.channel_putChannel_other (s : State) (c d : Nat) (h : Channel) (hc : c ≠ d) :
    (s.putChannel c h).channel d = s.channel d := Bank.get_put_other _ _ _ _ _ hc

theorem State.rule_putRule_same (s : State) (i : Nat) (r : Rule) (h : i < 64) : (s.putRule i r).rule i = r :=
  Bank.get_put_same _ _ _ _ h

theorem State.rule_putRule_other (s : State) (i j : Nat) (r : Rule) (h : i ≠ j) : (s.putRule i r).rule j = s.rule j :=
  Bank.get_put_other _ _ _ _ _ h

theorem State.lamp_putLamp_same (s : State) (n : Nat) (l : Lamp) (h : n < 32) : (s.putLamp n l).lamp n = l :=
  Bank.get_put_same _ _ _ _ h

theorem State.lamp_putLamp_other (s : State) (n m : Nat) (l : Lamp) (h : n ≠ m) : (s.putLamp n l).lamp m = s.lamp m :=
  Bank.get_put_other _ _ _ _ _ h

theorem State.driver_putDriver_same (s : State) (d : Driver) (r : DriverRecord) : (s.putDriver d r).driver d = r := by
  cases d <;> rfl

theorem State.driver_putDriver_other (s : State) (d e : Driver) (r : DriverRecord) (h : d ≠ e) :
    (s.putDriver d r).driver e = s.driver e := by
  cases d <;> cases e <;> first | rfl | exact absurd rfl h

theorem State.port_setPort_same (s : State) (p : Port) (b : PortBlock) : (s.setPort p b).port p = b := by
  cases p <;> rfl

theorem State.port_setPort_other (s : State) (p q : Port) (b : PortBlock) (h : p ≠ q) :
    (s.setPort p b).port q = s.port q := by
  cases p <;> cases q <;> first | rfl | exact absurd rfl h

theorem State.slot_writeRecord_same (s : State) (n : Nat) (w : SlotWrite) (h : n < 96) :
    (s.writeRecord n w).slot n = (s.slot n).written w none s.clock := State.slot_putSlot_same _ _ _ h

theorem State.slot_writeRecord_other (s : State) (n m : Nat) (w : SlotWrite) (h : n ≠ m) :
    (s.writeRecord n w).slot m = s.slot m := State.slot_putSlot_other _ _ _ _ h

end Sys2Proof.Machine
end

