-- ==== Sys2Proof/Laws/Evaluate.lean ====
section
/-! SUPPORT. What a channel makes of the slots: the curve, the placing of a candidate and an evaluation (R48 to R52). -/

namespace Sys2Proof.Machine

theorem ascends_tail {p : CurvePoint} {l : List CurvePoint} (h : curveAscends (p :: l) = true) : curveAscends l = true := by
  cases l with
  | nil => rfl
  | cons q l => simp only [curveAscends, Bool.and_eq_true] at h; exact h.2

/-- Every later point of an ascending curve has a higher value. -/
theorem ascends_above : ∀ {l : List CurvePoint} {p : CurvePoint}, curveAscends (p :: l) = true → ∀ q ∈ l, p.value < q.value
  | [], _, _, _, h => nomatch h
  | a :: l, p, h, q, hq => by
    have h1 : p.value < a.value := by simp only [curveAscends, Bool.and_eq_true, decide_eq_true_eq] at h; exact h.1
    rcases List.mem_cons.mp hq with e | e
    · rw [e]; exact h1
    · exact Int.lt_trans h1 (ascends_above (ascends_tail h) q e)

/-- The correction keeps the position between those of its two points (R49). -/
theorem interpolate_exact (p q : CurvePoint) (v : Int) (h1 : p.value ≤ v) (h2 : v < q.value) :
    (interpolate p q v : Int) =
      p.position + Int.tdiv (((q.position : Int) - p.position) * (v - p.value)) (q.value - p.value) := by
  unfold interpolate
  refine Int.toNat_of_nonneg ?_
  have hd : 0 < q.value - p.value := by omega
  have hv : 0 ≤ v - p.value := by omega
  by_cases hq : p.position ≤ q.position
  · have : 0 ≤ Int.tdiv (((q.position : Int) - p.position) * (v - p.value)) (q.value - p.value) :=
      Int.tdiv_nonneg (Int.mul_nonneg (by omega) hv) (by omega)
    omega
  · have e : ((q.position : Int) - p.position) * (v - p.value) = -(((p.position : Int) - q.position) * (v - p.value)) := by
      rw [← Int.neg_mul]; congr 1; omega
    rw [e, Int.neg_tdiv]
    have : Int.tdiv (((p.position : Int) - q.position) * (v - p.value)) (q.value - p.value) ≤ (p.position : Int) - q.position := by
      rw [Int.tdiv_eq_ediv_of_nonneg (Int.mul_nonneg (by omega) hv)]
      have m : ((p.position : Int) - q.position) * (v - p.value) ≤ ((p.position : Int) - q.position) * (q.value - p.value) :=
        Int.mul_le_mul_of_nonneg_left (by omega) (by omega)
      have := Int.ediv_le_ediv hd m
      rw [Int.mul_ediv_cancel _ (by omega)] at this
      exact this
    omega

theorem curveFrom_on : ∀ (rest : List CurvePoint) (p : CurvePoint) (v : Int), curveAscends (p :: rest) = true → p.value ≤ v →
    OnCurve (p :: rest) v (curveFrom p rest v)
  | [], p, v, _, hv => by
    refine ⟨fun a r e h => ?_, fun b a e h => ?_, fun b a c r e _ _ => ?_⟩
    · cases e; rfl
    · cases b with
      | nil => cases e; rfl
      | cons x b => exact absurd (congrArg List.length e) (by simp)
    · exact absurd (congrArg List.length e) (by simp only [List.length_append, List.length_cons, List.length_nil]; omega)
  | q :: rest, p, v, ha, hv => by
    have hpq : p.value < q.value := ascends_above ha q (List.mem_cons_self ..)
    unfold curveFrom
    by_cases hq : q.value ≤ v
    · rw [if_pos hq]
      have ih := curveFrom_on rest q v (ascends_tail ha) hq
      refine ⟨fun a r e h => ?_, fun b a e h => ?_, fun b a c r e h1 h2 => ?_⟩
      · cases e; omega
      · cases b with
        | nil => exact absurd (congrArg List.length e) (by simp)
        | cons x b => exact ih.2.1 b a (List.cons.inj e).2 h
      · cases b with
        | nil =>
          have e1 := (List.cons.inj (List.cons.inj e).2).1
          rw [← e1] at h2; omega
        | cons x b => exact ih.2.2 b a c r (List.cons.inj e).2 h1 h2
    · rw [if_neg hq]
      refine ⟨fun a r e h => ?_, fun b a e h => ?_, fun b a c r e h1 h2 => ?_⟩
      · cases e
        have e1 : v = p.value := Int.le_antisymm h hv
        subst e1
        unfold interpolate; simp
      · cases b with
        | nil => exact absurd (congrArg List.length e) (by simp)
        | cons x b =>
          have em := (List.cons.inj e).2
          have : a ∈ q :: rest := by rw [em]; simp
          rcases List.mem_cons.mp this with e1 | e1
          · rw [e1] at h; omega
          · have := ascends_above (ascends_tail ha) a e1; omega
      · cases b with
        | nil =>
          have e1 := (List.cons.inj e).1
          have e2 := (List.cons.inj (List.cons.inj e).2).1
          subst e1; subst e2
          exact interpolate_exact _ _ _ h1 h2
        | cons x b =>
          have em := (List.cons.inj e).2
          have : a ∈ q :: rest := by rw [em]; simp
          rcases List.mem_cons.mp this with e1 | e1
          · rw [e1] at h1; omega
          · have := ascends_above (ascends_tail ha) a e1; omega

/-- The curve position of a value on an ascending curve (R49). -/
theorem curvePosition_on (curve : List CurvePoint) (v : Int) (h : curveAscends curve = true) :
    OnCurve curve v (curvePosition curve v) := by
  cases curve with
  | nil =>
    refine ⟨fun a r e _ => (nomatch e), fun b a e _ => ?_, fun b a c r e _ _ => ?_⟩ <;>
      exact absurd (congrArg List.length e) (by simp)
  | cons p rest =>
    unfold curvePosition
    by_cases hv : v ≤ p.value
    · simp only [hv, if_true]
      refine ⟨fun a r e _ => by cases e; rfl, fun b a e h1 => ?_, fun b a c r e h1 h2 => ?_⟩
      · cases b with
        | nil => cases e; rfl
        | cons x b =>
          have em := (List.cons.inj e).2
          have := ascends_above h a (by rw [em]; simp); omega
      · cases b with
        | nil =>
          have e1 := (List.cons.inj e).1
          subst e1
          have : v = p.value := Int.le_antisymm hv h1
          rw [this]; simp
        | cons x b =>
          have em := (List.cons.inj e).2
          have := ascends_above h a (by rw [em]; simp); omega
    · simp only [hv, if_false]
      exact curveFrom_on rest p v h (by omega)

/-- A candidate judged and placed (R51, R52). -/
theorem consider_placed (c : Channel) (now : Nat) (band : Bool) (k : Nat) : Placed c now band k (c.consider now band k) := by
  intro ignored hi
  have cond : (band && decide ((k - (c.pending.getD c.target)) + ((c.pending.getD c.target) - k) ≤ c.live.settings.deadBand) &&
      decide (k ≠ c.live.settings.rest)) = true ↔ ignored := by
    rw [hi]
    simp only [Bool.and_eq_true, decide_eq_true_eq]
    constructor
    · rintro ⟨⟨a, b⟩, d⟩; exact ⟨a, d, by omega⟩
    · rintro ⟨a, b, d⟩; exact ⟨⟨a, by omega⟩, b⟩
  refine ⟨fun h => ?_, fun h ht hd => ?_, fun h ht => ?_⟩
  · unfold Channel.consider; simp only []; rw [if_pos (cond.mpr h)]
  · have e : c.consider now band k = ({ c with target := k }).startMotion now := by
      unfold Channel.consider Channel.place; simp only []; rw [if_neg (fun x => h (cond.mp x)), if_pos ⟨ht, hd⟩]
    rw [e]
    unfold Channel.startMotion
    refine ⟨fun hk => ?_, fun hk => ?_⟩
    · rw [if_neg (show ¬ c.position < k by omega), if_neg (show ¬ k < c.position by omega)]
    · by_cases hp : c.position < k
      · rw [if_pos (show c.position < k from hp), if_pos hp]; rfl
      · rw [if_neg (show ¬ c.position < k from hp), if_pos (show k < c.position by omega), if_neg hp]; rfl
  · unfold Channel.consider Channel.place; simp only []
    rw [if_neg (fun x => h (cond.mp x)), if_neg (fun x => by rcases ht with y | y; exact y x.1; exact y x.2)]

/-- The value of the effective source (R48). -/
theorem effective_sourced (s : State) (c : Channel) (v : Int) : c.effective s.table.slots = some v ↔ Sourced s c v := by
  unfold Channel.effective Sourced Shows
  simp only []
  show (if (s.slot c.live.settings.source).state = .fresh then _ else _) = _ ↔ _
  by_cases h : (s.slot c.live.settings.source).state = .fresh
  · rw [if_pos h]
    constructor
    · intro e; exact .inl ⟨h, Option.some.inj e⟩
    · rintro (e | e)
      · exact congrArg some e.2
      · exact absurd h e.1
  · rw [if_neg h]
    cases hf : c.live.settings.fallback with
    | none =>
      constructor
      · intro e; exact nomatch e
      · rintro (e | ⟨_, n, e, _⟩)
        · exact absurd e.1 h
        · exact nomatch e
    | some n =>
      simp only []
      show (if (s.slot n).state = .fresh then _ else _) = _ ↔ _
      by_cases h2 : (s.slot n).state = .fresh
      · rw [if_pos h2]
        constructor
        · intro e; exact .inr ⟨h, n, rfl, h2, Option.some.inj e⟩
        · rintro (e | ⟨_, m, e, e2⟩)
          · exact absurd e.1 h
          · cases e; exact congrArg some e2.2
      · rw [if_neg h2]
        constructor
        · intro e; exact nomatch e
        · rintro (e | ⟨_, m, e, e2⟩)
          · exact absurd e.1 h
          · cases e; exact absurd e2.1 h2

/-- An evaluation (R48, R50). -/
theorem evaluate_evaluated (s : State) (c : Channel) (band : Bool) (h : curveAscends c.live.curve = true) :
    Evaluated s c band (c.evaluate s.table.slots s.clock band) := by
  refine ⟨fun v hv => ⟨_, curvePosition_on _ v h, ?_⟩, fun hn => ?_⟩
  · unfold Channel.evaluate
    rw [(effective_sourced s c v).mpr hv]
    exact consider_placed _ _ _ _
  · have e : c.effective s.table.slots = none := by
      cases hc : c.effective s.table.slots with
      | none => rfl
      | some v => exact absurd ((effective_sourced s c v).mp hc) (hn v)
    unfold Channel.evaluate
    rw [e]
    simp only []
    cases hp : c.live.settings.policy with
    | hold => rfl
    | rest => exact consider_placed _ _ _ _
    | restAfter =>
      simp only []
      refine ⟨fun h1 => ?_, fun h1 h2 => ?_, fun h1 h2 h3 => ?_, fun h1 h2 h3 => ?_⟩
      · rw [h1]; exact consider_placed _ _ _ _
      · rw [h1]
        cases ht : c.restTimer with
        | none => exact absurd ht h2
        | some _ => rfl
      · rw [h1, h2, h3]; exact consider_placed _ _ _ _
      · rw [h1, h2, if_neg (by simp), if_neg (by simp), if_neg h3]
        have : ms (100 * c.live.settings.restDelay) = 100000 * c.live.settings.restDelay := by unfold ms; omega
        rw [this]

/-- A channel attends to the events of the slots it follows. -/
theorem attends_follows (c : Channel) (n : Nat) : (c.attends && c.consumes n) = true ↔ Follows c n := by
  unfold Channel.attends Channel.consumes Follows
  simp only [Bool.and_eq_true, Bool.or_eq_true, decide_eq_true_eq, Bool.not_eq_true']
  exact and_comm

/-- A channel that attends to no event, or to none of this slot, stays as it is (R48). -/
theorem onEvent_apart (s : State) (c : Channel) (n : Nat) (h : ¬ Follows c n) : c.onEvent s.table.slots s.clock n = c := by
  unfold Channel.onEvent
  rw [if_neg (fun x => h ((attends_follows c n).mp x))]

/-- Any other channel evaluates (R48). -/
theorem onEvent_follows (s : State) (c : Channel) (n : Nat) (h : curveAscends c.live.curve = true) :
    (Follows c n → Evaluated s c true (c.onEvent s.table.slots s.clock n)) ∧
      (¬ Follows c n → c.onEvent s.table.slots s.clock n = c) := by
  refine ⟨fun f => ?_, onEvent_apart s c n⟩
  unfold Channel.onEvent
  rw [if_pos ((attends_follows c n).mpr f)]
  exact evaluate_evaluated s c true h

end Sys2Proof.Machine
end

