-- ==== Sys2Proof/Laws/Heard.lean ====
section
/-! SUPPORT. What the consumers of slot events have heard on the way from one state to another (R31): the display link, a rule, a channel, the dimming;
each said of one way and of two ways in a row. -/

namespace Sys2Proof.Machine

/-! ### The display link (R153, R154) -/

/-- A record is due (R153). -/
theorem due_iff (d : Display) :
    d.due ≠ none ↔ d.dirty.has .topAlert = true ∨ d.dirty.has .pageSelect = true ∨ d.dirty.has (pageRecord d.page) = true := by
  unfold Display.due
  show _ ↔ d.dirty.topAlert = true ∨ d.dirty.pageSelect = true ∨ _
  split
  · simp [*]
  · split
    · simp [*]
    · split <;> simp [*]

/-- The due record depends on the marks and the page alone. -/
theorem due_same {d e : Display} (hd : d.dirty = e.dirty) (hp : d.page = e.page) : d.due = e.due := by
  unfold Display.due; rw [hd, hp]

/-- More marks keep a record due. -/
theorem due_kept {d e : Display} (hk : ∀ k, d.dirty.has k = true → e.dirty.has k = true) (hp : e.page = d.page) (h : d.due ≠ none) :
    e.due ≠ none := by
  rw [due_iff] at *
  rw [hp]
  exact h.imp (hk _) (Or.imp (hk _) (hk _))

/-- The choice leaves the marks and the page. -/
theorem linkChooses_kept (d : Display) (ready : Bool) (now : Nat) :
    (linkChooses d ready now).dirty = d.dirty ∧ (linkChooses d ready now).page = d.page := by
  unfold linkChooses
  split
  · exact ⟨rfl, rfl⟩
  · split <;> exact ⟨rfl, rfl⟩

/-- The choice of a link with a record due is the same under other marks that keep one due, and the link is then neither OFF nor IDLE. -/
theorem linkChooses_due (d : Display) (q : DirtySet) (ready : Bool) (now : Nat) (h : d.due ≠ none)
    (hq : ({ d with dirty := q } : Display).due ≠ none) :
    linkChooses { d with dirty := q } ready now = { linkChooses d ready now with dirty := q } ∧
      (linkChooses d ready now).link ≠ .off ∧ (linkChooses d ready now).link ≠ .idle := by
  unfold linkChooses
  rw [if_neg h, if_neg hq]
  split <;> exact ⟨rfl, by simp, by simp⟩

/-- Nothing done. -/
theorem LinkTold.refl (s : State) : LinkTold s s where
  off _ := rfl
  kept _ h := h
  slots _ _ _ _ h := absurd rfl h
  drivers _ _ h := absurd rfl h
  duty _ h := absurd rfl h
  stack _ h := absurd rfl h
  busy _ := rfl
  idle _ := .inl ⟨rfl, .inr rfl⟩

/-- The page stands. -/
theorem LinkTold.page {s t : State} (h : LinkTold s t) : t.display.page = s.display.page := by
  by_cases hi : s.display.link = .idle
  · rcases h.idle hi with ⟨e, _⟩ | ⟨_, e⟩
    · rw [e]
    · rw [e]; exact (linkChooses_kept _ _ _).2
  · rw [h.busy hi]

/-- The link stays OFF or stays on. -/
theorem LinkTold.on {s t : State} (h : LinkTold s t) : t.display.link = .off ↔ s.display.link = .off := by
  by_cases hi : s.display.link = .idle
  · rcases h.idle hi with ⟨e, _⟩ | ⟨d, e⟩
    · rw [e]
    · rw [hi, e]
      have hd : ({ s.display with dirty := t.display.dirty } : Display).due ≠ none := by
        rw [due_same (d := ({ s.display with dirty := t.display.dirty } : Display)) (e := t.display) rfl h.page.symm]; exact d
      have := (linkChooses_due _ t.display.dirty s.pins.ready s.clock hd hd).2.1
      constructor
      · intro k; exact absurd k this
      · intro k; exact nomatch k
  · rw [h.busy hi]

/-- One after the other. -/
theorem LinkTold.trans {s t u : State} (h : LinkTold s t) (k : LinkTold t u) (hp : t.pins = s.pins) (hc : t.clock = s.clock) :
    LinkTold s u where
  off ho := (k.off (h.on.mpr ho)).trans (h.off ho)
  kept q hq := k.kept q (h.kept q hq)
  slots ho n q hm hn := by
    have ho' : t.display.link ≠ .off := fun e => ho (h.on.mp e)
    by_cases e : u.slot n = t.slot n
    · exact k.kept q (h.slots ho n q hm (e ▸ hn))
    · exact k.slots ho' n q hm e
  drivers ho d hd := by
    have ho' : t.display.link ≠ .off := fun e => ho (h.on.mp e)
    by_cases e : (u.driver d).state = (t.driver d).state
    · exact k.kept _ (h.drivers ho d (e ▸ hd))
    · exact k.drivers ho' d e
  duty ho hd := by
    have ho' : t.display.link ≠ .off := fun e => ho (h.on.mp e)
    by_cases e : u.telltale.duty = t.telltale.duty
    · exact k.kept .pageSelect (h.duty ho (e ▸ hd))
    · exact k.duty ho' e
  stack ho hs := by
    have ho' : t.display.link ≠ .off := fun e => ho (h.on.mp e)
    by_cases e : u.alert.stack = t.alert.stack
    · have := h.stack ho (e ▸ hs)
      exact ⟨k.kept .topAlert this.1, k.kept .alertList this.2⟩
    · exact k.stack ho' e
  busy hb := by
    have e := h.busy hb
    have ht : t.display.link ≠ .idle := by rw [e]; exact hb
    rw [k.busy ht, e]
  idle hi := by
    have up : u.display.page = s.display.page := k.page.trans h.page
    rcases h.idle hi with ⟨e, c⟩ | ⟨d, e⟩
    · have ht : t.display.link = .idle := by rw [e]; exact hi
      have st : ∀ q : DirtySet, ({ t.display with dirty := q } : Display) = { s.display with dirty := q } := fun q => by rw [e]
      rcases k.idle ht with ⟨e2, c2⟩ | ⟨d2, e2⟩
      · rw [st] at e2
        refine .inl ⟨e2, ?_⟩
        rcases c2 with c2 | c2
        · exact .inl c2
        · rcases c with c | c
          · exact .inl ((due_same c2 k.page).trans c)
          · exact .inr (c2.trans c)
      · rw [st, hp, hc] at e2
        exact .inr ⟨d2, e2⟩
    · have du : u.display.due ≠ none := due_kept k.kept k.page d
      have q1 : ({ s.display with dirty := t.display.dirty } : Display).due ≠ none := by
        rw [due_same (d := ({ s.display with dirty := t.display.dirty } : Display)) (e := t.display) rfl h.page.symm]; exact d
      have q2 : ({ s.display with dirty := u.display.dirty } : Display).due ≠ none := by
        rw [due_same (d := ({ s.display with dirty := u.display.dirty } : Display)) (e := u.display) rfl up.symm]; exact du
      have l := linkChooses_due ({ s.display with dirty := t.display.dirty } : Display) u.display.dirty s.pins.ready s.clock q1 q2
      have ht : t.display.link ≠ .idle := by rw [e]; exact l.2.2
      refine .inr ⟨du, (k.busy ht).trans ?_⟩
      conv => lhs; rw [show ({ t.display with dirty := u.display.dirty } : Display) =
        { linkChooses ({ s.display with dirty := t.display.dirty } : Display) s.pins.ready s.clock with dirty := u.display.dirty } by
          rw [← e]]
      exact l.1.symm

/-- A change that the link does not show. -/
theorem LinkTold.same {s t : State} (hd : t.display = s.display) (hs : t.table.slots = s.table.slots)
    (hr : ∀ d, (t.driver d).state = (s.driver d).state) (hu : t.telltale.duty = s.telltale.duty)
    (hk : t.alert.stack = s.alert.stack) : LinkTold s t where
  off _ := hd
  kept _ h := by rw [hd]; exact h
  slots _ n _ _ h := absurd (by simp only [State.slot, hs]) h
  drivers _ d h := absurd (hr d) h
  duty _ h := absurd hu h
  stack _ h := absurd hk h
  busy _ := by rw [hd]
  idle _ := .inl ⟨by rw [hd], .inr (by rw [hd])⟩

/-! ### A rule (R75, R78) -/

/-- The table of R75, written out. -/
theorem ruleAfter_react (now i : Nat) (r : Rule) (k : SlotRecord) : (r.react i now k).1 = ruleAfter now r k := by
  have c : 100000 * (r.c.map (·.confirmTime)).getD 0 = r.confirmTime := by
    unfold Rule.confirmTime ms
    cases r.c with
    | none => rfl
    | some c => show 100000 * c.confirmTime = 100 * c.confirmTime * 1000; omega
  unfold Rule.react ruleAfter
  rw [c]
  generalize r.confirmTime = ct
  generalize r.judge r.condition k = after
  cases hl : r.live <;> cases hc : r.condition <;> cases after <;> simp [Rule.activate, Rule.deactivate]
  split <;> rfl

/-- An evaluation changes the live state alone. -/
theorem ruleAfter_fixed (now : Nat) (r : Rule) (k : SlotRecord) : (ruleAfter now r k).fixed = r.fixed := by
  rw [← ruleAfter_react now 0]
  unfold Rule.react
  simp only []
  split
  · split <;> rfl
  · rfl
  · rfl
  · rfl

/-- No evaluation. -/
theorem RuleHeard.none {must : Nat → Prop} {s t : State} {i : Nat} (hr : t.rule i = s.rule i)
    (hm : ∀ a, (s.rule i).a = some a → RulesRun s → (s.rule i).life = .live → ¬ must a.slot) : RuleHeard must s t i :=
  ⟨[], hr, fun h => absurd rfl h, fun a ha => ⟨fun _ h => by simp at h, fun h1 h2 h3 => absurd h3 (hm a ha h1 h2)⟩⟩

/-- One evaluation of the slot's record as it stands. -/
theorem RuleHeard.one {must : Nat → Prop} {s t : State} {i n : Nat} (hr : t.rule i = ruleAfter s.clock (s.rule i) (t.slot n))
    (hp : RulesRun s) (hn : (s.rule i).liveSlot = some n) : RuleHeard must s t i := by
  have hl : (s.rule i).life = .live ∧ ∀ a, (s.rule i).a = some a → a.slot = n := by
    unfold Rule.liveSlot at hn
    split at hn
    · next x y a e1 e2 => exact ⟨e1, fun b hb => by rw [e2] at hb; cases hb; exact Option.some.inj hn⟩
    · exact nomatch hn
  exact ⟨[t.slot n], hr, fun _ => ⟨hp, hl.1⟩, fun a ha =>
    ⟨fun k hk => by rw [hl.2 a ha]; exact (Option.some.inj hk).symm, fun _ _ _ => by simp⟩⟩

/-- Fewer slots. -/
theorem RuleHeard.weaken {must less : Nat → Prop} {s t : State} {i : Nat} (h : RuleHeard must s t i) (hm : ∀ n, less n → must n) :
    RuleHeard less s t i := by
  obtain ⟨l, h1, h2, h3⟩ := h
  exact ⟨l, h1, h2, fun a ha => ⟨(h3 a ha).1, fun x y z => (h3 a ha).2 x y (hm _ z)⟩⟩

/-- One way after the other. -/
theorem RuleHeard.trans {p q : Nat → Prop} {s t u : State} {i : Nat} (h : RuleHeard p s t i) (k : RuleHeard q t u i)
    (hf : (t.rule i).fixed = (s.rule i).fixed) (hc : t.clock = s.clock) (hi : t.ign = s.ign)
    (hq : ∀ n, u.slot n ≠ t.slot n → q n) : RuleHeard (fun n => p n ∨ q n) s u i := by
  have ea : (t.rule i).a = (s.rule i).a := by have e := congrArg Rule.a hf; exact e
  have el : (t.rule i).life = (s.rule i).life := by have e := congrArg Rule.life hf; exact e
  have ep : RulesRun t ↔ RulesRun s := by unfold RulesRun; rw [hi]
  obtain ⟨l, h1, h2, h3⟩ := h
  obtain ⟨m, k1, k2, k3⟩ := k
  rw [hc, h1] at k1
  rw [el, ep] at k2
  refine ⟨l ++ m, by rw [k1, List.foldl_append], fun hne => ?_, fun a ha => ⟨fun r hr => ?_, fun x y z => ?_⟩⟩
  · by_cases e : m = []
    · exact h2 (by simpa [e] using hne)
    · exact k2 e
  · have k3 := k3 a (ea.trans ha)
    by_cases e : m = []
    · subst e
      rw [List.append_nil] at hr
      have r1 := (h3 a ha).1 r hr
      have hl := h2 (by rintro rfl; simp at hr)
      by_cases es : u.slot a.slot = t.slot a.slot
      · rw [es]; exact r1
      · exact absurd rfl (k3.2 (ep.mpr hl.1) (el.trans hl.2) (hq _ es))
    · rw [List.getLast?_append_of_ne_nil _ e] at hr
      exact k3.1 r hr
  · rcases z with z | z
    · intro e; exact (h3 a ha).2 x y z (List.append_eq_nil_iff.mp e).1
    · intro e; exact (k3 a (ea.trans ha)).2 (ep.mpr x) (el.trans y) z (List.append_eq_nil_iff.mp e).2

/-! ### The dimming (R84) -/

/-- The duty that the block works out is that of R84. -/
theorem dutyNow_is (s : State) : DutyIs s s.dutyNow := by
  unfold State.dutyNow State.paramSlot State.paramNat
  refine ⟨fun h => ?_, fun n hn => ⟨fun h => ?_, fun h => ?_⟩⟩
  · rw [if_neg (by omega)]
  · rw [if_pos (by omega), hn]
    simp only [Int.toNat_natCast]
    rw [if_neg h]
  · rw [if_pos (by omega), hn]
    simp only [Int.toNat_natCast]
    rw [if_pos h]
    omega

/-- The duty depends on the two parameters and on the dimmer slot alone. -/
theorem dutyIs_move {s t : State} {d : Nat} (h : DutyIs s d) (hp : ∀ id, t.param id = s.param id)
    (hs : ∀ n : Nat, s.param 4 = n → t.slot n = s.slot n) : DutyIs t d := by
  unfold DutyIs at *
  rw [hp 4, hp 5]
  exact ⟨h.1, fun n hn => by rw [hs n hn]; exact h.2 n hn⟩

/-- Nothing done. -/
theorem DimmingHeard.none {ev : Nat → Prop} {s t : State} (hd : t.telltale.duty = s.telltale.duty)
    (hs : ∀ n : Nat, s.param 4 = n → t.slot n = s.slot n) : DimmingHeard ev s t :=
  ⟨.inl hd, fun n hn => ⟨fun _ => hd, fun h => absurd (hs n hn) h⟩⟩

/-- The duty worked out. -/
theorem DimmingHeard.one {ev : Nat → Prop} {s t : State} (hd : DutyIs t t.telltale.duty)
    (he : ∀ n : Nat, s.param 4 = n → ev n) : DimmingHeard ev s t :=
  ⟨.inr hd, fun n hn => ⟨fun h => absurd (he n hn) h, fun _ => hd⟩⟩

/-- More slots with events. -/
theorem DimmingHeard.wide {ev dv : Nat → Prop} {s t : State} (h : DimmingHeard ev s t) (hd : ∀ n, ev n → dv n) : DimmingHeard dv s t :=
  ⟨h.1, fun n hn => ⟨fun x => (h.2 n hn).1 fun y => x (hd n y), (h.2 n hn).2⟩⟩

/-- A duty that was right stays right. -/
theorem DimmingHeard.right {ev : Nat → Prop} {s t : State} (h : DimmingHeard ev s t) (hp : ∀ id, t.param id = s.param id)
    (hd : DutyIs s s.telltale.duty) : DutyIs t t.telltale.duty := by
  rcases h.1 with e | e
  · by_cases hs : ∀ n : Nat, s.param 4 = n → t.slot n = s.slot n
    · rw [e]; exact dutyIs_move hd hp hs
    · simp only [not_forall] at hs
      obtain ⟨n, hn, hs⟩ := hs
      exact (h.2 n hn).2 hs
  · exact e

/-- One way after the other. -/
theorem DimmingHeard.trans {ev : Nat → Prop} {s t u : State} (h : DimmingHeard ev s t) (k : DimmingHeard ev t u)
    (hp : ∀ id, t.param id = s.param id) (hq : ∀ id, u.param id = t.param id) : DimmingHeard ev s u := by
  refine ⟨?_, fun n hn => ⟨fun x => ?_, fun x => ?_⟩⟩
  · rcases h.1 with e | e
    · rcases k.1 with f | f
      · exact .inl (f.trans e)
      · exact .inr f
    · exact .inr (k.right hq e)
  · exact ((k.2 n (by rw [hp]; exact hn)).1 x).trans ((h.2 n hn).1 x)
  · by_cases e : u.slot n = t.slot n
    · exact k.right hq ((h.2 n hn).2 (e ▸ x))
    · exact (k.2 n (by rw [hp]; exact hn)).2 e

/-! ### A channel (R31, R48) -/

/-- An evaluation depends on the clock and on the channel's two slots alone. -/
theorem evaluated_move {s t : State} {c d : Channel} {band : Bool} (h : Evaluated s c band d) (hc : t.clock = s.clock)
    (h1 : t.slot c.live.settings.source = s.slot c.live.settings.source)
    (h2 : ∀ n, c.live.settings.fallback = some n → t.slot n = s.slot n) : Evaluated t c band d := by
  have e : ∀ v, Sourced t c v ↔ Sourced s c v := fun v => by
    unfold Sourced Shows
    rw [h1]
    refine or_congr Iff.rfl (and_congr Iff.rfl (exists_congr fun n => and_congr_right fun hn => ?_))
    rw [h2 n hn]
  unfold Evaluated at *
  rw [hc]
  exact ⟨fun v hv => h.1 v ((e v).mp hv), fun hv => h.2 fun v hs => hv v ((e v).mpr hs)⟩

/-- A candidate placed leaves the live record. -/
theorem placed_live {c d : Channel} {now : Nat} {band : Bool} {k : Nat} (h : Placed c now band k d) : d.live = c.live := by
  have H := h _ Iff.rfl
  by_cases hi : band = true ∧ k ≠ c.live.settings.rest ∧
      ((k : Int) - (c.pending.getD c.target : Nat)).natAbs ≤ c.live.settings.deadBand
  · rw [H.1 hi]
  · by_cases ht : c.state = .tracking ∧ c.direction = .none
    · by_cases hk : k = c.position
      · rw [(H.2.1 hi ht.1 ht.2).1 hk]
      · rw [(H.2.1 hi ht.1 ht.2).2 hk]
    · rw [H.2.2 hi (Decidable.not_and_iff_or_not.mp ht)]

/-- An evaluation leaves the live record. -/
theorem evaluated_live {s : State} {c d : Channel} {band : Bool} (h : Evaluated s c band d) : d.live = c.live := by
  by_cases hv : ∃ v, Sourced s c v
  · obtain ⟨v, hv⟩ := hv
    obtain ⟨p, _, hp⟩ := h.1 v hv
    exact (placed_live hp).trans rfl
  · have H := h.2 fun v hs => hv ⟨v, hs⟩
    cases hp : c.live.settings.policy with
    | hold => rw [hp] at H; rw [H]
    | rest => rw [hp] at H; exact placed_live H
    | restAfter =>
      rw [hp] at H
      obtain ⟨a1, a2, a3, a4⟩ := H
      by_cases hm : c.restMark = true
      · exact placed_live (a1 hm)
      · have hm : c.restMark = false := by simpa using hm
        by_cases ht : c.restTimer = none
        · by_cases hd : c.live.settings.restDelay = 0
          · exact (placed_live (a3 hm ht hd)).trans rfl
          · rw [a4 hm ht hd]
        · rw [a2 hm ht]

/-- Evaluations leave the live record. -/
theorem evaluations_live {now : Nat} {c d : Channel} (h : Relation.ReflTransGen (EvaluatedAt now) c d) : d.live = c.live := by
  induction h with
  | refl => rfl
  | tail _ e ih =>
    obtain ⟨x, _, ev⟩ := e
    exact (evaluated_live ev).trans ih

/-- No evaluation. -/
theorem ChannelHeard.none {must : Nat → Prop} {s t : State} {c : Nat} (hr : t.channel c = s.channel c)
    (hm : ∀ n, must n → ¬ Follows (s.channel c) n) : ChannelHeard must s t c :=
  fun _ _ _ => ⟨.inl hr, fun n h f => absurd f (hm n h)⟩

/-- One evaluation on the slots as they stand. -/
theorem ChannelHeard.one {must : Nat → Prop} {s t : State} {c : Nat}
    (h : curveAscends (s.channel c).live.curve = true → Evaluated t (s.channel c) true (t.channel c)) : ChannelHeard must s t c :=
  fun hc _ hm =>
    have m := hm.mpr ⟨_, .refl, h hc⟩
    ⟨.inr m, fun _ _ _ => m⟩

/-- Fewer slots. -/
theorem ChannelHeard.weaken {must less : Nat → Prop} {s t : State} {c : Nat} (h : ChannelHeard must s t c)
    (hm : ∀ n, less n → must n) : ChannelHeard less s t c :=
  fun hc moved hmv => ⟨(h hc moved hmv).1, fun n hn f => (h hc moved hmv).2 n (hm n hn) f⟩

/-- A channel whose fixed part stands follows the same slots. -/
theorem follows_fixed {c d : Channel} (h : d.fixed = c.fixed) (n : Nat) : Follows d n ↔ Follows c n := by
  have e1 : d.live = c.live := by have e := congrArg Channel.live h; exact e
  have e2 : d.state = c.state := by have e := congrArg Channel.state h; exact e
  have e3 : d.parkMark = c.parkMark := by have e := congrArg Channel.parkMark h; exact e
  unfold Follows
  rw [e1, e2, e3]

/-- One way after the other. -/
theorem ChannelHeard.trans {p q : Nat → Prop} {s t u : State} {c : Nat} (h : ChannelHeard p s t c) (k : ChannelHeard q t u c)
    (hf : (t.channel c).fixed = (s.channel c).fixed) (hc : t.clock = s.clock) (hu : u.clock = t.clock)
    (hd : (s.channel c).attends = false → t.channel c = s.channel c ∧ u.channel c = t.channel c)
    (hq : ∀ n, u.slot n ≠ t.slot n → q n) : ChannelHeard (fun n => p n ∨ q n) s u c := by
  have el : (t.channel c).live = (s.channel c).live := by have e := congrArg Channel.live hf; exact e
  intro ha moved hm
  have H := h ha _ Iff.rfl
  have K := k (by rw [el]; exact ha) _ Iff.rfl
  rw [hc] at K
  have way : Relation.ReflTransGen (EvaluatedAt s.clock) (s.channel c) (t.channel c) := by
    rcases H.1 with e | ⟨d, w, ev⟩
    · rw [e]
    · exact w.tail ⟨t, hc, ev⟩
  have second : (∃ d, Relation.ReflTransGen (EvaluatedAt s.clock) (t.channel c) d ∧ Evaluated u d true (u.channel c)) → moved := by
    rintro ⟨d, w, ev⟩
    exact hm.mpr ⟨d, way.trans w, ev⟩
  have turn : (∃ d, Relation.ReflTransGen (EvaluatedAt s.clock) (s.channel c) d ∧ Evaluated t d true (t.channel c)) →
      u.channel c = t.channel c → (s.channel c).attends = true → moved := by
    rintro ⟨d, w, ev⟩ e att
    by_cases hs : ∃ n, Follows (s.channel c) n ∧ u.slot n ≠ t.slot n
    · obtain ⟨n, f, hn⟩ := hs
      exact second (K.2 n (hq n hn) ((follows_fixed hf n).mpr f))
    · have dl := evaluations_live w
      have att' : (s.channel c).state = .tracking ∨ ((s.channel c).state = .homing ∧ (s.channel c).parkMark = false) := by
        simpa [Channel.attends] using att
      have same : ∀ n, Follows (s.channel c) n → u.slot n = t.slot n := fun n f => by_contra fun x => hs ⟨n, f, x⟩
      refine hm.mpr ⟨d, w, ?_⟩
      rw [e]
      refine evaluated_move ev hu ?_ fun n hn => ?_
      · rw [dl]; exact same _ ⟨.inl rfl, att'⟩
      · rw [dl] at hn; exact same _ ⟨.inr hn, att'⟩
  refine ⟨?_, fun n hn f => ?_⟩
  · rcases K.1 with e | m
    · rcases H.1 with e2 | m
      · exact .inl (e.trans e2)
      · cases att : (s.channel c).attends
        · exact .inl ((hd att).2.trans (hd att).1)
        · exact .inr (turn m e att)
    · exact .inr (second m)
  · rcases hn with hn | hn
    · have att : (s.channel c).attends = true := by simpa [Channel.attends] using f.2
      rcases K.1 with e | m
      · exact turn (H.2 n hn f) e att
      · exact second m
    · exact second (K.2 n hn ((follows_fixed hf n).mpr f))

end Sys2Proof.Machine
end

