-- ==== Sys2Proof/Laws/Ripple.lean ====
section
/-! SUPPORT. What delivering a slot change can do, said once: each shared operation is a `Ripple` (Safety.lean), and what a
ripple keeps, field by field. -/

namespace Sys2Proof.Machine

theorem Ripple.refl (ch : Nat → Prop) (s : State) : Ripple ch s s where
  outside := rfl
  slots _ _ := rfl
  marks := ⟨rfl, rfl, rfl⟩
  channels _ := rfl
  deaf _ _ := rfl
  still _ _ := rfl
  followed _ := .none rfl fun _ h _ => h rfl
  aside _ _ := rfl
  rules _ := rfl
  reacted _ := .none rfl fun _ _ _ _ h => h rfl
  spared _ _ := rfl
  dimmed := .none rfl fun _ _ => rfl
  telltale := rfl
  alert := rfl
  stack h := h
  asleep _ h := h
  told := LinkTold.refl s
  flags _ h := h
  sent := ⟨[], (List.append_nil _).symm⟩
  room h := h

theorem State.outside_ign (s : State) : s.outside.ign = s.ign := rfl

theorem Ripple.trans {ch ev : Nat → Prop} {s t u : State} (h : Ripple ch s t ev) (k : Ripple ch t u ev) : Ripple ch s u ev where
  outside := k.outside.trans h.outside
  slots n hn := (k.slots n hn).trans (h.slots n hn)
  marks := ⟨k.marks.1.trans h.marks.1, k.marks.2.1.trans h.marks.2.1, k.marks.2.2.trans h.marks.2.2⟩
  channels c := (k.channels c).trans (h.channels c)
  deaf c hc := by
    have e := h.deaf c hc
    exact (k.deaf c (by rw [e]; exact hc)).trans e
  still c hc := by
    have e : (t.channel c).state = (s.channel c).state := by
      have e := congrArg Channel.state (h.channels c); exact e
    exact (k.still c (by rw [e]; exact hc)).trans (h.still c hc)
  followed c := by
    have hc : t.clock = s.clock := by
      have e := congrArg State.clock h.outside; exact e
    have hu : u.clock = t.clock := by
      have e := congrArg State.clock k.outside; exact e
    refine ((h.followed c).trans (k.followed c) (h.channels c) hc hu (fun e => ?_) fun _ h => h).weaken fun n hn => ?_
    · have e1 := h.deaf c e
      exact ⟨e1, k.deaf c (by rw [e1]; exact e)⟩
    · by_cases e : u.slot n = t.slot n
      · exact .inl fun e2 => hn (e.trans e2)
      · exact .inr e
  aside c hc := by
    have e := h.aside c hc
    exact (k.aside c fun n hn => by rw [e]; exact hc n hn).trans e
  rules i := (k.rules i).trans (h.rules i)
  spared i hi := by
    have e := h.spared i hi
    exact (k.spared i fun a ha => by rw [e] at ha; exact hi a ha).trans e
  dimmed := by
    have p : ∀ {ch ev : Nat → Prop} {x y : State}, Ripple ch x y ev → ∀ id, y.param id = x.param id := fun h id => by
      have e1 := congrArg (fun u : State => u.mgmt.held) h.outside
      have e2 := congrArg (fun u : State => u.mgmt.inEffect) h.outside
      have e1 : _ = _ := e1
      simp only [State.outside] at e1 e2
      simp only [State.param, State.held, e1, e2]
    exact h.dimmed.trans k.dimmed (p h) (p k)
  reacted i := by
    have hg : t.ign = s.ign := by
      have e := congrArg State.ign h.outside; exact e
    have hc : t.clock = s.clock := by
      have e := congrArg State.clock h.outside; exact e
    refine ((h.reacted i).trans (k.reacted i) (h.rules i) hc hg fun _ h => h).weaken fun n hn => ?_
    by_cases e : u.slot n = t.slot n
    · exact .inl fun e2 => hn (e.trans e2)
    · exact .inr e
  telltale := k.telltale.trans h.telltale
  alert := k.alert.trans h.alert
  stack hs := k.stack (h.stack hs)
  asleep hp hs := by
    have hi : t.ign = s.ign := by
      have e := congrArg State.ign h.outside
      exact e
    exact k.asleep (by rw [hi]; exact hp) (h.asleep hp hs)
  told := by
    have hp : t.pins = s.pins := by
      have e := congrArg State.pins h.outside; exact e
    have hc : t.clock = s.clock := by
      have e := congrArg State.clock h.outside; exact e
    exact h.told.trans k.told hp hc
  flags f hf := k.flags f (h.flags f hf)
  sent := by
    obtain ⟨a, ha⟩ := h.sent
    obtain ⟨b, hb⟩ := k.sent
    exact ⟨a ++ b, by rw [hb, ha, List.append_assoc]⟩
  room hr := k.room (h.room hr)

/-- More slots with events. -/
theorem Ripple.wide {ch ev dv : Nat → Prop} {s t : State} (h : Ripple ch s t ev) (hd : ∀ n, ev n → dv n) : Ripple ch s t dv :=
  { h with
    aside := fun c hc => h.aside c fun n hn => hc n (hd n hn)
    spared := fun i hi => h.spared i fun a ha hn => hi a ha (hd _ hn)
    dimmed := h.dimmed.wide hd }

/-- More slots written. -/
theorem Ripple.mono {ch dh : Nat → Prop} {s t : State} (h : Ripple ch s t) (hc : ∀ n, ch n → dh n) : Ripple dh s t :=
  { h.wide hc with slots := fun n hn => h.slots n (fun hh => hn (hc n hh)) }

/-- The slot with the event is among those written. -/
theorem Ripple.own {ch : Nat → Prop} {n : Nat} {s t : State} (h : Ripple ch s t (fun m => m = n ∨ ch m)) (hn : ch n) : Ripple ch s t :=
  h.wide fun m hm => by
    rcases hm with rfl | hm
    · exact hn
    · exact hm

/-- A fold of ripples is a ripple. -/
theorem Ripple.foldl {ch : Nat → Prop} {α : Type} (f : State → α → State) (hf : ∀ s a, Ripple ch s (f s a)) :
    ∀ (l : List α) (s : State), Ripple ch s (l.foldl f s)
  | [], s => Ripple.refl ch s
  | a :: l, s => (hf s a).trans (Ripple.foldl f hf l (f s a))

/-- The part of the display link that a ripple leaves alone. -/
def Display.fixed (d : Display) : Display :=
  { d with link := .off, dirty := DirtySet.clean, readyTimer := none, retryTimer := none, startTimer := none }

/-- The link stays OFF or stays on. -/
def Display.keeps (d e : Display) : Prop :=
  (e.link = .off ↔ d.link = .off) ∧
    (d.link = .off → e.readyTimer = d.readyTimer ∧ e.retryTimer = d.retryTimer ∧ e.startTimer = d.startTimer)

/-- A choice leaves the same part. -/
theorem linkChooses_fixed (d : Display) (ready : Bool) (now : Nat) : (linkChooses d ready now).fixed = d.fixed := by
  unfold linkChooses
  split
  · rfl
  · split <;> rfl

theorem Ripple.display {ch ev : Nat → Prop} {s t : State} (h : Ripple ch s t ev) : t.display.fixed = s.display.fixed := by
  by_cases hi : s.display.link = .idle
  · rcases h.told.idle hi with ⟨e, _⟩ | ⟨_, e⟩
    · rw [e]; rfl
    · rw [e, linkChooses_fixed]; rfl
  · rw [h.told.busy hi]; rfl

theorem Ripple.link {ch ev : Nat → Prop} {s t : State} (h : Ripple ch s t ev) : s.display.keeps t.display :=
  ⟨h.told.on, fun ho => by rw [h.told.off ho]; exact ⟨rfl, rfl, rfl⟩⟩

/-- Rules evaluate in WAKING and RUN, and LIVE ones alone (R75, R78). -/
theorem Ripple.evaluated {ch ev : Nat → Prop} {s t : State} (h : Ripple ch s t ev) (i : Nat) (hi : t.rule i ≠ s.rule i) :
    (s.ign.power = .waking ∨ s.ign.power = .run) ∧ (s.rule i).life = .live := by
  obtain ⟨l, h1, h2, _⟩ := h.reacted i
  exact h2 fun e => hi (by rw [h1, e]; rfl)

/-! ### What a ripple keeps, field by field -/

theorem Ripple.clock {ch ev : Nat → Prop} {s t : State} (h : Ripple ch s t ev) : t.clock = s.clock := by
  have e := congrArg State.clock h.outside; exact e
theorem Ripple.powered {ch ev : Nat → Prop} {s t : State} (h : Ripple ch s t ev) : t.powered = s.powered := by
  have e := congrArg State.powered h.outside; exact e
theorem Ripple.ign {ch ev : Nat → Prop} {s t : State} (h : Ripple ch s t ev) : t.ign = s.ign := by
  have e := congrArg State.ign h.outside; exact e
theorem Ripple.pins {ch ev : Nat → Prop} {s t : State} (h : Ripple ch s t ev) : t.pins = s.pins := by
  have e := congrArg State.pins h.outside; exact e
theorem Ripple.portL {ch ev : Nat → Prop} {s t : State} (h : Ripple ch s t ev) : t.portL = s.portL := by
  have e := congrArg State.portL h.outside; exact e
theorem Ripple.portT {ch ev : Nat → Prop} {s t : State} (h : Ripple ch s t ev) :
    ({ t.portT with txDrop := 0 } : PortBlock) = { s.portT with txDrop := 0 } := by
  have e := congrArg State.portT h.outside; exact e
theorem Ripple.queue {ch ev : Nat → Prop} {s t : State} (h : Ripple ch s t ev) : t.intake.queue = s.intake.queue := by
  have e := congrArg (fun u => u.intake.queue) h.outside; exact e
theorem Ripple.routes {ch ev : Nat → Prop} {s t : State} (h : Ripple ch s t ev) : t.intake.routes = s.intake.routes := by
  have e := congrArg (fun u => u.intake.routes) h.outside; exact e
theorem Ripple.build {ch ev : Nat → Prop} {s t : State} (h : Ripple ch s t ev) : t.intake.build = s.intake.build := by
  have e := congrArg (fun u => u.intake.build) h.outside; exact e
theorem Ripple.dist {ch ev : Nat → Prop} {s t : State} (h : Ripple ch s t ev) : t.dist = s.dist := by
  have e := congrArg State.dist h.outside; exact e
theorem Ripple.mask {ch ev : Nat → Prop} {s t : State} (h : Ripple ch s t ev) : t.mgmt.mask = s.mgmt.mask := by
  have e := congrArg (fun u => u.mgmt.mask) h.outside; exact e
theorem Ripple.heldBank {ch ev : Nat → Prop} {s t : State} (h : Ripple ch s t ev) : t.mgmt.held = s.mgmt.held := by
  have e := congrArg (fun u => u.mgmt.held) h.outside; exact e
theorem Ripple.inEffect {ch ev : Nat → Prop} {s t : State} (h : Ripple ch s t ev) : t.mgmt.inEffect = s.mgmt.inEffect := by
  have e := congrArg (fun u => u.mgmt.inEffect) h.outside; exact e
theorem Ripple.restart {ch ev : Nat → Prop} {s t : State} (h : Ripple ch s t ev) : t.mgmt.restart = s.mgmt.restart := by
  have e := congrArg (fun u => u.mgmt.restart) h.outside; exact e
theorem Ripple.store {ch ev : Nat → Prop} {s t : State} (h : Ripple ch s t ev) : t.store = s.store := by
  have e := congrArg State.store h.outside; exact e
theorem Ripple.fresh {ch ev : Nat → Prop} {s t : State} (h : Ripple ch s t ev) : t.fresh = s.fresh := by
  have e := congrArg State.fresh h.outside; exact e
theorem Ripple.pending {ch ev : Nat → Prop} {s t : State} (h : Ripple ch s t ev) : t.pending = s.pending := by
  have e := congrArg State.pending h.outside; exact e

theorem Ripple.param {ch ev : Nat → Prop} {s t : State} (h : Ripple ch s t ev) (id : Nat) : t.param id = s.param id := by
  simp only [State.param, State.held, h.heldBank, h.inEffect]

theorem Ripple.page {ch ev : Nat → Prop} {s t : State} (h : Ripple ch s t ev) : t.display.page = s.display.page := by
  have e := congrArg Display.page h.display; exact e
theorem Ripple.life {ch ev : Nat → Prop} {s t : State} (h : Ripple ch s t ev) (i : Nat) : (t.rule i).life = (s.rule i).life := by
  have e := congrArg Rule.life (h.rules i); exact e
theorem Ripple.partA {ch ev : Nat → Prop} {s t : State} (h : Ripple ch s t ev) (i : Nat) : (t.rule i).a = (s.rule i).a := by
  have e := congrArg Rule.a (h.rules i); exact e
theorem Ripple.partD {ch ev : Nat → Prop} {s t : State} (h : Ripple ch s t ev) (i : Nat) : (t.rule i).d = (s.rule i).d := by
  have e := congrArg Rule.d (h.rules i); exact e

/-- A ripple leaves the codes that rules hold alone. -/
theorem Ripple.heldCode {ch ev : Nat → Prop} {s t : State} (h : Ripple ch s t ev) (i : Nat) : t.heldCode i = s.heldCode i := by
  unfold State.heldCode
  rw [h.life i, h.partD i]

/-! ### One channel and one rule -/

theorem Channel.startMotion_fixed (c : Channel) (now : Nat) : (c.startMotion now).fixed = c.fixed := by
  unfold Channel.startMotion
  split
  · rfl
  · split <;> rfl

theorem Channel.place_fixed (c : Channel) (now k : Nat) : (c.place now k).fixed = c.fixed := by
  unfold Channel.place
  split
  · exact Channel.startMotion_fixed _ _
  · rfl

theorem Channel.consider_fixed (c : Channel) (now : Nat) (band : Bool) (k : Nat) :
    (c.consider now band k).fixed = c.fixed := by
  unfold Channel.consider
  simp only []
  split
  · rfl
  · exact Channel.place_fixed _ _ _

theorem Channel.evaluate_fixed (c : Channel) (slots : Bank SlotRecord 96) (now : Nat) (band : Bool) :
    (c.evaluate slots now band).fixed = c.fixed := by
  unfold Channel.evaluate
  split
  · rw [Channel.consider_fixed]; rfl
  · split
    · rfl
    · rw [Channel.consider_fixed]
    · split
      · rw [Channel.consider_fixed]
      · split
        · rfl
        · split
          · rw [Channel.consider_fixed]; rfl
          · rfl

theorem Channel.onEvent_fixed (c : Channel) (slots : Bank SlotRecord 96) (now n : Nat) :
    (c.onEvent slots now n).fixed = c.fixed := by
  unfold Channel.onEvent
  split
  · exact Channel.evaluate_fixed _ _ _ _
  · rfl

theorem Channel.consider_motion (c : Channel) (now : Nat) (band : Bool) (k : Nat) (h : c.state ≠ .tracking) :
    (c.consider now band k).motion = c.motion := by
  unfold Channel.consider Channel.place
  simp only []
  split
  · rfl
  · rw [if_neg (fun e => h e.1)]; rfl

/-- Only a TRACKING needle is set in motion (R51). -/
theorem Channel.evaluate_motion (c : Channel) (slots : Bank SlotRecord 96) (now : Nat) (band : Bool) (h : c.state ≠ .tracking) :
    (c.evaluate slots now band).motion = c.motion := by
  unfold Channel.evaluate
  split
  · exact Channel.consider_motion { c with restTimer := none, restMark := false } _ _ _ h
  · split
    · rfl
    · exact Channel.consider_motion _ _ _ _ h
    · split
      · exact Channel.consider_motion _ _ _ _ h
      · split
        · rfl
        · split
          · exact Channel.consider_motion { c with restMark := true } _ _ _ h
          · rfl

theorem Rule.react_fixed (r : Rule) (i now : Nat) (rec : SlotRecord) : ((r.react i now rec).1).fixed = r.fixed := by
  unfold Rule.react
  simp only []
  split
  · split <;> rfl
  · rfl
  · rfl
  · rfl

/-! ### The basic operations are ripples -/

section Basic
variable (ch : Nat → Prop)

theorem channel_gaugeEvent (s : State) (n c : Nat) :
    ((s.gaugeEvent n).channel c).fixed = (s.channel c).fixed := by
  by_cases h : c < 8
  · have e : (s.gaugeEvent n).channel c = (s.channel c).onEvent s.table.slots s.clock n := by
      simp only [State.channel, State.gaugeEvent]
      exact Bank.get_map_inside _ _ _ _ _ h
    rw [e]; exact Channel.onEvent_fixed _ _ _ _
  · have hc : 8 ≤ c := Nat.le_of_not_lt h
    simp only [State.channel]
    rw [Bank.get_outside _ _ _ hc, Bank.get_outside _ _ _ hc]

theorem gaugeEvent_channel (s : State) (n c : Nat) :
    (s.gaugeEvent n).channel c = if c < 8 then (s.channel c).onEvent s.table.slots s.clock n else s.channel c := by
  split
  · next h =>
    simp only [State.channel, State.gaugeEvent]
    exact Bank.get_map_inside _ _ _ _ _ h
  · next h =>
    have hc : 8 ≤ c := Nat.le_of_not_lt h
    simp only [State.channel]
    rw [Bank.get_outside _ _ _ hc, Bank.get_outside _ _ _ hc]

/-- A channel that follows the slot evaluates at its event (R48). -/
theorem gaugeEvent_heard (s : State) (n c : Nat) (must : Nat → Prop) (hm : ∀ m, must m → m = n) :
    ChannelHeard must s (s.gaugeEvent n) c := by
  by_cases hf : c < 8 ∧ Follows (s.channel c) n
  · refine .one fun ha => ?_
    rw [gaugeEvent_channel, if_pos hf.1]
    exact (onEvent_follows s (s.channel c) n ha).1 hf.2
  · refine .none ?_ fun m h f => ?_
    · rw [gaugeEvent_channel]
      split
      · next hc =>
        have : ¬ Follows (s.channel c) n := fun f => hf ⟨hc, f⟩
        unfold Channel.onEvent
        rw [if_neg]
        intro e
        rw [Bool.and_eq_true] at e
        refine this ⟨by simpa [Channel.consumes] using e.2, by simpa [Channel.attends] using e.1⟩
      · rfl
    · rw [hm m h] at f
      by_cases hc : c < 8
      · exact hf ⟨hc, f⟩
      · have e : (s.channel c).attends = false := by
          simp only [State.channel]
          rw [Bank.get_outside _ _ _ (Nat.le_of_not_lt hc)]
          rfl
        have := f.2
        simp [Channel.attends] at e
        rcases this with x | x
        · exact e.1 x
        · have := e.2 x.1; rw [x.2] at this; exact nomatch this

theorem ripple_gaugeEvent (s : State) (n : Nat) : Ripple ch s (s.gaugeEvent n) (fun m => m = n ∨ ch m) :=
  { Ripple.refl ch s with
    channels := channel_gaugeEvent s n
    deaf := fun c h => by
      rw [gaugeEvent_channel]
      split
      · unfold Channel.onEvent; rw [h]; rfl
      · rfl
    still := fun c h => by
      rw [gaugeEvent_channel]
      split
      · unfold Channel.onEvent
        split
        · exact Channel.evaluate_motion _ _ _ _ h
        · rfl
      · rfl
    followed := fun c => gaugeEvent_heard s n c _ fun _ h => absurd rfl h
    aside := fun c hc => by
      rw [gaugeEvent_channel]
      split
      · exact onEvent_apart s (s.channel c) n (hc n (.inl rfl))
      · rfl
    spared := fun _ _ => rfl
    dimmed := .none rfl fun _ _ => rfl
    told := LinkTold.same rfl rfl (fun _ => rfl) rfl rfl }

theorem rules_putRule (s : State) (i : Nat) (r : Rule) (h : r.fixed = (s.rule i).fixed) (j : Nat) :
    ((s.putRule i r).rule j).fixed = (s.rule j).fixed := by
  by_cases e : i = j
  · subst e
    by_cases hi : i < 64
    · rw [State.rule_putRule_same s i r hi]; exact h
    · have hp : s.putRule i r = s := by
        simp only [State.putRule, Bank.put_outside _ _ _ (Nat.le_of_not_lt hi)]
      rw [hp]
  · rw [State.rule_putRule_other s i j r e]

/-- The slot a LIVE rule names. -/
theorem liveSlot_iff (r : Rule) (n : Nat) : r.liveSlot = some n ↔ r.life = .live ∧ ∃ a, r.a = some a ∧ a.slot = n := by
  unfold Rule.liveSlot
  cases r.life <;> cases r.a <;> simp

/-- An evaluation of one rule (R75). -/
theorem ripple_putRule (s : State) (i n : Nat) (hp : RulesRun s) (hl : (s.rule i).liveSlot = some n) :
    Ripple ch s (s.putRule i (ruleAfter s.clock (s.rule i) (s.slot n))) (fun m => m = n ∨ ch m) :=
  { Ripple.refl ch s with
    aside := fun _ _ => rfl
    rules := rules_putRule s i _ (ruleAfter_fixed _ _ _)
    spared := fun j hj => by
      refine State.rule_putRule_other s i j _ fun e => ?_
      subst e
      obtain ⟨_, a, ha, hs⟩ := (liveSlot_iff _ _).mp hl
      exact hj a ha (.inl hs)
    dimmed := .none rfl fun _ _ => rfl
    reacted := fun j => by
      by_cases e : i = j
      · subst e
        by_cases hi : i < 64
        · exact .one (n := n) (State.rule_putRule_same s i _ hi) hp hl
        · have hq : s.putRule i (ruleAfter s.clock (s.rule i) (s.slot n)) = s := by
            simp only [State.putRule, Bank.put_outside _ _ _ (Nat.le_of_not_lt hi)]
          rw [hq]; exact .none rfl fun _ _ _ _ h => h rfl
      · exact .none (State.rule_putRule_other s i j _ e) fun _ _ _ _ h => h rfl
    told := LinkTold.same rfl rfl (fun _ => rfl) rfl rfl }

theorem ripple_putLamp (s : State) (n : Nat) (l : Lamp) : Ripple ch s (s.putLamp n l) :=
  { Ripple.refl ch s with
    rules := fun _ => rfl
    reacted := fun _ => .none rfl fun _ _ _ _ h => h rfl
    told := LinkTold.same rfl rfl (fun _ => rfl) rfl rfl }

theorem ripple_settleLamp (s : State) (n : Nat) : Ripple ch s (s.settleLamp n) := by
  unfold State.settleLamp
  split
  · exact Ripple.refl ch s
  · exact ripple_putLamp ch s n _

theorem ripple_settleLamps (s : State) : Ripple ch s s.settleLamps := Ripple.foldl _ (ripple_settleLamp ch) _ s

/-- Settling the lamps changes their records alone. -/
theorem settleLamps_only (s : State) :
    ∃ l : Bank Lamp 32, s.settleLamps = { s with telltale.lamps := l } := by
  have h : ∀ (l : List Nat) (t : State), ∃ b : Bank Lamp 32, l.foldl State.settleLamp t = { t with telltale.lamps := b } := by
    intro l
    induction l with
    | nil => exact fun t => ⟨t.telltale.lamps, rfl⟩
    | cons n l ih =>
      intro t
      obtain ⟨b, hb⟩ := ih (t.settleLamp n)
      refine ⟨b, hb.trans ?_⟩
      unfold State.settleLamp
      split <;> rfl
  exact h _ s

theorem ripple_settleTop (s : State) : Ripple ch s s.settleTop := by
  unfold State.settleTop
  split
  · exact ripple_settleLamps ch s
  · exact Ripple.refl ch s

theorem ripple_offer (s : State) (f : TxFrame) : Ripple ch s (s.offer f) := by
  unfold State.offer
  split
  · next h =>
    exact { Ripple.refl ch s with
      told := LinkTold.same rfl rfl (fun _ => rfl) rfl rfl
      sent := ⟨[f], rfl⟩
      room := fun _ => by simp only [List.length_append, List.length_singleton]; omega }
  · exact { Ripple.refl ch s with told := LinkTold.same rfl rfl (fun _ => rfl) rfl rfl }

theorem flag_or (f g : EventFlag) (w : BitVec 12) (h : f.inWord w = true) : f.inWord (w ||| g.mask) = true := by
  unfold EventFlag.inWord at *
  rw [BitVec.getLsbD_or, h, Bool.true_or]

theorem ripple_setFlag (s : State) (f : EventFlag) : Ripple ch s (s.setFlag f) :=
  { Ripple.refl ch s with
    flags := fun g hg => flag_or g f _ hg
    told := LinkTold.same rfl rfl (fun _ => rfl) rfl rfl }

theorem ripple_raise (s : State) (f : EventFlag) : Ripple ch s (s.raise f) := by
  unfold State.raise
  split
  · exact Ripple.refl ch s
  · split
    · exact (ripple_setFlag ch s f).trans (ripple_offer ch _ _)
    · exact ripple_setFlag ch s f

/-- The due record chosen once it has come due (R154). -/
theorem poll_chooses (d : Display) (ready : Bool) (now : Nat) (hi : d.link = .idle) :
    (d.due = none → d.poll ready now = d) ∧ (d.due ≠ none → d.poll ready now = linkChooses d ready now) := by
  unfold Display.poll linkChooses Display.send
  refine ⟨fun h => if_neg fun e => ?_, fun h => ?_⟩
  · rw [h] at e; exact absurd e.2 (by simp)
  · rw [if_pos ⟨hi, Option.isSome_iff_ne_none.mpr h⟩, if_neg h]
    rfl

/-- The choice leaves the marks. -/
theorem poll_dirty (d : Display) (ready : Bool) (now : Nat) : (d.poll ready now).dirty = d.dirty := by
  unfold Display.poll Display.send
  split
  · split <;> rfl
  · rfl

theorem mark_has (d : DirtySet) (k q : RecordKind) : (d.mark k).has q = (d.has q || decide (q = k)) := by
  cases k <;> cases q <;> simp [DirtySet.mark, DirtySet.has]

theorem marks_has : ∀ (l : List RecordKind) (d : DirtySet) (q : RecordKind),
    (l.foldl DirtySet.mark d).has q = (d.has q || decide (q ∈ l))
  | [], d, q => by simp
  | k :: l, d, q => by
    rw [List.foldl_cons, marks_has l, mark_has]
    by_cases h : q = k <;> simp [h]

/-- The marks that a link that is on takes. -/
theorem markDirty_has (s : State) (l : List RecordKind) (h : s.display.link ≠ .off) (q : RecordKind) :
    (s.markDirty l).display.dirty.has q = (s.display.dirty.has q || decide (q ∈ l)) := by
  unfold State.markDirty
  rw [if_neg h]
  show (Display.poll _ _ _).dirty.has q = _
  rw [poll_dirty]
  exact marks_has l _ q

/-- Marks change the display link alone. -/
theorem markDirty_only (s : State) (k : List RecordKind) : ∃ d : Display, s.markDirty k = { s with display := d } := by
  unfold State.markDirty
  split
  · exact ⟨s.display, rfl⟩
  · exact ⟨_, rfl⟩

/-- What the link makes of marks (R153, R154). -/
theorem told_markDirty (s : State) (l : List RecordKind) : LinkTold s (s.markDirty l) := by
  have e : s.markDirty l = { s with display := (s.markDirty l).display } := by
    obtain ⟨d, h⟩ := markDirty_only s l
    rw [h]
  rw [e]
  refine ⟨fun h => ?_, fun q hq => ?_, fun _ n _ _ h => absurd rfl h, fun _ d h => absurd rfl h, fun _ h => absurd rfl h,
    fun _ h => absurd rfl h, fun h => ?_, fun h => ?_⟩
  · show (s.markDirty l).display = _
    unfold State.markDirty; rw [if_pos h]
  · show (s.markDirty l).display.dirty.has q = true
    by_cases h : s.display.link = .off
    · unfold State.markDirty; rw [if_pos h]; exact hq
    · rw [markDirty_has s l h, hq]; rfl
  · show (s.markDirty l).display = { s.display with dirty := (s.markDirty l).display.dirty }
    unfold State.markDirty
    split
    · rfl
    · show Display.poll _ _ _ = _
      unfold Display.poll
      rw [if_neg (fun x => h x.1)]
  · show ((s.markDirty l).display = { s.display with dirty := (s.markDirty l).display.dirty } ∧ ((s.markDirty l).display.due = none ∨ _)) ∨
      ((s.markDirty l).display.due ≠ none ∧
        (s.markDirty l).display = linkChooses { s.display with dirty := (s.markDirty l).display.dirty } s.pins.ready s.clock)
    have ed : (s.markDirty l).display =
        ({ s.display with dirty := l.foldl DirtySet.mark s.display.dirty } : Display).poll s.pins.ready s.clock := by
      unfold State.markDirty; rw [if_neg (by rw [h]; exact fun x => nomatch x)]
    rw [ed]
    generalize l.foldl DirtySet.mark s.display.dirty = q
    have p := poll_chooses ({ s.display with dirty := q } : Display) s.pins.ready s.clock h
    by_cases hd : ({ s.display with dirty := q } : Display).due = none
    · rw [p.1 hd]; exact .inl ⟨rfl, .inl hd⟩
    · rw [p.2 hd]
      have c := linkChooses_kept ({ s.display with dirty := q } : Display) s.pins.ready s.clock
      refine .inr ⟨?_, by rw [c.1]⟩
      rw [due_same (e := ({ s.display with dirty := q } : Display)) c.1 c.2]; exact hd

theorem ripple_markDirty (s : State) (k : List RecordKind) : Ripple ch s (s.markDirty k) := by
  have h := told_markDirty s k
  obtain ⟨d, e⟩ := markDirty_only s k
  rw [e] at h ⊢
  exact { Ripple.refl ch s with told := h }

theorem ripple_displayEvent (s : State) (n : Nat) : Ripple ch s (s.displayEvent n) := ripple_markDirty ch s _

theorem dutyIs_updateDuty (s : State) : DutyIs s.updateDuty s.updateDuty.telltale.duty := by
  unfold State.updateDuty
  split
  · next h => rw [← h]; exact dutyNow_is s
  · obtain ⟨d, e⟩ := markDirty_only { s with telltale.duty := s.dutyNow } [.pageSelect]
    rw [e]
    exact dutyIs_move (dutyNow_is s) (fun _ => rfl) fun _ _ => rfl

/-- The duty worked out changes the duty and the display link alone. -/
theorem updateDuty_only (s : State) : ∃ d q, s.updateDuty = { s with telltale.duty := d, display := q } := by
  unfold State.updateDuty
  split
  · exact ⟨_, _, rfl⟩
  · obtain ⟨q, e⟩ := markDirty_only { s with telltale.duty := s.dutyNow } [.pageSelect]
    exact ⟨s.dutyNow, q, e⟩

/-- What the link makes of a new duty (R153). -/
theorem told_updateDuty (s : State) : LinkTold s s.updateDuty := by
  unfold State.updateDuty
  split
  · exact LinkTold.refl s
  · have k := told_markDirty { s with telltale.duty := s.dutyNow } [.pageSelect]
    exact { k with
      duty := fun ho _ => (markDirty_has { s with telltale.duty := s.dutyNow } [.pageSelect] ho .pageSelect).trans (by simp) }

theorem ripple_updateDuty (s : State) (ev : Nat → Prop) (h : ∀ n : Nat, s.param 4 = n → ev n) : Ripple ch s s.updateDuty ev := by
  have hd := dutyIs_updateDuty s
  have ht := told_updateDuty s
  obtain ⟨d, q, e⟩ := updateDuty_only s
  rw [e] at hd ht ⊢
  exact
    { Ripple.refl ch s with
      aside := fun _ _ => rfl, spared := fun _ _ => rfl, dimmed := .one hd h, told := ht }

/-- The slot a parameter names. -/
theorem paramSlot_iff (s : State) (id n : Nat) : s.paramSlot id = some n ↔ s.param id = n := by
  unfold State.paramSlot State.paramNat
  split
  · rw [Option.some.injEq]; omega
  · exact iff_of_false (fun h => nomatch h) (by omega)

theorem ripple_dimEvent (s : State) (n : Nat) : Ripple ch s (s.dimEvent n) (fun m => m = n ∨ ch m) := by
  unfold State.dimEvent
  split
  · next h =>
    refine ripple_updateDuty ch s _ fun m hm => .inl ?_
    have hn := (paramSlot_iff s 4 n).mp h
    rw [hm] at hn; exact_mod_cast hn
  · exact (Ripple.refl ch s).wide fun _ h => .inr h

/-- The dimming has worked its duty out at an event of the dimmer slot (R84). -/
theorem dutyIs_dimEvent (s : State) (n : Nat) (h : s.param 4 = n) : DutyIs (s.dimEvent n) (s.dimEvent n).telltale.duty := by
  unfold State.dimEvent
  rw [if_pos ((paramSlot_iff s 4 n).mpr h)]
  exact dutyIs_updateDuty s

/-- A ripple out of a changed Alert Stack whose records are marked (R98) is one out of the old. -/
theorem ripple_fromStack {s t : State} {k : List AlertEntry} (h : Ripple ch (s.setStack k) t)
    (hk : StackOk s.alert.stack → StackOk k) (hz : s.ign.power = .sleep → s.alert.stack = [] → k = [])
    (hm : s.display.link ≠ .off → t.display.dirty.topAlert = true ∧ t.display.dirty.alertList = true) : Ripple ch s t :=
  { h with stack := fun x => h.stack (hk x), asleep := fun x y => h.asleep x (hz x y),
           told := { h.told with stack := fun ho _ => hm ho } }

theorem ripple_chimeIdle (s : State) : Ripple ch s s.chimeIdle :=
  { Ripple.refl ch s with told := LinkTold.same rfl rfl (fun _ => rfl) rfl rfl }

theorem ripple_chimeInterval (s : State) (p : ChimePattern) (b k : Nat) (o : Bool) (l : Nat) :
    Ripple ch s (s.chimeInterval p b k o l) :=
  { Ripple.refl ch s with told := LinkTold.same rfl rfl (fun _ => rfl) rfl rfl }

theorem ripple_chimeStart (s : State) (p : ChimePattern) : Ripple ch s (s.chimeStart p) := by
  unfold State.chimeStart
  split
  · exact ripple_chimeIdle ch s
  · exact ripple_chimeInterval ch s _ _ _ _ _

theorem ripple_chimeRequest (s : State) (p : ChimePattern) : Ripple ch s (s.chimeRequest p) := by
  unfold State.chimeRequest
  split
  · split
    · exact ripple_chimeStart ch s p
    · split
      · exact Ripple.refl ch s
      · exact ripple_chimeStart ch s p
  · exact Ripple.refl ch s

theorem ripple_chimeRequest? (s : State) (p : Option ChimePattern) : Ripple ch s (s.chimeRequest? p) := by
  cases p with
  | none => exact Ripple.refl ch s
  | some q => exact ripple_chimeRequest ch s q

theorem ripple_chimeStopCheck (s : State) : Ripple ch s s.chimeStopCheck := by
  unfold State.chimeStopCheck
  split
  · exact Ripple.refl ch s
  · split
    · exact ripple_chimeIdle ch s
    · exact Ripple.refl ch s

theorem ripple_chimeNext (s : State) : Ripple ch s s.chimeNext := by
  unfold State.chimeNext
  split
  · exact ripple_chimeIdle ch s
  · split
    · exact ripple_chimeInterval ch s _ _ _ _ _
    · split
      · exact ripple_chimeInterval ch s _ _ _ _ _
      · exact ripple_chimeIdle ch s

theorem liveSlot_live {r : Rule} {n : Nat} (h : r.liveSlot = some n) : r.life = .live := by
  unfold Rule.liveSlot at h
  split at h
  · next e _ => exact e
  · exact nomatch h

/-- Rule `i` evaluates, whatever slot it names. -/
theorem ripple_evalRule (s : State) (i : Nat) (ev : Nat → Prop) (hc : ∀ n, ch n → ev n)
    (he : ∀ n, (s.rule i).liveSlot = some n → ev n) : Ripple ch s (s.evalRule i).1 ev := by
  unfold State.evalRule
  split
  · exact (Ripple.refl ch s).wide hc
  · next n h =>
    split
    · next hp =>
      rw [ruleAfter_react]
      refine (ripple_putRule ch s i n hp h).wide fun m hm => ?_
      rcases hm with rfl | hm
      · exact he _ h
      · exact hc m hm
    · exact (Ripple.refl ch s).wide hc

end Basic

end Sys2Proof.Machine
end

