-- ==== Sys2Proof/Laws/Gather.lean ====
section
/-! SUPPORT. The rules that name a slot at its event (R75 to R78), and the way on which a slot's event has been delivered (R31). -/

namespace Sys2Proof.Machine

/-! ### The rules that name a slot -/

/-- A rule that is LIVE has one of the 64 places. -/
theorem liveSlot_place {s : State} {i n : Nat} (h : (s.rule i).liveSlot = some n) : i < 64 := by
  refine Nat.lt_of_not_le fun hi => ?_
  have e : s.rule i = Rule.blank := by simp only [State.rule]; exact Bank.get_outside _ _ _ hi
  rw [e] at h
  exact nomatch h

/-- A rule names the slot. -/
theorem watched_iff (s : State) (n : Nat) : s.watched n = true ↔ ∃ i, i < 64 ∧ (s.rule i).liveSlot = some n := by
  have h := Bank.all_iff s.telltale.rules Rule.blank (fun r => !decide (r.liveSlot = some n))
  have e : s.watched n = !(s.telltale.rules.items.all fun r => !decide (r.liveSlot = some n)) := by
    unfold State.watched
    rw [List.any_eq_not_all_not]
  rw [e, Bool.not_eq_true', ← Bool.not_eq_true, h]
  simp only [Bool.not_eq_true', decide_eq_false_iff_not, not_forall, not_not, exists_prop]
  rfl

/-- What a rule that names the slot sends, written out (R77). -/
theorem ruleSends_react (s : State) (i n : Nat) (hp : RulesRun s) (h : (s.rule i).liveSlot = some n) :
    ((s.rule i).react i s.clock (s.slot n)).2 = ruleSends s n i := by
  obtain ⟨hl, a, ha, hn⟩ := (liveSlot_iff _ _).mp h
  have hp' : s.ign.power = .waking ∨ s.ign.power = .run := hp
  unfold ruleSends Rule.react Rule.confirmTime
  rw [hl, ha]
  cases hc : (s.rule i).c with
  | none =>
    have e : (s.rule i).judge (s.rule i).condition (s.slot n) = (s.rule i).condition := by
      unfold Rule.judge; rw [ha, hc]; cases (s.rule i).b <;> rfl
    simp only [e]
    cases (s.rule i).live <;> cases (s.rule i).condition <;> rfl
  | some c =>
    have z : (ms (100 * c.confirmTime) = 0) ↔ c.confirmTime = 0 := by unfold ms; omega
    simp only [z]
    generalize (s.rule i).judge (s.rule i).condition (s.slot n) = after
    unfold Rule.pushes Rule.releases
    cases hd : (s.rule i).d with
    | none => 
      cases (s.rule i).live <;> cases (s.rule i).condition <;> cases after <;> simp
      split <;> rfl
    | some d =>
      obtain ⟨al⟩ := d
      cases al with
      | none =>
        cases (s.rule i).live <;> cases (s.rule i).condition <;> cases after <;> simp
        split <;> rfl
      | some p =>
        obtain ⟨code, v⟩ := p
        simp only [hn, true_and, if_pos hp']
        cases (s.rule i).live <;> cases (s.rule i).condition <;> cases after <;> simp
        split <;> rfl

/-- A rule that does not name the slot sends nothing. -/
theorem ruleSends_none (s : State) (i n : Nat) (h : ¬ (RulesRun s ∧ (s.rule i).liveSlot = some n)) : ruleSends s n i = [] := by
  unfold ruleSends
  split
  · next a c code v hl ha hc hd =>
    rw [if_neg]
    rintro ⟨e, hp⟩
    exact h ⟨hp, (liveSlot_iff _ _).mpr ⟨hl, a, ha, e⟩⟩
  · rfl

/-- The rules of a list take an event of slot `n` one after another (R78). -/
theorem gatherFold_spec (n : Nat) : ∀ (l : List Nat) (acc : State × List AlertAction), l.Nodup →
    (∃ rules, (l.foldl (gatherRule n) acc).1 = { acc.1 with telltale.rules := rules }) ∧
    (l.foldl (gatherRule n) acc).2 = acc.2 ++ l.flatMap (ruleSends acc.1 n) ∧
    ∀ i, ((i ∈ l ∧ RulesRun acc.1 ∧ (acc.1.rule i).liveSlot = some n) →
        (l.foldl (gatherRule n) acc).1.rule i = ruleAfter acc.1.clock (acc.1.rule i) (acc.1.slot n)) ∧
      (¬ (i ∈ l ∧ RulesRun acc.1 ∧ (acc.1.rule i).liveSlot = some n) → (l.foldl (gatherRule n) acc).1.rule i = acc.1.rule i)
  | [], acc, _ => ⟨⟨acc.1.telltale.rules, rfl⟩, by simp, fun i => ⟨fun h => absurd h.1 (by simp), fun _ => rfl⟩⟩
  | j :: l, acc, hd => by
    rw [List.nodup_cons] at hd
    obtain ⟨h1, h2, h3⟩ := gatherFold_spec n l (gatherRule n acc j) hd.2
    have g : ∃ rules, (gatherRule n acc j).1 = { acc.1 with telltale.rules := rules } := by
      unfold gatherRule State.evalRule
      split
      · split
        · exact ⟨_, rfl⟩
        · split
          · exact ⟨_, rfl⟩
          · exact ⟨_, rfl⟩
      · exact ⟨_, rfl⟩
    have gc : (gatherRule n acc j).1.clock = acc.1.clock := by obtain ⟨r, e⟩ := g; rw [e]
    have gs : (gatherRule n acc j).1.slot n = acc.1.slot n := by obtain ⟨r, e⟩ := g; rw [e]; rfl
    have gp : RulesRun (gatherRule n acc j).1 ↔ RulesRun acc.1 := by obtain ⟨r, e⟩ := g; rw [e]; rfl
    have go : ∀ i, i ≠ j → (gatherRule n acc j).1.rule i = acc.1.rule i := fun i hi => by
      unfold gatherRule State.evalRule
      split
      · split
        · rfl
        · split
          · exact State.rule_putRule_other acc.1 j i _ (Ne.symm hi)
          · rfl
      · rfl
    have own : (RulesRun acc.1 ∧ (acc.1.rule j).liveSlot = some n →
          (gatherRule n acc j).1.rule j = ruleAfter acc.1.clock (acc.1.rule j) (acc.1.slot n)) ∧
        (¬ (RulesRun acc.1 ∧ (acc.1.rule j).liveSlot = some n) → (gatherRule n acc j).1.rule j = acc.1.rule j) ∧
        (gatherRule n acc j).2 = acc.2 ++ ruleSends acc.1 n j := by
      unfold gatherRule
      by_cases hn : (acc.1.rule j).liveSlot = some n
      · rw [if_pos hn]
        unfold State.evalRule
        rw [hn]
        simp only []
        by_cases hp : RulesRun acc.1
        · have hp' : acc.1.ign.power = .waking ∨ acc.1.ign.power = .run := hp
          rw [if_pos hp']
          refine ⟨fun _ => ?_, fun h => absurd ⟨hp, trivial⟩ h, ?_⟩
          · rw [ruleAfter_react]; exact State.rule_putRule_same _ _ _ (liveSlot_place hn)
          · rw [ruleSends_react _ _ _ hp hn]
        · have hp' : ¬ (acc.1.ign.power = .waking ∨ acc.1.ign.power = .run) := hp
          rw [if_neg hp']
          exact ⟨fun h => absurd h.1 hp, fun _ => rfl, by rw [ruleSends_none _ _ _ fun h => hp h.1]⟩
      · rw [if_neg hn]
        exact ⟨fun h => absurd h.2 hn, fun _ => rfl, by rw [ruleSends_none _ _ _ fun h => hn h.2, List.append_nil]⟩
    have sends : ∀ i ∈ l, ruleSends (gatherRule n acc j).1 n i = ruleSends acc.1 n i := fun i hi => by
      have e := go i fun e => hd.1 (e ▸ hi)
      obtain ⟨r, er⟩ := g
      unfold ruleSends
      rw [e, gs, er]
    rw [List.foldl_cons]
    refine ⟨?_, ?_, fun i => ?_⟩
    · obtain ⟨r, e⟩ := g
      obtain ⟨q, f⟩ := h1
      exact ⟨q, by rw [f, e]⟩
    · rw [h2, own.2.2, List.flatMap_cons, List.append_assoc]
      congr 2
      exact List.flatMap_congr sends
    · have h3 := h3 i
      rw [gc, gs, gp] at h3
      by_cases e : i = j
      · subst e
        have last := h3.2 fun h => hd.1 h.1
        exact ⟨fun h => last.trans (own.1 h.2), fun h => last.trans (own.2.1 fun x => h ⟨by simp, x⟩)⟩
      · rw [go i e] at h3
        exact ⟨fun h => h3.1 ⟨by simpa [e] using h.1, h.2⟩, fun h => h3.2 fun x => h ⟨by simp [x.1], x.2⟩⟩

/-- The rules take an event of slot `n` (R78): each LIVE one that names it has evaluated, no other has, and what they send comes back in
index order. -/
theorem gatherRules_spec (s : State) (n : Nat) :
    (∃ rules, (s.gatherRules n).1 = { s with telltale.rules := rules }) ∧
    (s.gatherRules n).2 = (List.range 64).flatMap (ruleSends s n) ∧
    ∀ i, (RulesRun s → (s.rule i).liveSlot = some n → (s.gatherRules n).1.rule i = ruleAfter s.clock (s.rule i) (s.slot n)) ∧
      (¬ (RulesRun s ∧ (s.rule i).liveSlot = some n) → (s.gatherRules n).1.rule i = s.rule i) := by
  unfold State.gatherRules
  by_cases h : s.watched n = true
  · rw [if_pos h]
    obtain ⟨h1, h2, h3⟩ := gatherFold_spec n (List.range 64) (s, []) List.nodup_range
    refine ⟨h1, by rw [h2, List.nil_append], fun i => ⟨fun hp hn => ?_, fun hn => ?_⟩⟩
    · exact (h3 i).1 ⟨List.mem_range.mpr (liveSlot_place hn), hp, hn⟩
    · exact (h3 i).2 fun x => hn x.2
  · rw [if_neg h]
    have no : ∀ i, (s.rule i).liveSlot ≠ some n := fun i e => h ((watched_iff s n).mpr ⟨i, liveSlot_place e, e⟩)
    refine ⟨⟨_, rfl⟩, ?_, fun i => ⟨fun _ hn => absurd hn (no i), fun _ => rfl⟩⟩
    symm
    rw [List.flatMap_eq_nil_iff]
    intro i _
    exact ruleSends_none _ _ _ fun x => no i x.2

section Delivery
variable (ch : Nat → Prop)

theorem ripple_gatherRule (n : Nat) (acc : State × List AlertAction) (i : Nat) :
    Ripple ch acc.1 (gatherRule n acc i).1 (fun m => m = n ∨ ch m) := by
  unfold gatherRule
  split
  · next h => exact ripple_evalRule ch _ _ _ (fun _ h => .inr h) fun m hm => .inl (Option.some.inj (hm.symm.trans h))
  · exact (Ripple.refl ch _).wide fun _ h => .inr h

theorem ripple_gatherFold (n : Nat) : ∀ (l : List Nat) (acc : State × List AlertAction),
    Ripple ch acc.1 (l.foldl (gatherRule n) acc).1 (fun m => m = n ∨ ch m)
  | [], _ => (Ripple.refl ch _).wide fun _ h => .inr h
  | i :: l, acc => (ripple_gatherRule ch n acc i).trans (ripple_gatherFold n l _)

theorem ripple_gatherRules (s : State) (n : Nat) : Ripple ch s (s.gatherRules n).1 (fun m => m = n ∨ ch m) := by
  unfold State.gatherRules
  split
  · exact ripple_gatherFold ch n _ (s, [])
  · exact (Ripple.refl ch s).wide fun _ h => .inr h

/-! ### The way on which a slot's event has been delivered (R31) -/

/-- A ripple on which the channels that follow slot `n` and the rules that name it have evaluated. -/
structure Delivered (n : Nat) (s t : State) : Prop where
  ripple : Ripple ch s t (fun m => m = n ∨ ch m)
  all : ∀ c, ChannelHeard (fun m => m = n ∨ t.slot m ≠ s.slot m) s t c
  each : ∀ i, RuleHeard (fun m => m = n ∨ t.slot m ≠ s.slot m) s t i

variable {ch}

/-- A ripple behind a delivery. -/
theorem Delivered.then {n : Nat} {s t u : State} (h : Delivered ch n s t)
    (k : Ripple ch t u (fun m => m = n ∨ ch m)) : Delivered ch n s u where
  ripple := h.ripple.trans k
  all c := by
    refine ((h.all c).trans (k.followed c) (h.ripple.channels c) h.ripple.clock k.clock (fun e => ?_) fun _ h => h).weaken
      fun m hm => ?_
    · have e1 := h.ripple.deaf c e
      exact ⟨e1, k.deaf c (by rw [e1]; exact e)⟩
    · rcases hm with hm | hm
      · exact .inl (.inl hm)
      · by_cases e : u.slot m = t.slot m
        · exact .inl (.inr fun e2 => hm (e.trans e2))
        · exact .inr e
  each i := by
    refine ((h.each i).trans (k.reacted i) (h.ripple.rules i) h.ripple.clock h.ripple.ign fun _ h => h).weaken fun m hm => ?_
    rcases hm with hm | hm
    · exact .inl (.inl hm)
    · by_cases e : u.slot m = t.slot m
      · exact .inl (.inr fun e2 => hm (e.trans e2))
      · exact .inr e

/-- The gauges and the rules take the event. -/
theorem delivered_gather (s : State) (n : Nat) : Delivered ch n s ((s.gaugeEvent n).gatherRules n).1 := by
  have G := ripple_gaugeEvent ch s n
  have R := ripple_gatherRules ch (s.gaugeEvent n) n
  obtain ⟨⟨q, e⟩, _, h⟩ := gatherRules_spec (s.gaugeEvent n) n
  refine ⟨G.trans R, fun c => ?_, fun i => ?_⟩
  · have hg := gaugeEvent_heard s n c (fun m => m = n) fun _ h => h
    have ec : ((s.gaugeEvent n).gatherRules n).1.channel c = (s.gaugeEvent n).channel c := by rw [e]; rfl
    have es : ∀ m, ((s.gaugeEvent n).gatherRules n).1.slot m = s.slot m := fun m => by rw [e]; rfl
    have et : ((s.gaugeEvent n).gatherRules n).1.clock = s.clock := by rw [e]; rfl
    intro ha moved hm
    have H := hg ha moved (by
      rw [hm, ec]
      refine exists_congr fun d => and_congr_right fun _ => ⟨fun x => ?_, fun x => ?_⟩
      · exact evaluated_move x et.symm (es _).symm fun m _ => (es m).symm
      · exact evaluated_move x et (es _) fun m _ => es m)
    rw [ec]
    refine ⟨H.1, fun m hm f => ?_⟩
    rcases hm with hm | hm
    · exact H.2 m hm f
    · exact absurd (es m) hm
  · have es : ∀ m, ((s.gaugeEvent n).gatherRules n).1.slot m = s.slot m := fun m => by rw [e]; rfl
    by_cases hn : RulesRun s ∧ (s.rule i).liveSlot = some n
    · refine .one ?_ hn.1 hn.2
      rw [es]
      exact (h i).1 hn.1 hn.2
    · refine .none ((h i).2 hn) fun a ha hp hl hm => ?_
      rcases hm with hm | hm
      · exact hn ⟨hp, (liveSlot_iff _ _).mpr ⟨hl, a, ha, hm⟩⟩
      · exact hm (es _)

/-- A ripple behind a delivery, of the slots that may be written. -/
theorem Delivered.also {n : Nat} {s t u : State} (h : Delivered ch n s t) (k : Ripple ch t u) : Delivered ch n s u :=
  h.then (k.wide fun _ h => .inr h)

/-- A slot written whose event has been delivered, with its duty and its record marked, is a ripple (R26, R31, R84, R153). -/
theorem Delivered.written {n : Nat} {r : SlotRecord} {s t : State} (h : Delivered ch n (s.putSlot n r) t) (hn : ch n)
    (hd : s.param 4 = n → DutyIs t t.telltale.duty)
    (hm : s.display.link ≠ .off → ∀ k, Marked n k → t.display.dirty.has k = true) : Ripple ch s t := by
  have off : ∀ m, m ≠ n → (s.putSlot n r).slot m = s.slot m := fun m hm => State.slot_putSlot_other s n m r (Ne.symm hm)
  have must : ∀ m, t.slot m ≠ s.slot m → m = n ∨ t.slot m ≠ (s.putSlot n r).slot m := fun m hne => by
    by_cases e : m = n
    · exact .inl e
    · exact .inr (by rw [off m e]; exact hne)
  exact
    { h.ripple.own hn with
      dimmed := by
        refine ⟨h.ripple.dimmed.1, fun m hm => ⟨fun x => ((h.ripple.own hn).dimmed.2 m hm).1 x, fun x => ?_⟩⟩
        by_cases e : m = n
        · exact hd (e ▸ hm)
        · exact (h.ripple.dimmed.2 m hm).2 (by rw [off m e]; exact x)
      slots := fun m hc => (h.ripple.slots m hc).trans (off m fun e => hc (e ▸ hn))
      followed := fun c => (h.all c).weaken must
      reacted := fun i => (h.each i).weaken must
      told := { h.ripple.told with
        slots := fun ho m k hk hne => by
          by_cases e : m = n
          · exact hm ho k (e ▸ hk)
          · exact h.ripple.told.slots ho m k hk (by rw [off m e]; exact hne) } }

end Delivery

end Sys2Proof.Machine
end

