-- ==== Sys2Proof/Laws/Cascade.lean ====
section
/-! SUPPORT. The alert block, the rules and the tachograph block inside a ripple: one lemma for each shared operation, saying
that it is a ripple and which slots it may write. -/

namespace Sys2Proof.Machine

/-! ### The Alert Stack (R89 to R96) -/

theorem withoutCode_length (k : List AlertEntry) (code : Nat) : (withoutCode k code).length ≤ k.length :=
  List.length_filter_le _ _

theorem withoutCode_codes (k : List AlertEntry) (code : Nat) : code ∉ (withoutCode k code).map (·.code) := by
  intro h
  obtain ⟨e, he, hc⟩ := List.mem_map.mp h
  have := (List.mem_filter.mp he).2
  simp [hc] at this

theorem nodup_sub {k l : List AlertEntry} (h : (k.map (·.code)).Nodup) (hs : List.Sublist l k) : (l.map (·.code)).Nodup :=
  h.sublist (hs.map _)

theorem stackOk_sub {k l : List AlertEntry} (h : StackOk k) (hs : List.Sublist l k) : StackOk l :=
  ⟨Nat.le_trans hs.length_le h.1, nodup_sub h.2 hs⟩

theorem withoutCode_sub (k : List AlertEntry) (code : Nat) : List.Sublist (withoutCode k code) k := List.filter_sublist

theorem findCode_mem {k : List AlertEntry} {code : Nat} {e : AlertEntry} (h : findCode k code = some e) :
    e ∈ k ∧ e.code = code := by
  refine ⟨List.mem_of_find?_eq_some h, ?_⟩
  have := List.find?_some h
  simpa using this

theorem withoutCode_shorter {k : List AlertEntry} {code : Nat} {e : AlertEntry} (h : findCode k code = some e) :
    (withoutCode k code).length < k.length := by
  have hm := findCode_mem h
  refine Nat.lt_of_le_of_ne (withoutCode_length k code) (fun hl => ?_)
  have he : withoutCode k code = k := (withoutCode_sub k code).eq_of_length hl
  have : e ∈ withoutCode k code := by rw [he]; exact hm.1
  have := (List.mem_filter.mp this).2
  simp [hm.2] at this

theorem stackOk_cons {k : List AlertEntry} (e : AlertEntry) (h : StackOk k) (hl : k.length < stackRoom)
    (hc : e.code ∉ k.map (·.code)) : StackOk (e :: k) := by
  refine ⟨?_, ?_⟩
  · rw [List.length_cons]; exact hl
  · rw [List.map_cons]; exact List.nodup_cons.mpr ⟨hc, h.2⟩

theorem stackOk_merge {k : List AlertEntry} {code : Nat} {e : AlertEntry} (v : Severity) (h : StackOk k)
    (hf : findCode k code = some e) : StackOk (e.merge v :: withoutCode k code) := by
  have hc : (e.merge v).code = code := (findCode_mem hf).2
  exact stackOk_cons _ (stackOk_sub h (withoutCode_sub k code)) (Nat.lt_of_lt_of_le (withoutCode_shorter hf) h.1)
    (by rw [hc]; exact withoutCode_codes k code)

theorem findCode_none {k : List AlertEntry} {code : Nat} (h : findCode k code = none) : code ∉ k.map (·.code) := by
  intro hm
  obtain ⟨e, he, hc⟩ := List.mem_map.mp hm
  have := List.find?_eq_none.mp h e he
  simp [hc] at this

theorem dropLowest_sub (m : Severity) (k : List AlertEntry) : List.Sublist (dropLowest m k) k := by
  have h := (List.eraseP_sublist (p := fun e : AlertEntry => decide (e.severity = m)) (l := k.reverse)).reverse
  rwa [List.reverse_reverse] at h

theorem lowest_mem : ∀ (k : List AlertEntry) (m : Severity),
    k.foldl (fun m e => m.lower e.severity) m = m ∨
      ∃ e ∈ k, e.severity = k.foldl (fun m e => m.lower e.severity) m
  | [], m => .inl rfl
  | e :: k, m => by
    rw [List.foldl_cons]
    rcases lowest_mem k (m.lower e.severity) with h | ⟨f, hf, hs⟩
    · rw [h]
      unfold Severity.lower
      split
      · exact .inr ⟨e, List.mem_cons_self, rfl⟩
      · exact .inl rfl
    · exact .inr ⟨f, List.mem_cons_of_mem _ hf, hs⟩

theorem lower_stop (v : Severity) : Severity.lower .stop v = v := by cases v <;> rfl

/-- Some entry of a stack that is not empty has the lowest severity (R93). -/
theorem lowest_present {k : List AlertEntry} (h : k ≠ []) : ∃ e ∈ k, e.severity = lowestSeverity k := by
  cases k with
  | nil => exact absurd rfl h
  | cons e k =>
    unfold lowestSeverity
    rw [List.foldl_cons, lower_stop]
    rcases lowest_mem k e.severity with hl | ⟨f, hf, hs⟩
    · exact ⟨e, List.mem_cons_self, hl.symm⟩
    · exact ⟨f, List.mem_cons_of_mem _ hf, hs⟩

theorem dropLowest_shorter {k : List AlertEntry} (h : k ≠ []) :
    (dropLowest (lowestSeverity k) k).length + 1 = k.length := by
  obtain ⟨e, he, hs⟩ := lowest_present h
  unfold dropLowest
  rw [List.length_reverse, List.length_eraseP_of_mem (List.mem_reverse.mpr he) (by simp [hs]), List.length_reverse]
  have : 0 < k.length := List.length_pos_of_mem he
  omega

theorem stackOk_evict {k : List AlertEntry} (e : AlertEntry) (h : StackOk k) (hfull : ¬ k.length < stackRoom)
    (hc : findCode k e.code = none) : StackOk (e :: dropLowest (lowestSeverity k) k) := by
  have hne : k ≠ [] := by
    intro he; rw [he] at hfull; exact hfull (by decide)
  have hl := dropLowest_shorter hne
  have hle := h.1
  refine stackOk_cons e (stackOk_sub h (dropLowest_sub _ k)) (by omega) (fun hm => findCode_none hc ?_)
  exact ((dropLowest_sub _ k).map (·.code)).subset hm

theorem unheld_codes (k : List AlertEntry) (code : Nat) : (unheld k code).map (·.code) = k.map (·.code) := by
  unfold unheld
  rw [List.map_map]
  apply List.map_congr_left
  intro e _
  simp only [Function.comp]
  split <;> rfl

theorem stackOk_unheld {k : List AlertEntry} (code : Nat) (h : StackOk k) : StackOk (unheld k code) :=
  ⟨by unfold unheld; rw [List.length_map]; exact h.1, by rw [unheld_codes]; exact h.2⟩

theorem stackOk_tail {k : List AlertEntry} (h : StackOk k) : StackOk k.tail := stackOk_sub h (List.tail_sublist k)

theorem stackOk_nil : StackOk [] := ⟨Nat.zero_le _, List.nodup_nil⟩

/-! ### Slot 13 and what an action does (R98) -/

/-- Slot 13 alone. -/
def onlyTop (n : Nat) : Prop := n = 13

section Alerts
variable (ch : Nat → Prop)

/-- The marks of a slot's event (R153). -/
theorem displayEvent_marks (s : State) (n : Nat) (h : s.display.link ≠ .off) (k : RecordKind) (hk : Marked n k) :
    (s.displayEvent n).display.dirty.has k = true := by
  unfold State.displayEvent
  rw [markDirty_has s _ h, Bool.or_eq_true, decide_eq_true_eq]
  right
  unfold slotKinds
  rcases hk with ⟨rfl, h⟩ | ⟨rfl, h⟩ | ⟨rfl, h⟩ <;> rcases h with rfl | rfl | rfl <;> decide

theorem ripple_writeTop (s : State) (h : ch 13) : Ripple ch s s.writeTop.1 := by
  unfold State.writeTop State.writeRecord
  have D : Delivered ch 13 _ _ := delivered_gather (s.putSlot 13 ((s.slot 13).written (.fresh (topSeverity s.alert.stack)) none s.clock)) 13
  refine Delivered.written ((D.then (ripple_dimEvent ch _ 13)).also (ripple_displayEvent ch _ 13)) h (fun hp => ?_) fun _ k hk => ?_
  · have R := ripple_displayEvent ch (State.dimEvent (State.gatherRules (State.gaugeEvent
      (s.putSlot 13 ((s.slot 13).written (.fresh (topSeverity s.alert.stack)) none s.clock)) 13) 13).1 13) 13
    exact R.dimmed.right R.param (dutyIs_dimEvent _ 13 ((D.ripple.param 4).trans hp))
  · rcases hk with ⟨_, h⟩ | ⟨_, h⟩ | ⟨_, h⟩ <;> omega

theorem ripple_showTop (s : State) (h : ch 13) : Ripple ch s s.showTop.1 := by
  unfold State.showTop
  split
  · exact ripple_writeTop ch s h
  · exact Ripple.refl ch s

theorem ripple_stackChanged (s : State) (p : Option ChimePattern) (h : ch 13) : Ripple ch s (s.stackChanged p).1 := by
  unfold State.stackChanged
  exact (ripple_showTop ch s h).trans ((ripple_markDirty ch _ _).trans ((ripple_chimeStopCheck ch _).trans
    (ripple_chimeRequest? ch _ p)))

/-- The marks of a changed Alert Stack (R98, R153). -/
theorem stackChanged_marks (s : State) (p : Option ChimePattern) (h : s.display.link ≠ .off) :
    (s.stackChanged p).1.display.dirty.topAlert = true ∧ (s.stackChanged p).1.display.dirty.alertList = true := by
  have ho : s.showTop.1.display.link ≠ .off := fun e => h ((ripple_showTop (fun _ => True) s trivial).told.on.mp e)
  have R := ((ripple_chimeStopCheck (fun _ => True) (s.showTop.1.markDirty [.topAlert, .alertList])).trans
    (ripple_chimeRequest? (fun _ => True) _ p)).told
  have m := markDirty_has s.showTop.1 [.topAlert, .alertList] ho
  unfold State.stackChanged
  exact ⟨R.kept .topAlert ((m _).trans (by simp)), R.kept .alertList ((m _).trans (by simp))⟩

/-- A new Alert Stack with all that follows (R98). -/
theorem ripple_restack (s : State) (k : List AlertEntry) (p : Option ChimePattern) (h : ch 13)
    (hk : StackOk s.alert.stack → StackOk k) (hz : s.ign.power = .sleep → s.alert.stack = [] → k = []) :
    Ripple ch s ((s.setStack k).stackChanged p).1 :=
  ripple_fromStack ch (ripple_stackChanged ch _ p h) hk hz (stackChanged_marks (s.setStack k) p)

theorem ripple_alertLost (s : State) : Ripple ch s s.alertLost := by
  unfold State.alertLost
  refine Ripple.trans ?_ (ripple_raise ch _ _)
  exact { Ripple.refl ch s with told := LinkTold.same rfl rfl (fun _ => rfl) rfl rfl }

theorem alertLost_stack (s : State) : s.alertLost.alert.stack = s.alert.stack := by
  unfold State.alertLost
  rw [State.raise_alert]

theorem ripple_takePush (s : State) (code : Nat) (v : Severity) (o : Origin) (h : ch 13)
    (hp : s.ign.power ≠ .sleep) : Ripple ch s (s.takePush code v o).1 := by
  unfold State.takePush
  split
  · next e he =>
    exact ripple_restack ch s _ _ h (fun hk => stackOk_merge v hk he) (fun hs _ => absurd hs hp)
  · next hn =>
    split
    · next hl =>
      exact ripple_restack ch s _ _ h (fun hk => stackOk_cons _ hk hl (findCode_none hn)) (fun hs _ => absurd hs hp)
    · next hl =>
      split
      · exact ripple_alertLost ch s
      · have hr := ripple_alertLost ch s
        refine hr.trans (ripple_restack ch _ _ _ h (fun hk => ?_) (fun hs _ => ?_))
        · rw [alertLost_stack] at hk
          exact stackOk_evict _ hk hl hn
        · rw [hr.ign] at hs; exact absurd hs hp

theorem ripple_takeRelease (s : State) (code : Nat) (h : ch 13) (hp : s.ign.power ≠ .sleep) :
    Ripple ch s (s.takeRelease code).1 := by
  unfold State.takeRelease
  split
  · exact Ripple.refl ch s
  · split
    · exact ripple_restack ch s _ _ h (fun hk => stackOk_sub hk (withoutCode_sub _ _)) (fun hs _ => absurd hs hp)
    · split
      · exact ripple_restack ch s _ _ h (fun hk => stackOk_unheld _ hk) (fun hs _ => absurd hs hp)
      · exact Ripple.refl ch s

theorem ripple_takeAction (s : State) (a : AlertAction) (h : ch 13) : Ripple ch s (s.takeAction a).1 := by
  unfold State.takeAction
  cases a with
  | push code v o =>
    simp only []
    split
    · next hp => exact ripple_takePush ch s code v o h (by rcases hp with hp | hp <;> rw [hp] <;> decide)
    · exact Ripple.refl ch s
  | release code o =>
    simp only []
    split
    · exact Ripple.refl ch s
    · next hp => exact ripple_takeRelease ch s code h hp

theorem ripple_drain : ∀ (fuel : Nat) (l : List AlertAction) (s : State), ch 13 → Ripple ch s (s.drain fuel l)
  | 0, _, s, _ => { Ripple.refl ch s with told := LinkTold.same rfl rfl (fun _ => rfl) rfl rfl }
  | _ + 1, [], s, _ => { Ripple.refl ch s with told := LinkTold.same rfl rfl (fun _ => rfl) rfl rfl }
  | k + 1, a :: _, s, h => (ripple_takeAction ch s a h).trans (ripple_drain k _ _ h)

theorem ripple_send (s : State) (l : List AlertAction) (h : ch 13) : Ripple ch s (s.send l) := by
  unfold State.send
  split
  · exact Ripple.refl ch s
  · exact (ripple_drain ch _ _ s h).trans (ripple_settleTop ch _)

theorem ripple_push (s : State) (code : Nat) (v : Severity) (o : Origin) (h : ch 13) : Ripple ch s (s.push code v o) :=
  ripple_send ch s _ h

theorem ripple_release (s : State) (code : Nat) (o : Origin) (h : ch 13) : Ripple ch s (s.release code o) :=
  ripple_send ch s _ h

theorem ripple_acknowledge (s : State) (h : ch 13) : Ripple ch s s.acknowledge := by
  unfold State.acknowledge
  split
  · exact Ripple.refl ch s
  · exact ripple_chimeRequest ch s _
  · exact ((ripple_restack ch s _ none h stackOk_tail (fun _ hs => by rw [hs]; rfl)).trans (ripple_send ch _ _ h)).trans
      (ripple_settleTop ch _)

/-! ### Delivering an event (R31) and writing an internal slot -/

theorem ripple_sendGathered (s : State) (n : Nat) (l : List AlertAction) (h : ch 13) : Ripple ch s (s.sendGathered n l) := by
  unfold State.sendGathered
  split
  · exact (ripple_send ch s l h).trans (ripple_settleLamps ch _)
  · exact Ripple.refl ch s

/-- An event handed to the gauges, the rules and the dimming (R31). -/
theorem delivered_tell (s : State) (n : Nat) (h : ch 13) : Delivered ch n s (s.tell n) := by
  unfold State.tell
  exact ((delivered_gather s n).then (ripple_dimEvent ch _ n)).also (ripple_sendGathered ch _ n _ h)

theorem ripple_tell (s : State) (n : Nat) (h : ch 13) : Ripple ch s (s.tell n) (fun m => m = n ∨ ch m) :=
  (delivered_tell ch s n h).ripple

/-- The dimming has worked its duty out at an event of the dimmer slot (R84). -/
theorem dutyIs_tell (s : State) (n : Nat) (h : s.param 4 = n) : DutyIs (s.tell n) (s.tell n).telltale.duty := by
  have D : Delivered (fun _ => True) n s _ := delivered_gather s n
  have R := ripple_sendGathered (fun _ => True) (((s.gaugeEvent n).gatherRules n).1.dimEvent n) n ((s.gaugeEvent n).gatherRules n).2
    trivial
  unfold State.tell
  exact R.dimmed.right R.param (dutyIs_dimEvent _ n ((D.ripple.param 4).trans h))

theorem ripple_writePlain (s : State) (n : Nat) (w : SlotWrite) (hn : ch n) (h : ch 13) :
    Ripple ch s (s.writePlain n w) := by
  unfold State.writePlain State.writeRecord
  have T := delivered_tell ch (s.putSlot n ((s.slot n).written w none s.clock)) n h
  have R := ripple_displayEvent ch (State.tell (s.putSlot n ((s.slot n).written w none s.clock)) n) n
  exact (T.also R).written hn (fun hp => R.dimmed.right R.param (dutyIs_tell _ n hp)) fun ho k hk =>
    displayEvent_marks _ n (fun e => ho (T.ripple.told.on.mp e)) k hk

theorem ripple_writeOther (s : State) (n : Nat) (v : Int) (hn : ch n) (h : ch 13) : Ripple ch s (s.writeOther n v) := by
  unfold State.writeOther
  split
  · exact Ripple.refl ch s
  · exact ripple_writePlain ch s n _ hn h

theorem ripple_gatherAlone : ∀ (l : List Nat) (acc : State × List AlertAction),
    Ripple ch acc.1 (l.foldl gatherAlone acc).1 (fun _ => True)
  | [], acc => (Ripple.refl ch acc.1).wide fun _ _ => trivial
  | i :: l, acc => Ripple.trans (t := (gatherAlone acc i).1)
      (ripple_evalRule ch acc.1 i _ (fun _ _ => trivial) fun _ _ => trivial) (ripple_gatherAlone l _)

theorem ripple_evalAll (s : State) (h : ch 13) : Ripple ch s s.evalAll (fun _ => True) :=
  (ripple_gatherAlone ch (List.range 64) (s, [])).trans ((ripple_send ch _ _ h).wide fun _ _ => trivial)

end Alerts

/-! ### The tachograph block (R128 to R148) -/

theorem onlyTacho_top : onlyTacho 13 := .inl rfl
theorem onlyTacho_cont (d : Driver) : onlyTacho (contSlot d) := by cases d <;> exact .inr ⟨by decide, by decide⟩
theorem onlyTacho_left (d : Driver) : onlyTacho (leftSlot d) := by cases d <;> exact .inr ⟨by decide, by decide⟩
theorem onlyTacho_summary (d : Driver) : onlyTacho (summarySlot d) := by cases d <;> exact .inr ⟨by decide, by decide⟩

section Tacho
variable (ch : Nat → Prop) (hch : ∀ n, onlyTacho n → ch n)
include hch

omit hch in
/-- A change of the tachograph block that leaves each driver's state. -/
theorem ripple_tacho (s : State) (k : Tacho) (h1 : k.d1.state = s.tacho.d1.state := by rfl)
    (h2 : k.d2.state = s.tacho.d2.state := by rfl) : Ripple ch s { s with tacho := k } :=
  { Ripple.refl ch s with told := LinkTold.same rfl rfl (fun d => by cases d; exact h1; exact h2) rfl rfl }

omit hch in
theorem ripple_putDriver (s : State) (d : Driver) (r : DriverRecord) (h : r.state = (s.driver d).state) :
    Ripple ch s (s.putDriver d r) := by
  cases d
  · exact ripple_tacho ch s _ h rfl
  · exact ripple_tacho ch s _ rfl h

omit hch in
theorem ripple_setDriver (s : State) (d : Driver) (r : DriverRecord) : Ripple ch s (s.setDriver d r) := by
  unfold State.setDriver
  split
  · next h => exact ripple_putDriver ch s d r h.symm
  · have k := ripple_markDirty ch (s.putDriver d r) [driverPage d]
    have m : s.display.link ≠ .off → ((s.putDriver d r).markDirty [driverPage d]).display.dirty.has (driverPage d) = true :=
      fun ho => (markDirty_has (s.putDriver d r) [driverPage d] (by cases d <;> exact ho) _).trans (by simp)
    obtain ⟨q, e⟩ := markDirty_only (s.putDriver d r) [driverPage d]
    rw [e] at k m ⊢
    have p : pageOf d = driverPage d := by cases d <;> rfl
    cases d
    · exact { k with told := { k.told with
        drivers := fun ho e he => by
          cases e
          · exact m ho
          · exact absurd rfl he } }
    · exact { k with told := { k.told with
        drivers := fun ho e he => by
          cases e
          · exact absurd rfl he
          · exact m ho } }

theorem ripple_writeCounters (s : State) (d : Driver) : Ripple ch s (s.writeCounters d) := by
  unfold State.writeCounters
  simp only []
  split
  · exact (ripple_writeOther ch s _ _ (hch _ (onlyTacho_cont d)) (hch _ onlyTacho_top)).trans
      (ripple_writeOther ch _ _ _ (hch _ (onlyTacho_left d)) (hch _ onlyTacho_top))
  · exact ripple_writeOther ch s _ _ (hch _ (onlyTacho_cont d)) (hch _ onlyTacho_top)

theorem ripple_writeSummary (s : State) (d : Driver) (v : Int) : Ripple ch s (s.writeSummary d v) :=
  ripple_writeOther ch s _ v (hch _ (onlyTacho_summary d)) (hch _ onlyTacho_top)

theorem ripple_startTransfer (s : State) (e : Readout) (l : List Readout) : Ripple ch s (s.startTransfer e l) := by
  unfold State.startTransfer
  exact ((ripple_tacho ch s _).trans (ripple_offer ch _ _)).trans (ripple_writeSummary ch hch _ _ _)

theorem ripple_tryStart (s : State) : Ripple ch s s.tryStart := by
  unfold State.tryStart
  split
  · split
    · exact ripple_startTransfer ch hch s _ _
    · exact Ripple.refl ch s
  · exact Ripple.refl ch s

theorem ripple_enqueue (s : State) (d : Driver) (k : Nat) : Ripple ch s (s.enqueue d k) := by
  unfold State.enqueue
  split
  · exact (ripple_tacho ch s _).trans (ripple_tryStart ch hch _)
  · exact Ripple.refl ch s

omit hch in
theorem ripple_setOutcome (s : State) (d : Driver) (o : TransferOutcome) : Ripple ch s (s.setOutcome d o) :=
  ripple_putDriver ch s d _ rfl

omit hch in
theorem ripple_idleTransfer (s : State) : Ripple ch s s.idleTransfer := ripple_tacho ch s _

omit hch in
theorem ripple_abandon (s : State) (d : Driver) : Ripple ch s (s.abandon d) := by
  unfold State.abandon
  split
  · exact ripple_idleTransfer ch s
  · exact ((ripple_offer ch s _).trans (ripple_setOutcome ch _ d _)).trans (ripple_idleTransfer ch _)

omit hch in
theorem ripple_markRestart (s : State) (d : Driver) : Ripple ch s (s.markRestart d) := by
  unfold State.markRestart
  split
  · exact ripple_tacho ch s _
  · exact Ripple.refl ch s

theorem ripple_failTransfer (s : State) (d : Driver) (k : Nat) (o : TransferOutcome) :
    Ripple ch s (s.failTransfer d k o) := by
  unfold State.failTransfer
  simp only []
  have h := (ripple_setOutcome ch s d o).trans (ripple_idleTransfer ch _)
  split
  · exact h.trans ((ripple_enqueue ch hch _ d 2).trans (ripple_tryStart ch hch _))
  · exact h.trans ((((ripple_writeSummary ch hch _ d 3).trans (ripple_raise ch _ _)).trans
      (ripple_push ch _ _ _ _ (hch _ onlyTacho_top))).trans (ripple_tryStart ch hch _))

theorem ripple_reconcile (s : State) (d : Driver) (v : Nat) : Ripple ch s (s.reconcile d v) :=
  (ripple_setDriver ch s d _).trans (ripple_writeCounters ch hch _ d)

theorem ripple_succeedTransfer (s : State) (d : Driver) (m : Summary) : Ripple ch s (s.succeedTransfer d m) := by
  have h := ripple_putDriver ch s d { s.driver d with summary := some m, outcome := .ok } rfl
  unfold State.succeedTransfer
  simp only []
  generalize s.putDriver d { s.driver d with summary := some m, outcome := .ok } = t at h ⊢
  exact h.trans ((ripple_writeSummary ch hch _ d 2).trans ((ripple_reconcile ch hch _ d _).trans
    ((ripple_release ch _ _ _ (hch _ onlyTacho_top)).trans ((ripple_markDirty ch _ _).trans
      ((ripple_idleTransfer ch _).trans (ripple_tryStart ch hch _))))))

theorem ripple_insertCard (s : State) (d : Driver) : Ripple ch s (s.insertCard d) := by
  unfold State.insertCard
  split
  · exact ripple_enqueue ch hch s d 1
  · exact (ripple_setDriver ch s d _).trans ((ripple_writePlain ch _ _ _ (hch _ (onlyTacho_cont d))
      (hch _ onlyTacho_top)).trans ((ripple_writePlain ch _ _ _ (hch _ (onlyTacho_left d)) (hch _ onlyTacho_top)).trans
        (ripple_enqueue ch hch _ d 1)))

omit hch in
theorem ripple_abandonOwn (s : State) (d : Driver) : Ripple ch s (s.abandonOwn d) := by
  unfold State.abandonOwn
  split
  · exact ripple_abandon ch s d
  · exact Ripple.refl ch s

omit hch in
theorem ripple_dropReadout (s : State) (d : Driver) : Ripple ch s (s.dropReadout d) := ripple_tacho ch s _

theorem ripple_withdrawCard (s : State) (d : Driver) : Ripple ch s (s.withdrawCard d) := by
  unfold State.withdrawCard
  simp only []
  have h := (ripple_abandonOwn ch s d).trans (ripple_dropReadout ch _ d)
  generalize (s.abandonOwn d).dropReadout d = t2 at h ⊢
  replace h := h.trans ((ripple_setDriver ch t2 d (t2.driver d).withdrawn).trans
    ((ripple_writeOther ch _ _ 0 (hch _ (onlyTacho_cont d)) (hch _ onlyTacho_top)).trans
      (ripple_writePlain ch _ _ .notAvailable (hch _ (onlyTacho_left d)) (hch _ onlyTacho_top))))
  generalize ((t2.setDriver d (t2.driver d).withdrawn).writeOther (contSlot d) 0).writePlain (leftSlot d) .notAvailable = t3
    at h ⊢
  replace h := h.trans (ripple_putDriver ch t3 d { t3.driver d with summary := none } rfl)
  generalize t3.putDriver d { t3.driver d with summary := none } = t4 at h ⊢
  exact h.trans ((ripple_writeSummary ch hch _ d 0).trans
    ((ripple_release ch _ _ _ (hch _ onlyTacho_top)).trans (ripple_tryStart ch hch _)))

theorem ripple_minuteEvent (s : State) (d : Driver) : Ripple ch s (s.minuteEvent d) := by
  unfold State.minuteEvent
  split
  · exact (ripple_setDriver ch s d _).trans (ripple_writeCounters ch hch _ d)
  · exact Ripple.refl ch s

omit hch in
theorem ripple_judgeMismatch (s : State) : Ripple ch s s.judgeMismatch := by
  unfold State.judgeMismatch
  split
  · exact ripple_tacho ch s _
  · split
    · exact Ripple.refl ch s
    · exact ripple_tacho ch s _

omit hch in
theorem ripple_judgeWatch (s : State) : Ripple ch s s.judgeWatch := by
  unfold State.judgeWatch
  split
  · split
    · exact Ripple.refl ch s
    · exact ripple_tacho ch s _
  · exact ripple_tacho ch s _

omit hch in
theorem ripple_pulseNotice (s : State) : Ripple ch s s.pulseNotice := by
  unfold State.pulseNotice
  split <;> exact ripple_tacho ch s _

omit hch in
theorem ripple_speedEvent (s : State) (n : Nat) : Ripple ch s (s.speedEvent n) := by
  unfold State.speedEvent
  split
  · exact (ripple_judgeMismatch ch s).trans (ripple_judgeWatch ch _)
  · split
    · exact ripple_judgeMismatch ch s
    · exact Ripple.refl ch s

theorem ripple_cardEvent (s : State) (d : Driver) (e : UpdateEvent) : Ripple ch s (s.cardEvent d e) := by
  unfold State.cardEvent
  split
  · split
    · exact ripple_insertCard ch hch s d
    · split
      · exact ripple_withdrawCard ch hch s d
      · exact Ripple.refl ch s
  · exact Ripple.refl ch s

theorem ripple_contEvent (s : State) (d : Driver) (e : UpdateEvent) : Ripple ch s (s.contEvent d e) := by
  unfold State.contEvent
  split
  · exact ripple_reconcile ch hch s d _
  · exact Ripple.refl ch s

theorem ripple_tachoEvent (s : State) (e : UpdateEvent) : Ripple ch s (s.tachoEvent e) := by
  unfold State.tachoEvent
  exact ((((ripple_speedEvent ch s _).trans (ripple_cardEvent ch hch _ .one e)).trans
    (ripple_cardEvent ch hch _ .two e)).trans (ripple_contEvent ch hch _ .one e)).trans (ripple_contEvent ch hch _ .two e)

/-! ### Slot changes and transfers -/

theorem ripple_announce (s : State) (e : UpdateEvent) : Ripple ch s (s.announce e) (fun m => m = e.slot ∨ ch m) := by
  unfold State.announce
  exact (ripple_tell ch s _ (hch _ onlyTacho_top)).trans
    (((ripple_tachoEvent ch hch _ e).trans (ripple_displayEvent ch _ _)).wide fun _ h => .inr h)

theorem ripple_changeSlot (s : State) (n : Nat) (c : Cause) (r : SlotRecord) (hn : ch n) :
    Ripple ch s (s.changeSlot n c r) := by
  unfold State.changeSlot State.announce
  have T := (delivered_tell ch (s.putSlot n r) n (hch _ onlyTacho_top)).also
    (ripple_tachoEvent ch hch _ (eventOf n c (s.slot n) r))
  have R := (ripple_tachoEvent ch hch (State.tell (s.putSlot n r) n) (eventOf n c (s.slot n) r)).trans
    (ripple_displayEvent ch _ n)
  exact (T.also (ripple_displayEvent ch _ n)).written hn (fun hp => R.dimmed.right R.param (dutyIs_tell _ n hp)) fun ho k hk =>
    displayEvent_marks _ n (fun e => ho (T.ripple.told.on.mp e)) k hk

theorem ripple_takeOpen (s : State) (d : Driver) (k : Nat) : Ripple ch s (s.takeOpen d k) := by
  unfold State.takeOpen
  split
  · exact Ripple.refl ch s
  · split
    · split
      · exact ripple_tacho ch s _
      · exact ripple_failTransfer ch hch s _ _ _
    · exact ripple_failTransfer ch hch s _ _ _
  · exact ripple_failTransfer ch hch s _ _ _

theorem ripple_takeData (s : State) (k : Nat) (b : List Byte) : Ripple ch s (s.takeData k b) := by
  unfold State.takeData
  split
  · exact Ripple.refl ch s
  · exact ripple_failTransfer ch hch s _ _ _
  · split
    · exact ripple_failTransfer ch hch s _ _ _
    · split
      · exact ripple_tacho ch s _
      · exact ripple_failTransfer ch hch s _ _ _

theorem ripple_takeClose (s : State) (c : BitVec 16) : Ripple ch s (s.takeClose c) := by
  unfold State.takeClose
  split
  · exact Ripple.refl ch s
  · exact ripple_failTransfer ch hch s _ _ _
  · split
    · exact ripple_failTransfer ch hch s _ _ _
    · split
      · exact ripple_failTransfer ch hch s _ _ _
      · split
        · exact ripple_failTransfer ch hch s _ _ _
        · exact ripple_succeedTransfer ch hch s _ _

theorem ripple_takeAbort (s : State) : Ripple ch s s.takeAbort := by
  unfold State.takeAbort
  split
  · exact Ripple.refl ch s
  · exact ripple_failTransfer ch hch s _ _ _
  · exact ripple_failTransfer ch hch s _ _ _

theorem ripple_transferTimeout (s : State) : Ripple ch s s.transferTimeout := by
  unfold State.transferTimeout
  split
  · exact ripple_idleTransfer ch s
  · exact (ripple_failTransfer ch hch s _ _ _).trans (ripple_markRestart ch _ _)
  · exact (ripple_failTransfer ch hch s _ _ _).trans (ripple_markRestart ch _ _)

theorem ripple_confirmSide (s : State) (h3 : ch 3) : Ripple ch s s.confirmSide := by
  have h13 := hch _ onlyTacho_top
  have h0 : Ripple ch s { s with tacho.mismatchTimer := none } := ripple_tacho ch s _
  unfold State.confirmSide
  simp only []
  split
  · exact h0
  · split
    · exact h0.trans ((ripple_writePlain ch _ 3 _ h3 h13).trans (ripple_push ch _ _ _ _ h13))
    · exact h0
  · split
    · exact h0.trans (ripple_writePlain ch _ 3 _ h3 h13)
    · split
      · exact h0.trans ((ripple_writePlain ch _ 3 _ h3 h13).trans (ripple_release ch _ _ _ h13))
      · exact h0

end Tacho

end Sys2Proof.Machine
end

