-- ==== Sys2Proof/Laws/Alerts.lean ====
section
/-! SUPPORT. What the alert block cannot reach: the tachograph block, and the rules and gauge channels that do not name slot 13; and
what a write of another slot cannot reach. -/

namespace Sys2Proof.Machine

/-- What the alert block leaves alone while it takes an action; slot 13 once FRESH stays so. -/
structure Cascade (s t : State) : Prop where
  tacho : t.tacho = s.tacho
  named : ∀ i, (t.rule i).liveSlot = (s.rule i).liveSlot
  rules : ∀ i, (s.rule i).liveSlot ≠ some 13 → t.rule i = s.rule i
  channels : ∀ c, (s.channel c).consumes 13 = false → t.channel c = s.channel c
  top : (s.slot 13).state = .fresh → (t.slot 13).state = .fresh

theorem Cascade.refl (s : State) : Cascade s s := ⟨rfl, fun _ => rfl, fun _ _ => rfl, fun _ _ => rfl, fun h => h⟩

theorem Cascade.trans {s t u : State} (h : Cascade s t) (k : Cascade t u) : Cascade s u where
  tacho := k.tacho.trans h.tacho
  named i := (k.named i).trans (h.named i)
  rules i hi := (k.rules i (by rw [h.named i]; exact hi)).trans (h.rules i hi)
  channels c hc := (k.channels c (by rw [h.channels c hc]; exact hc)).trans (h.channels c hc)
  top ht := k.top (h.top ht)

theorem Cascade.foldl {α : Type} (f : State → α → State) (hf : ∀ s a, Cascade s (f s a)) :
    ∀ (l : List α) (s : State), Cascade s (l.foldl f s)
  | [], s => Cascade.refl s
  | a :: l, s => (hf s a).trans (Cascade.foldl f hf l (f s a))

/-- A change that touches neither. -/
theorem Cascade.same {s t : State} (ht : t.tacho = s.tacho) (hr : t.telltale.rules = s.telltale.rules)
    (hg : t.gauges = s.gauges) (hs : (s.slot 13).state = .fresh → (t.slot 13).state = .fresh) : Cascade s t :=
  have h : ∀ i, t.rule i = s.rule i := fun i => by simp only [State.rule, hr]
  ⟨ht, fun i => by rw [h i], fun i _ => h i, fun c _ => by simp only [State.channel, hg], hs⟩

theorem liveSlot_fixed {q r : Rule} (h : q.fixed = r.fixed) : q.liveSlot = r.liveSlot := by
  have hl : q.life = r.life := by have e := congrArg Rule.life h; exact e
  have ha : q.a = r.a := by have e := congrArg Rule.a h; exact e
  unfold Rule.liveSlot
  rw [hl, ha]

theorem cascade_evalRule (s : State) (i : Nat) (h : (s.rule i).liveSlot = some 13) : Cascade s (s.evalRule i).1 := by
  have hr := ripple_evalRule (fun _ => False) s i (fun _ => True) (fun _ _ => trivial) fun _ _ => trivial
  have h13 := hr.slots 13 (fun h => h)
  have e : (s.evalRule i).1.tacho = s.tacho := by
    unfold State.evalRule
    split
    · rfl
    · split <;> rfl
  have g : (s.evalRule i).1.gauges = s.gauges := by
    unfold State.evalRule
    split
    · rfl
    · split <;> rfl
  refine ⟨e, fun j => liveSlot_fixed (hr.rules j), fun j hj => ?_, fun c _ => by simp only [State.channel, g],
    fun h => by rw [h13]; exact h⟩
  have hij : i ≠ j := fun e => hj (e ▸ h)
  unfold State.evalRule
  split
  · rfl
  · split
    · exact State.rule_putRule_other s i j _ hij
    · rfl

theorem cascade_gatherRule (acc : State × List AlertAction) (i : Nat) : Cascade acc.1 (gatherRule 13 acc i).1 := by
  unfold gatherRule
  split
  · next h => exact cascade_evalRule _ _ h
  · exact Cascade.refl _

theorem cascade_gatherFold : ∀ (l : List Nat) (acc : State × List AlertAction),
    Cascade acc.1 (l.foldl (gatherRule 13) acc).1
  | [], _ => Cascade.refl _
  | i :: l, acc => (cascade_gatherRule acc i).trans (cascade_gatherFold l _)

theorem cascade_gatherRules (s : State) : Cascade s (s.gatherRules 13).1 := by
  unfold State.gatherRules
  split
  · exact cascade_gatherFold _ (s, [])
  · exact Cascade.refl s

theorem cascade_markDirty (s : State) (k : List RecordKind) : Cascade s (s.markDirty k) := by
  obtain ⟨d, h⟩ := markDirty_only s k
  rw [h]; exact Cascade.same rfl rfl rfl (fun h => h)

theorem cascade_dimEvent (s : State) (n : Nat) : Cascade s (s.dimEvent n) := by
  unfold State.dimEvent
  split
  · unfold State.updateDuty
    split
    · exact Cascade.refl s
    · exact Cascade.trans (Cascade.same (t := { s with telltale.duty := s.dutyNow }) rfl rfl rfl (fun h => h)) (cascade_markDirty _ _)
  · exact Cascade.refl s

/-- A channel that consumes neither source nor fallback of this slot takes no event of it (R31). -/
theorem gaugeEvent_apart (s : State) (n c : Nat) (h : (s.channel c).consumes n = false) :
    (s.gaugeEvent n).channel c = s.channel c := by
  rw [gaugeEvent_channel]
  split
  · unfold Channel.onEvent
    rw [h, Bool.and_false]; rfl
  · rfl

theorem cascade_gaugeEvent (s : State) : Cascade s (s.gaugeEvent 13) :=
  ⟨rfl, fun _ => rfl, fun _ _ => rfl, fun c hc => gaugeEvent_apart s 13 c hc, fun h => h⟩

theorem cascade_writeTop (s : State) : Cascade s s.writeTop.1 := by
  unfold State.writeTop
  refine Cascade.trans (Cascade.trans ?_ (cascade_gatherRules _)) ((cascade_dimEvent _ 13).trans (cascade_markDirty _ _))
  have h : Cascade s (s.writeRecord 13 (.fresh (topSeverity s.alert.stack))) :=
    Cascade.same rfl rfl rfl (fun _ => congrArg SlotRecord.state (State.slot_putSlot_same s 13 _ (by decide)))
  exact h.trans (cascade_gaugeEvent _)

theorem cascade_showTop (s : State) : Cascade s s.showTop.1 := by
  unfold State.showTop
  split
  · exact cascade_writeTop s
  · exact Cascade.refl s

/-- A change of the chime changes the alert block alone. -/
theorem chimeRequest_only (s : State) (p : ChimePattern) : ∃ b : AlertBlock, s.chimeRequest p = { s with alert := b } := by
  unfold State.chimeRequest
  split
  · split
    · unfold State.chimeStart; split <;> exact ⟨_, rfl⟩
    · split
      · exact ⟨s.alert, rfl⟩
      · unfold State.chimeStart; split <;> exact ⟨_, rfl⟩
  · exact ⟨s.alert, rfl⟩

theorem cascade_chimeRequest (s : State) (p : ChimePattern) : Cascade s (s.chimeRequest p) := by
  obtain ⟨b, h⟩ := chimeRequest_only s p
  rw [h]; exact Cascade.same rfl rfl rfl (fun h => h)

theorem cascade_chimeRequest? (s : State) (p : Option ChimePattern) : Cascade s (s.chimeRequest? p) := by
  cases p with
  | none => exact Cascade.refl s
  | some q => exact cascade_chimeRequest s q

theorem cascade_chimeStopCheck (s : State) : Cascade s s.chimeStopCheck := by
  unfold State.chimeStopCheck
  split
  · exact Cascade.refl s
  · split
    · exact Cascade.same rfl rfl rfl (fun h => h)
    · exact Cascade.refl s

theorem cascade_stackChanged (s : State) (p : Option ChimePattern) : Cascade s (s.stackChanged p).1 := by
  unfold State.stackChanged
  exact (cascade_showTop s).trans ((cascade_markDirty _ _).trans ((cascade_chimeStopCheck _).trans
    (cascade_chimeRequest? _ p)))

theorem offer_frame (s : State) (f : TxFrame) :
    (s.offer f).tacho = s.tacho ∧ (s.offer f).telltale = s.telltale ∧ (s.offer f).alert = s.alert ∧
      (s.offer f).table = s.table ∧ (s.offer f).gauges = s.gauges ∧ (s.offer f).display = s.display ∧
      (s.offer f).mgmt = s.mgmt := by
  unfold State.offer
  split <;> exact ⟨rfl, rfl, rfl, rfl, rfl, rfl, rfl⟩

theorem raise_frame (s : State) (f : EventFlag) :
    (s.raise f).tacho = s.tacho ∧ (s.raise f).telltale = s.telltale ∧ (s.raise f).alert = s.alert ∧
      (s.raise f).table = s.table ∧ (s.raise f).gauges = s.gauges ∧ (s.raise f).display = s.display := by
  unfold State.raise
  split
  · exact ⟨rfl, rfl, rfl, rfl, rfl, rfl⟩
  · split
    · have h := offer_frame (s.setFlag f) (s.setFlag f).notice
      exact ⟨h.1, h.2.1, h.2.2.1, h.2.2.2.1, h.2.2.2.2.1, h.2.2.2.2.2.1⟩
    · exact ⟨rfl, rfl, rfl, rfl, rfl, rfl⟩

theorem cascade_raise (s : State) (f : EventFlag) : Cascade s (s.raise f) :=
  Cascade.same (raise_frame s f).1 (congrArg Telltale.rules (raise_frame s f).2.1) (raise_frame s f).2.2.2.2.1
    (by simp only [State.slot, (raise_frame s f).2.2.2.1]; exact fun h => h)

theorem cascade_offer (s : State) (f : TxFrame) : Cascade s (s.offer f) :=
  Cascade.same (offer_frame s f).1 (congrArg Telltale.rules (offer_frame s f).2.1) (offer_frame s f).2.2.2.2.1
    (by simp only [State.slot, (offer_frame s f).2.2.2.1]; exact fun h => h)

theorem cascade_alertLost (s : State) : Cascade s s.alertLost := by
  unfold State.alertLost
  exact Cascade.trans (Cascade.same (t := { s with alert.lost := satInc count8 s.alert.lost }) rfl rfl rfl (fun h => h)) (cascade_raise _ _)

theorem cascade_setStack (s : State) (k : List AlertEntry) : Cascade s (s.setStack k) := Cascade.same rfl rfl rfl (fun h => h)

theorem cascade_takePush (s : State) (code : Nat) (v : Severity) (o : Origin) : Cascade s (s.takePush code v o).1 := by
  unfold State.takePush
  split
  · exact (cascade_setStack s _).trans (cascade_stackChanged _ _)
  · split
    · exact (cascade_setStack s _).trans (cascade_stackChanged _ _)
    · split
      · exact cascade_alertLost s
      · exact (cascade_alertLost s).trans ((cascade_setStack _ _).trans (cascade_stackChanged _ _))

theorem cascade_takeRelease (s : State) (code : Nat) : Cascade s (s.takeRelease code).1 := by
  unfold State.takeRelease
  split
  · exact Cascade.refl s
  · split
    · exact (cascade_setStack s _).trans (cascade_stackChanged _ _)
    · split
      · exact (cascade_setStack s _).trans (cascade_stackChanged _ _)
      · exact Cascade.refl s

theorem cascade_takeAction (s : State) (a : AlertAction) : Cascade s (s.takeAction a).1 := by
  unfold State.takeAction
  cases a with
  | push code v o =>
    simp only []
    split
    · exact cascade_takePush s code v o
    · exact Cascade.refl s
  | release code o =>
    simp only []
    split
    · exact Cascade.refl s
    · exact cascade_takeRelease s code

theorem cascade_drain : ∀ (fuel : Nat) (l : List AlertAction) (s : State), Cascade s (s.drain fuel l)
  | 0, _, _ => Cascade.same rfl rfl rfl (fun h => h)
  | _ + 1, [], _ => Cascade.same rfl rfl rfl (fun h => h)
  | k + 1, a :: _, s => (cascade_takeAction s a).trans (cascade_drain k _ _)

theorem cascade_settleLamps (s : State) : Cascade s s.settleLamps := by
  obtain ⟨l, h⟩ := settleLamps_only s
  rw [h]; exact Cascade.same rfl rfl rfl (fun h => h)

theorem cascade_send (s : State) (l : List AlertAction) : Cascade s (s.send l) := by
  unfold State.send
  split
  · exact Cascade.refl s
  · refine Cascade.trans (cascade_drain Config.alertFuel (s.alert.backlog ++ l) s) ?_
    unfold State.settleTop
    split
    · exact cascade_settleLamps _
    · exact Cascade.refl _

/-- Nothing sent with nothing on its way changes nothing. -/
theorem send_nothing (s : State) (h : s.alert.backlog = []) : s.send [] = s := by
  unfold State.send
  rw [if_pos (by rw [h]; rfl)]

/-! ### The tachograph block through the writes of other blocks -/

theorem evalRule_tacho (s : State) (i : Nat) : (s.evalRule i).1.tacho = s.tacho := by
  unfold State.evalRule
  split
  · rfl
  · split <;> rfl

theorem gatherFold_tacho (n : Nat) : ∀ (l : List Nat) (acc : State × List AlertAction),
    (l.foldl (gatherRule n) acc).1.tacho = acc.1.tacho
  | [], _ => rfl
  | i :: l, acc => by
    rw [List.foldl_cons, gatherFold_tacho n l]
    unfold gatherRule
    split
    · exact evalRule_tacho acc.1 i
    · rfl

theorem gatherRules_tacho (s : State) (n : Nat) : (s.gatherRules n).1.tacho = s.tacho := by
  unfold State.gatherRules
  split
  · exact gatherFold_tacho n _ (s, [])
  · rfl

theorem tell_tacho (s : State) (n : Nat) : (s.tell n).tacho = s.tacho := by
  have h : ∀ (t : State) (l : List AlertAction), (t.sendGathered n l).tacho = t.tacho := by
    intro t l
    unfold State.sendGathered
    split
    · exact (cascade_settleLamps _).tacho.trans (cascade_send t l).tacho
    · rfl
  unfold State.tell
  simp only []
  rw [h, (cascade_dimEvent _ _).tacho, gatherRules_tacho]
  rfl

theorem writePlain_tacho (s : State) (n : Nat) (w : SlotWrite) : (s.writePlain n w).tacho = s.tacho := by
  unfold State.writePlain State.displayEvent
  rw [(cascade_markDirty _ _).tacho, tell_tacho]
  rfl

theorem writeOther_tacho (s : State) (n : Nat) (v : Int) : (s.writeOther n v).tacho = s.tacho := by
  unfold State.writeOther
  split
  · rfl
  · exact writePlain_tacho s n _

/-! ### Rules and channels through the writes of other slots -/

/-- What a write of slot `n` leaves alone: the rules and the channels that name neither slot `n` nor slot 13, and slot 13 once it
is FRESH. -/
structure Apart (n : Nat) (s t : State) : Prop where
  named : ∀ i, (t.rule i).liveSlot = (s.rule i).liveSlot
  rules : ∀ i, (s.rule i).liveSlot ≠ some 13 → (s.rule i).liveSlot ≠ some n → t.rule i = s.rule i
  channels : ∀ c, (s.channel c).consumes 13 = false → (s.channel c).consumes n = false → t.channel c = s.channel c
  top : n ≠ 13 → (s.slot 13).state = .fresh → (t.slot 13).state = .fresh

theorem Apart.trans {n : Nat} {s t u : State} (h : Apart n s t) (k : Apart n t u) : Apart n s u where
  named i := (k.named i).trans (h.named i)
  rules i hi hn := (k.rules i (by rw [h.named i]; exact hi) (by rw [h.named i]; exact hn)).trans (h.rules i hi hn)
  channels c hc hn :=
    (k.channels c (by rw [h.channels c hc hn]; exact hc) (by rw [h.channels c hc hn]; exact hn)).trans (h.channels c hc hn)
  top hn ht := k.top hn (h.top hn ht)

theorem Cascade.apart {s t : State} (n : Nat) (h : Cascade s t) : Apart n s t :=
  ⟨h.named, fun i hi _ => h.rules i hi, fun c hc _ => h.channels c hc, fun _ => h.top⟩

theorem apart_evalRule (n : Nat) (s : State) (i : Nat) (h : (s.rule i).liveSlot = some n) : Apart n s (s.evalRule i).1 := by
  have hr := ripple_evalRule (fun _ => False) s i (fun _ => True) (fun _ _ => trivial) fun _ _ => trivial
  have g : (s.evalRule i).1.gauges = s.gauges := by
    unfold State.evalRule
    split
    · rfl
    · split <;> rfl
  refine ⟨fun j => liveSlot_fixed (hr.rules j), fun j _ hj => ?_, fun c _ _ => by simp only [State.channel, g],
    fun _ h => by rw [hr.slots 13 (fun h => h)]; exact h⟩
  have hij : i ≠ j := fun e => hj (e ▸ h)
  unfold State.evalRule
  split
  · rfl
  · split
    · exact State.rule_putRule_other s i j _ hij
    · rfl

theorem apart_gatherFold (n : Nat) : ∀ (l : List Nat) (acc : State × List AlertAction),
    Apart n acc.1 (l.foldl (gatherRule n) acc).1
  | [], acc => (Cascade.refl acc.1).apart n
  | i :: l, acc => by
    refine Apart.trans (t := (gatherRule n acc i).1) ?_ (apart_gatherFold n l _)
    unfold gatherRule
    split
    · next h => exact apart_evalRule n _ i h
    · exact (Cascade.refl _).apart n

theorem apart_tell (s : State) (n : Nat) : Apart n s (s.tell n) := by
  unfold State.tell State.sendGathered
  have h1 : Apart n s (s.gaugeEvent n) := ⟨fun _ => rfl, fun _ _ _ => rfl, fun c _ hc => gaugeEvent_apart s n c hc, fun _ h => h⟩
  have h2 : Apart n (s.gaugeEvent n) ((s.gaugeEvent n).gatherRules n).1 := by
    unfold State.gatherRules
    split
    · exact apart_gatherFold n _ (s.gaugeEvent n, [])
    · exact (Cascade.refl _).apart n
  refine Apart.trans (h1.trans (h2.trans ((cascade_dimEvent _ n).apart n))) ?_
  simp only []
  split
  · exact ((cascade_send _ _).trans (cascade_settleLamps _)).apart n
  · exact (Cascade.refl _).apart n

theorem apart_writePlain (s : State) (n : Nat) (w : SlotWrite) : Apart n s (s.writePlain n w) := by
  unfold State.writePlain State.displayEvent
  have h : Apart n s (s.writeRecord n w) := ⟨fun _ => rfl, fun _ _ _ => rfl, fun _ _ _ => rfl, fun hn h =>
    (congrArg SlotRecord.state (State.slot_putSlot_other s n 13 _ hn)).trans h⟩
  exact Apart.trans h
    ((apart_tell _ n).trans ((cascade_markDirty _ _).apart n))

theorem apart_writeOther (s : State) (n : Nat) (v : Int) : Apart n s (s.writeOther n v) := by
  unfold State.writeOther
  split
  · exact (Cascade.refl s).apart n
  · exact apart_writePlain s n _

end Sys2Proof.Machine
end

