-- ==== Sys2Proof/Laws/Requests.lean ====
section
/-! SUPPORT. What the classifier and a request at the head of the intake queue can do, said once (R8, R164, R165). -/

namespace Sys2Proof.Machine

/-- The identifiers do not depend on the intake queue. -/
theorem isRequest_dequeued (s : State) (rest : List FrameRecord) (code : Nat) (r : FrameRecord) :
    ({ s with intake.queue := rest }).isRequest code r = s.isRequest code r := rfl

theorem asked_isRequest {code : Nat} {s : State} {r : FrameRecord} {rest : List FrameRecord} (h : Asked code s r rest) :
    s.isRequest code r = true := by
  obtain ⟨_, h1, h2, h3, h4⟩ := h
  simp [State.isRequest, State.isMgmt, h1, h2, h3, h4]

/-- A record at the head that is on the path is taken. -/
theorem takeHead_atHead {s : State} {r : FrameRecord} {rest : List FrameRecord} (h : AtHead s r rest)
    (path : State → FrameRecord → Bool) (f : FrameRecord → State → State) (hp : path s r = true) :
    takeHead path f s = .next (f r { s with intake.queue := rest }) := by
  simp [takeHead, h.1, h.2, hp]

/-- While a restart is pending no record is taken (R177). -/
theorem takeHead_restarting {s : State} (path : State → FrameRecord → Bool) (f : FrameRecord → State → State)
    (h : s.mgmt.restart ≠ none) : takeHead path f s = .next s := by
  unfold takeHead
  split
  · rfl
  · have e : s.mgmt.restart.isNone = false := by
      cases hr : s.mgmt.restart with
      | none => exact absurd hr h
      | some _ => rfl
    rw [e]
    rfl

/-- A request at the head is judged, answered and carried out. -/
theorem onRequest_asked {code : Nat} {s : State} {r : FrameRecord} {rest : List FrameRecord} (h : Asked code s r rest)
    (judge : FrameRecord → State → Verdict) :
    onRequest code judge s =
      .next ((judge r { s with intake.queue := rest }).effect
        (answered s r rest (judge r { s with intake.queue := rest }).result
          (judge r { s with intake.queue := rest }).data)) :=
  takeHead_atHead h.1 _ _ (asked_isRequest h)

theorem unlessSaving_saving {s : State} (v : Verdict) (h : Saving s) : unlessSaving s v = refuse .busy := by
  unfold unlessSaving
  exact if_pos h

theorem unlessSaving_idle {s : State} (v : Verdict) (h : ¬ Saving s) : unlessSaving s v = v := by
  unfold unlessSaving
  exact if_neg h

/-- What a record at the head and its answer leave alone. -/
@[simp] theorem answered_clock (s : State) (r : FrameRecord) (l : List FrameRecord) (c : ResultCode) (d : List Byte) :
    (answered s r l c d).clock = s.clock := by unfold answered State.offer; split <;> rfl
@[simp] theorem answered_powered (s : State) (r : FrameRecord) (l : List FrameRecord) (c : ResultCode) (d : List Byte) :
    (answered s r l c d).powered = s.powered := by unfold answered State.offer; split <;> rfl
@[simp] theorem answered_ign (s : State) (r : FrameRecord) (l : List FrameRecord) (c : ResultCode) (d : List Byte) :
    (answered s r l c d).ign = s.ign := by unfold answered State.offer; split <;> rfl
@[simp] theorem answered_pins (s : State) (r : FrameRecord) (l : List FrameRecord) (c : ResultCode) (d : List Byte) :
    (answered s r l c d).pins = s.pins := by unfold answered State.offer; split <;> rfl
@[simp] theorem answered_portL (s : State) (r : FrameRecord) (l : List FrameRecord) (c : ResultCode) (d : List Byte) :
    (answered s r l c d).portL = s.portL := by unfold answered State.offer; split <;> rfl
@[simp] theorem answered_queue (s : State) (r : FrameRecord) (l : List FrameRecord) (c : ResultCode) (d : List Byte) :
    (answered s r l c d).intake.queue = l := by unfold answered State.offer; split <;> rfl
@[simp] theorem answered_routes (s : State) (r : FrameRecord) (l : List FrameRecord) (c : ResultCode) (d : List Byte) :
    (answered s r l c d).intake.routes = s.intake.routes := by unfold answered State.offer; split <;> rfl
@[simp] theorem answered_build (s : State) (r : FrameRecord) (l : List FrameRecord) (c : ResultCode) (d : List Byte) :
    (answered s r l c d).intake.build = s.intake.build := by unfold answered State.offer; split <;> rfl
@[simp] theorem answered_table (s : State) (r : FrameRecord) (l : List FrameRecord) (c : ResultCode) (d : List Byte) :
    (answered s r l c d).table = s.table := by unfold answered State.offer; split <;> rfl
@[simp] theorem answered_gauges (s : State) (r : FrameRecord) (l : List FrameRecord) (c : ResultCode) (d : List Byte) :
    (answered s r l c d).gauges = s.gauges := by unfold answered State.offer; split <;> rfl
@[simp] theorem answered_telltale (s : State) (r : FrameRecord) (l : List FrameRecord) (c : ResultCode) (d : List Byte) :
    (answered s r l c d).telltale = s.telltale := by unfold answered State.offer; split <;> rfl
@[simp] theorem answered_alert (s : State) (r : FrameRecord) (l : List FrameRecord) (c : ResultCode) (d : List Byte) :
    (answered s r l c d).alert = s.alert := by unfold answered State.offer; split <;> rfl
@[simp] theorem answered_dist (s : State) (r : FrameRecord) (l : List FrameRecord) (c : ResultCode) (d : List Byte) :
    (answered s r l c d).dist = s.dist := by unfold answered State.offer; split <;> rfl
@[simp] theorem answered_tacho (s : State) (r : FrameRecord) (l : List FrameRecord) (c : ResultCode) (d : List Byte) :
    (answered s r l c d).tacho = s.tacho := by unfold answered State.offer; split <;> rfl
@[simp] theorem answered_display (s : State) (r : FrameRecord) (l : List FrameRecord) (c : ResultCode) (d : List Byte) :
    (answered s r l c d).display = s.display := by unfold answered State.offer; split <;> rfl
@[simp] theorem answered_mgmt (s : State) (r : FrameRecord) (l : List FrameRecord) (c : ResultCode) (d : List Byte) :
    (answered s r l c d).mgmt = s.mgmt := by unfold answered State.offer; split <;> rfl
@[simp] theorem answered_store (s : State) (r : FrameRecord) (l : List FrameRecord) (c : ResultCode) (d : List Byte) :
    (answered s r l c d).store = s.store := by unfold answered State.offer; split <;> rfl
@[simp] theorem answered_fresh (s : State) (r : FrameRecord) (l : List FrameRecord) (c : ResultCode) (d : List Byte) :
    (answered s r l c d).fresh = s.fresh := by unfold answered State.offer; split <;> rfl
@[simp] theorem answered_pending (s : State) (r : FrameRecord) (l : List FrameRecord) (c : ResultCode) (d : List Byte) :
    (answered s r l c d).pending = s.pending := by unfold answered State.offer; split <;> rfl

/-- An answer is a ripple of the state without the record: it writes no slot. -/
theorem ripple_answered (ch : Nat → Prop) (s : State) (r : FrameRecord) (l : List FrameRecord) (c : ResultCode)
    (d : List Byte) : Ripple ch { s with intake.queue := l } (answered s r l c d) := ripple_offer ch _ _

end Sys2Proof.Machine
end

