-- ==== Sys2Proof/Laws/Power.lean ====
section
/-! SUPPORT. What the changes of power state can do, said once (R188 to R191). -/

namespace Sys2Proof.Machine

/-! ### A slot written by its own block -/

/-- An internal slot but slot 13, written FRESH, shows its value: what follows the write leaves it alone. -/
theorem writePlain_shows (s : State) (n : Nat) (v : Int) (hn : n < 96) (h13 : n ≠ 13) :
    Shows (s.writePlain n (.fresh v)) n v := by
  have R := ((ripple_tell (· = 13) (s.writeRecord n (.fresh v)) n rfl).trans
    ((ripple_displayEvent (· = 13) _ n).wide fun _ h => .inr h))
  have e : (s.writePlain n (.fresh v)).slot n = (s.writeRecord n (.fresh v)).slot n := R.slots n h13
  unfold Shows
  rw [e]
  have g : (s.writeRecord n (.fresh v)).slot n = (s.slot n).written (.fresh v) none s.clock :=
    State.slot_putSlot_same s n _ hn
  rw [g]
  exact ⟨rfl, rfl⟩

/-! ### The conditions judged (R188, R190) -/

theorem judgeSleep_awake (s : State) (h : s.ign.power ≠ .parking) : s.judgeSleep = s := by
  simp [State.judgeSleep, Ignition.maySleep, h]

theorem judgeRun_other (s : State) (h : s.ign.power ≠ .waking) : s.judgeRun = s := by
  simp [State.judgeRun, Ignition.mayRun, h]

/-- No channel has reported yet, so the RUN condition does not hold (R188). -/
theorem judgeRun_unreported (s : State) (h : s.ign.reports = Bank.fill 8 .none) : s.judgeRun = s := by
  have e : s.ign.mayRun = false := by
    unfold Ignition.mayRun
    rw [h]
    simp [Bank.fill, List.replicate]
  simp [State.judgeRun, e]

/-! ### Events and flags -/

theorem flag_set (w : BitVec 12) (f : EventFlag) : f.inWord (w ||| f.mask) = true := by
  cases f <;> simp [EventFlag.inWord, EventFlag.mask, EventFlag.index]

/-- An event sets its flag (R168). -/
theorem raise_flagged (s : State) (f : EventFlag) : Flagged (s.raise f) f := by
  unfold Flagged State.raise
  split
  · assumption
  · have h : f.inWord (s.setFlag f).mgmt.flags = true := flag_set _ f
    split
    · unfold State.offer; split <;> exact h
    · exact h

/-! ### WAKING entry (R188) -/

theorem ripple_firstWrites (ch : Nat → Prop) (s : State) (h : ∀ n, ch n) : Ripple ch s s.firstWrites := by
  have w : ∀ (t : State) (n : Nat) (x : SlotWrite), Ripple ch s t → Ripple ch s (t.writePlain n x) :=
    fun t n x ht => ht.trans (ripple_writePlain ch t n x (h n) (h 13))
  exact w _ 14 _ (w _ 12 _ (w _ 9 _ (w _ 8 _ (w _ 7 _ (w _ 5 _ (w _ 6 _ (w _ 4 _ (w _ 2 _ (w _ 1 _ (w _ 13 _
    (Ripple.refl ch s)))))))))))

theorem ripple_reportConfig (ch : Nat → Prop) (s : State) (h : ch 13) : Ripple ch s s.reportConfig := by
  unfold State.reportConfig
  split
  · exact Ripple.refl ch s
  · exact (ripple_raise ch s _).trans (ripple_push ch _ _ _ _ h)

/-- Everything of WAKING entry before the first writes. -/
theorem wakingEntry_form (s : State) :
    ∃ b u : State,
      b = ((({ s with ign := s.ign.wake }).settleWrite.wakeManagement.loadConfig.loadCal).wakeInput.wakeOutput.wakeNeedlesAndLamps).pollDisplay ∧
        Ripple (fun _ => True) b u ∧ s.wakingEntry = (u.skipProveOut).settleLamps.compareIgn :=
  ⟨_, _, rfl,
    ((ripple_firstWrites _ _ (fun _ => trivial)).trans (ripple_evalAll _ _ trivial)).trans
      (ripple_reportConfig _ _ trivial), rfl⟩

/-- What prove-out's end at WAKING entry comes to while no channel has reported. -/
theorem skipProveOut_unreported (u : State) (h : u.ign.reports = Bank.fill 8 .none) :
    u.skipProveOut = u ∨
      u.skipProveOut = ({ u with telltale.proveOut := none, ign.proveOutRunning := false }).settleLamps := by
  unfold State.skipProveOut
  split
  · right
    unfold State.proveOutEnded
    have R := ripple_settleLamps (fun _ => True) { u with telltale.proveOut := none, ign.proveOutRunning := false }
    exact judgeRun_unreported _ (by rw [R.ign]; exact h)
  · exact Or.inl rfl

/-- What the end of a calibration write leaves alone. -/
theorem calWritten_frame (s : State) :
    s.calWritten.clock = s.clock ∧ s.calWritten.pins = s.pins ∧ s.calWritten.pending = s.pending ∧
      s.calWritten.powered = s.powered ∧ s.calWritten.mgmt = s.mgmt ∧ s.calWritten.store.config = s.store.config ∧
      s.calWritten.store.save = s.store.save ∧ s.calWritten.ign.power = s.ign.power ∧
      s.calWritten.ign.hold = s.ign.hold ∧ s.calWritten.ign.level = s.ign.level ∧
      s.calWritten.ign.reports = s.ign.reports := by
  cases h : s.store.write <;> simp [State.calWritten, h, State.startCalWrite]

/-- After two ends no write is in flight (R182). -/
theorem settleWrite_idle (s : State) : s.settleWrite.store.write = .idle := by
  unfold State.settleWrite
  cases h : s.store.write <;> simp [State.calWritten, h, State.startCalWrite]

theorem loadConfig_frame (s : State) :
    s.loadConfig.clock = s.clock ∧ s.loadConfig.ign = s.ign ∧ s.loadConfig.pins = s.pins ∧
      s.loadConfig.pending = s.pending ∧ s.loadConfig.powered = s.powered ∧ s.loadConfig.mgmt.restart = s.mgmt.restart ∧
      s.loadConfig.mgmt.mask = s.mgmt.mask ∧ s.loadConfig.store.config = s.store.config ∧
      s.loadConfig.store.calibration = s.store.calibration ∧ s.loadConfig.store.write = s.store.write ∧
      s.loadConfig.store.save = s.store.save := by
  unfold State.loadConfig State.installConfig
  split <;> exact ⟨rfl, rfl, rfl, rfl, rfl, rfl, rfl, rfl, rfl, rfl, rfl⟩

theorem settleWrite_frame (s : State) :
    s.settleWrite.clock = s.clock ∧ s.settleWrite.pins = s.pins ∧ s.settleWrite.pending = s.pending ∧
      s.settleWrite.powered = s.powered ∧ s.settleWrite.mgmt = s.mgmt ∧ s.settleWrite.store.config = s.store.config ∧
      s.settleWrite.store.save = s.store.save ∧ s.settleWrite.ign.power = s.ign.power ∧
      s.settleWrite.ign.hold = s.ign.hold ∧ s.settleWrite.ign.level = s.ign.level ∧
      s.settleWrite.ign.reports = s.ign.reports := by
  obtain ⟨a1, a2, a3, a4, a5, a6, a7, a8, a9, a10, a11⟩ := calWritten_frame s
  obtain ⟨b1, b2, b3, b4, b5, b6, b7, b8, b9, b10, b11⟩ := calWritten_frame s.calWritten
  exact ⟨b1.trans a1, b2.trans a2, b3.trans a3, b4.trans a4, b5.trans a5, b6.trans a6, b7.trans a7, b8.trans a8,
    b9.trans a9, b10.trans a10, b11.trans a11⟩

/-- The link is IDLE, WAITING or SENDING after WAKING entry's first poll. -/
theorem poll_on (d : Display) (ready : Bool) (now : Nat) (h : d.link ≠ .off) : (d.poll ready now).link ≠ .off := by
  unfold Display.poll
  repeat' split
  all_goals first
    | exact h
    | (unfold Display.send; split <;> simp)

/-- The blocks' own entries after the configuration is loaded leave what lies outside them alone. -/
theorem wakeBlocks_frame (c : State) :
    let b := (c.loadCal.wakeInput.wakeOutput.wakeNeedlesAndLamps).pollDisplay
    b.clock = c.clock ∧ b.ign = c.ign ∧ b.pins = c.pins ∧ b.pending = c.pending ∧ b.powered = c.powered ∧
      b.mgmt = c.mgmt ∧ b.store = c.store ∧ b.intake.queue = [] ∧ b.intake.build = none ∧ b.portT.on = true ∧
      b.portL.on = true :=
  ⟨rfl, rfl, rfl, rfl, rfl, rfl, rfl, rfl, rfl, rfl, rfl⟩

theorem wakeManagement_frame (c : State) :
    c.wakeManagement.clock = c.clock ∧ c.wakeManagement.ign = c.ign ∧ c.wakeManagement.pins = c.pins ∧
      c.wakeManagement.pending = c.pending ∧ c.wakeManagement.powered = c.powered ∧
      c.wakeManagement.mgmt.restart = none ∧ c.wakeManagement.mgmt.mask = c.mgmt.mask ∧
      c.wakeManagement.store.config = c.store.config ∧ c.wakeManagement.store.write = c.store.write ∧
      c.wakeManagement.store.calibration = c.store.calibration :=
  ⟨rfl, rfl, rfl, rfl, rfl, rfl, rfl, rfl, rfl, rfl⟩

theorem settleWrite_calibration (s : State) (g : Ignition) :
    ({ s with ign := g } : State).settleWrite.store.calibration = s.settleWrite.store.calibration := by
  unfold State.settleWrite
  cases h : s.store.write <;> simp [State.calWritten, h, State.startCalWrite, State.calImage]

/-- The state of WAKING entry before the first writes. -/
theorem wakePrelude (s : State) :
    ∃ b : State, b = ((({ s with ign := s.ign.wake }).settleWrite.wakeManagement.loadConfig.loadCal).wakeInput.wakeOutput.wakeNeedlesAndLamps).pollDisplay ∧
      b.ign.power = .waking ∧ b.ign.hold = s.ign.hold ∧ b.ign.level = s.ign.level ∧
      b.ign.reports = Bank.fill 8 .none ∧ b.clock = s.clock ∧ b.pins = s.pins ∧ b.pending = s.pending ∧
      b.powered = s.powered ∧ b.mgmt.restart = none ∧ b.mgmt.mask = s.mgmt.mask ∧ b.intake.queue = [] ∧
      b.intake.build = none ∧ b.store.config = s.store.config ∧ b.store.write = .idle ∧
      b.store.calibration = s.settleWrite.store.calibration ∧ b.portT.on = true ∧ b.portL.on = true ∧
      b.display.link ≠ .off := by
  refine ⟨_, rfl, ?_⟩
  obtain ⟨f1, f2, f3, f4, f5, f6, _, f8, f9, f10, f11⟩ := settleWrite_frame { s with ign := s.ign.wake }
  have f12 := settleWrite_idle { s with ign := s.ign.wake }
  have f13 := settleWrite_calibration s s.ign.wake
  generalize hx : ({ s with ign := s.ign.wake } : State).settleWrite = x at *
  obtain ⟨m1, m2, m3, m4, m5, m6, m7, m8, m9, m10⟩ := wakeManagement_frame x
  generalize hy : x.wakeManagement = y at *
  obtain ⟨l1, l2, l3, l4, l5, l6, l7, l8, l9, l10, _⟩ := loadConfig_frame y
  generalize hz : y.loadConfig = z at *
  obtain ⟨w1, w2, w3, w4, w5, w6, w7, w8, w9, w10, w11⟩ := wakeBlocks_frame z
  refine ⟨?_, ?_, ?_, ?_, ?_, ?_, ?_, ?_, ?_, ?_, w8, w9, ?_, ?_, ?_, w10, w11, poll_on _ _ _ (fun h => nomatch h)⟩
  · rw [w2, l2, m2, f8]; rfl
  · rw [w2, l2, m2, f9]; rfl
  · rw [w2, l2, m2, f10]; rfl
  · rw [w2, l2, m2, f11]; rfl
  · rw [w1, l1, m1, f1]
  · rw [w3, l3, m3, f2]
  · rw [w4, l4, m4, f3]
  · rw [w5, l5, m5, f4]
  · rw [w6, l6, m6]
  · rw [w6, l7, m7, f5]
  · rw [w7, l8, m8, f6]
  · rw [w7, l10, m9, f12]
  · rw [w7, l9, m10, f13]

theorem Ripple.onT {ch : Nat → Prop} {s t : State} (h : Ripple ch s t) : t.portT.on = s.portT.on := by
  have e := congrArg PortBlock.on h.portT
  exact e

/-- WAKING entry (R188): the part is in WAKING with its ports and its link on, no request waiting, and what lies outside it
as before. -/
theorem wakingEntry_spec (s : State) :
    s.wakingEntry.ign.power = .waking ∧ s.wakingEntry.ign.hold = s.ign.hold ∧ s.wakingEntry.ign.level = s.ign.level ∧
      s.wakingEntry.ign.reports = Bank.fill 8 .none ∧ s.wakingEntry.clock = s.clock ∧ s.wakingEntry.pins = s.pins ∧
      s.wakingEntry.pending = s.pending ∧ s.wakingEntry.powered = s.powered ∧ s.wakingEntry.mgmt.restart = none ∧
      s.wakingEntry.mgmt.mask = s.mgmt.mask ∧ s.wakingEntry.intake.queue = [] ∧ s.wakingEntry.intake.build = none ∧
      s.wakingEntry.store.config = s.store.config ∧ s.wakingEntry.store.write = .idle ∧
      s.wakingEntry.store.calibration = s.settleWrite.store.calibration ∧ s.wakingEntry.portT.on = true ∧
      s.wakingEntry.portL.on = true ∧ s.wakingEntry.display.link ≠ .off := by
  obtain ⟨b', u, hb', R, ht⟩ := wakingEntry_form s
  obtain ⟨b, hb, p1, p2, p3, p4, p5, p6, p7, p8, p9, p10, p11, p12, p13, p14, p15, p16, p17, p18⟩ := wakePrelude s
  rw [← hb] at hb'
  subst hb'
  have hrep : u.ign.reports = Bank.fill 8 .none := by rw [R.ign, p4]
  have key : ∃ g v : State, Ripple (fun _ => True) v g ∧ s.wakingEntry = g.compareIgn ∧ v.clock = u.clock ∧
      v.pins = u.pins ∧ v.pending = u.pending ∧ v.powered = u.powered ∧ v.mgmt = u.mgmt ∧ v.intake = u.intake ∧
      v.store = u.store ∧ v.portT = u.portT ∧ v.portL = u.portL ∧ v.display = u.display ∧
      v.ign.power = u.ign.power ∧ v.ign.hold = u.ign.hold ∧ v.ign.level = u.ign.level ∧
      v.ign.reports = u.ign.reports := by
    rcases skipProveOut_unreported u hrep with h | h
    · exact ⟨_, u, ripple_settleLamps _ u, by rw [ht, h], rfl, rfl, rfl, rfl, rfl, rfl, rfl, rfl, rfl, rfl, rfl, rfl, rfl,
        rfl⟩
    · exact ⟨_, { u with telltale.proveOut := none, ign.proveOutRunning := false },
        (ripple_settleLamps _ _).trans (ripple_settleLamps _ _), by rw [ht, h], rfl, rfl, rfl, rfl, rfl, rfl, rfl, rfl,
        rfl, rfl, rfl, rfl, rfl, rfl⟩
  obtain ⟨g, v, G, hg, k1, k2, k3, k4, k5, k6, k7, k8, k9, k10, k11, k12, k13, k14⟩ := key
  have gD : g.display.link ≠ .off := by
    intro ho
    have h1 := G.link.1.mp ho
    rw [k10] at h1
    exact p18 (R.link.1.mp h1)
  rw [hg]
  refine ⟨?_, ?_, ?_, ?_, ?_, ?_, ?_, ?_, ?_, ?_, ?_, ?_, ?_, ?_, ?_, ?_, ?_, gD⟩
  · show g.ign.power = _; rw [G.ign, k11, R.ign, p1]
  · show g.ign.hold = _; rw [G.ign, k12, R.ign, p2]
  · show g.ign.level = _; rw [G.ign, k13, R.ign, p3]
  · show g.ign.reports = _; rw [G.ign, k14, hrep]
  · show g.clock = _; rw [G.clock, k1, R.clock, p5]
  · show g.pins = _; rw [G.pins, k2, R.pins, p6]
  · show g.pending = _; rw [G.pending, k3, R.pending, p7]
  · show g.powered = _; rw [G.powered, k4, R.powered, p8]
  · show g.mgmt.restart = _; rw [G.restart, k5, R.restart, p9]
  · show g.mgmt.mask = _; rw [G.mask, k5, R.mask, p10]
  · show g.intake.queue = _; rw [G.queue, k6, R.queue, p11]
  · show g.intake.build = _; rw [G.build, k6, R.build, p12]
  · show g.store.config = _; rw [G.store, k7, R.store, p13]
  · show g.store.write = _; rw [G.store, k7, R.store, p14]
  · show g.store.calibration = _; rw [G.store, k7, R.store, p15]
  · show g.portT.on = _; rw [G.onT, k8, R.onT, p16]
  · show g.portL.on = _; rw [G.portL, k9, R.portL, p17]

/-- The line sampled at power-on or a restart (R192): WAKING entry on a high line, SLEEP on a low one. -/
theorem sampleIgn_spec (x : State) (hp : x.ign.power = .sleep) (hl : x.ign.level = false) (hh : x.ign.hold = false)
    (hr : x.mgmt.restart = none) (hq : x.intake.queue = []) (hw : x.store.write = .idle) (ht : x.portT.on = false) :
    x.sampleIgn.powered = x.powered ∧ x.sampleIgn.clock = x.clock ∧ x.sampleIgn.pins = x.pins ∧
      x.sampleIgn.pending = x.pending ∧ x.sampleIgn.ign.level = x.pins.ign ∧ x.sampleIgn.ign.hold = false ∧
      x.sampleIgn.ign.power = (if x.pins.ign then .waking else .sleep) ∧ x.sampleIgn.intake.queue = [] ∧
      x.sampleIgn.mgmt.restart = none ∧ x.sampleIgn.mgmt.mask = x.mgmt.mask ∧
      x.sampleIgn.store.config = x.store.config ∧ x.sampleIgn.store.calibration = x.store.calibration ∧
      x.sampleIgn.store.write = .idle ∧ (x.sampleIgn.portT.on = true ↔ x.pins.ign = true) := by
  cases hi : x.pins.ign
  · have e : x.sampleIgn = x := by simp only [State.sampleIgn, hi, Bool.false_eq_true, if_false]
    rw [e]
    exact ⟨rfl, rfl, rfl, rfl, hl, hh, hp, hq, hr, rfl, rfl, rfl, hw, by simp [ht]⟩
  · have e : x.sampleIgn = State.wakingEntry { x with ign.level := true } := by
      simp only [State.sampleIgn, hi, if_true]
    rw [e]
    have s15 : ({ x with ign.level := true } : State).settleWrite.store.calibration = x.store.calibration := by
      simp [State.settleWrite, State.calWritten, hw]
    obtain ⟨a1, a2, a3, _, a5, a6, a7, a8, a9, a10, a11, _, a13, a14, a15, a16, _, _⟩ :=
      wakingEntry_spec { x with ign.level := true }
    generalize State.wakingEntry { x with ign.level := true } = t at *
    exact ⟨a8, a5, a6, a7, a3, a2.trans hh, a1, a11, a9, a10, a13, a15.trans s15, a14, by simp [a16]⟩

/-! ### SLEEP entry (R190) -/

theorem cutSave_frame (s : State) :
    s.cutSave.clock = s.clock ∧ s.cutSave.pins = s.pins ∧ s.cutSave.pending = s.pending ∧
      s.cutSave.powered = s.powered ∧ s.cutSave.ign.power = s.ign.power ∧ s.cutSave.ign.hold = s.ign.hold ∧
      s.cutSave.ign.level = s.ign.level ∧ s.cutSave.ign.parkingTimer = s.ign.parkingTimer ∧
      s.cutSave.ign.secondTimer = s.ign.secondTimer ∧ s.cutSave.table = s.table ∧ s.cutSave.dist = s.dist ∧
      s.cutSave.mgmt.held = s.mgmt.held ∧ s.cutSave.store.save = none ∧
      s.cutSave.store.config = (if s.store.save.isSome then .bad else s.store.config) ∧
      s.cutSave.store.calibration = s.store.calibration ∧ s.cutSave.store.write = s.store.write ∧
      s.cutSave.intake.routes = s.intake.routes ∧ s.cutSave.gauges = s.gauges := by
  unfold State.cutSave
  split
  · exact ⟨rfl, rfl, rfl, rfl, rfl, rfl, rfl, rfl, rfl, rfl, rfl, rfl, rfl, rfl, rfl, rfl, rfl, rfl⟩
  · next h =>
    have e : s.store.save = none := by cases hs : s.store.save <;> simp_all
    exact ⟨rfl, rfl, rfl, rfl, rfl, rfl, rfl, rfl, rfl, rfl, rfl, rfl, e, rfl, rfl, rfl, rfl, rfl⟩

/-- SLEEP entry (R190): the ports, the link, the chime and the blocks' timers stop, both queues, the build slot and the
Alert Stack are empty, a save in flight is cut short, and the slots stand as they were. -/
theorem sleepEntry_spec (s : State) :
    s.sleepEntry.ign.power = .sleep ∧ s.sleepEntry.ign.hold = false ∧ s.sleepEntry.ign.parkingTimer = none ∧
      s.sleepEntry.ign.secondTimer = none ∧ s.sleepEntry.clock = s.clock ∧ s.sleepEntry.pins = s.pins ∧
      s.sleepEntry.portT.on = false ∧ s.sleepEntry.portL.on = false ∧ s.sleepEntry.intake.queue = [] ∧
      s.sleepEntry.intake.transmit = [] ∧ s.sleepEntry.intake.build = none ∧
      s.sleepEntry.intake.routes = s.intake.routes ∧ s.sleepEntry.alert.stack = [] ∧
      s.sleepEntry.alert.playing = none ∧ s.sleepEntry.display.link = .off ∧ s.sleepEntry.tacho.readout = [] ∧
      s.sleepEntry.tacho.transfer = .idle ∧ s.sleepEntry.table.slots = s.table.slots ∧
      s.sleepEntry.table.frozenAt = some s.clock ∧ s.sleepEntry.store.save = none ∧
      s.sleepEntry.store.config = (if s.store.save.isSome then .bad else s.store.config) ∧
      s.sleepEntry.gauges = s.gauges.map Channel.sleep := by
  unfold State.sleepEntry
  simp only []
  obtain ⟨f1, f2, f3, f4, f5, f6, f7, f8, f9, f10, f11, f12, f13, f14, f15, f16, f17, f18⟩ :=
    cutSave_frame { s with ign.power := .sleep, ign.hold := false, ign.parkingTimer := none, ign.secondTimer := none }
  generalize hx :
    State.cutSave { s with ign.power := .sleep, ign.hold := false, ign.parkingTimer := none, ign.secondTimer := none } = x
    at *
  obtain ⟨l, e⟩ := settleLamps_only x.sleepBlocks
  rw [e]
  refine ⟨f5, f6, f8, f9, f1, f2, rfl, rfl, rfl, rfl, rfl, f17, rfl, rfl, rfl, rfl, rfl, ?_, ?_, f13, f14, ?_⟩
  · show x.table.slots = s.table.slots
    rw [f10]
  · show some x.clock = some s.clock
    rw [f1]
  · show Bank.map Channel.sleep x.gauges = Bank.map Channel.sleep s.gauges
    rw [f18]

/-! ### The entry to RUN, PARKING entry and the return to RUN (R188, R189, R191) -/

/-- The entry to RUN (R188): the second and minute timers start, and the rest is a ripple that writes slot 15 and slot 13. -/
theorem ripple_runEntry (ch : Nat → Prop) (s : State) (h15 : ch 15) (h13 : ch 13) :
    Ripple ch
      { s with ign.power := .run, ign.secondTimer := s.after (ms 1000), tacho.minuteTimer := s.after (ms 60000) }
      s.runEntry := by
  unfold State.runEntry
  exact ((ripple_writePlain ch _ 15 _ h15 h13).trans (ripple_chimeRequest? ch _ _)).trans (ripple_markDirty ch _ _)

theorem noteChannel_only (s : State) (before : Bank Channel 8) (c : Nat) :
    ∃ b : Bank ChannelReport 8, s.noteChannel before c = { s with ign.reports := b } := by
  unfold State.noteChannel
  simp only []
  split
  · split
    · exact ⟨s.ign.reports, rfl⟩
    · exact ⟨_, rfl⟩
  · exact ⟨s.ign.reports, rfl⟩

/-- Moving every channel changes the channels and their reports alone (R66). -/
theorem moveAll_only (s : State) (f : Channel → Channel) :
    ∃ b : Bank ChannelReport 8, s.moveAll f = { s with gauges := s.gauges.map f, ign.reports := b } := by
  have h : ∀ (l : List Nat) (t : State), ∃ b : Bank ChannelReport 8,
      l.foldl (fun t c => t.noteChannel s.gauges c) t = { t with ign.reports := b } := by
    intro l
    induction l with
    | nil => exact fun t => ⟨t.ign.reports, rfl⟩
    | cons c l ih =>
      intro t
      obtain ⟨b, hb⟩ := noteChannel_only t s.gauges c
      obtain ⟨d, hd⟩ := ih (t.noteChannel s.gauges c)
      refine ⟨d, hd.trans ?_⟩
      rw [hb]
  obtain ⟨b, hb⟩ := h (List.range 8) { s with gauges := s.gauges.map f }
  exact ⟨b, hb⟩

/-- A calibration write requested touches the write state, its timer and the controller's mark alone (R182). -/
theorem requestCal_frame (s : State) :
    ∃ (w : CalWrite) (t : Timer) (m : Bool),
      s.requestCal = { s with store.write := w, store.writeTimer := t, ign.writeMark := m } ∧ w ≠ .idle ∧
        m = (s.ign.writeMark || decide (s.store.write = .idle)) := by
  cases h : s.store.write with
  | idle =>
    exact ⟨.writing s.calImage, s.after (ms 5), true, by simp only [State.requestCal, h, State.startCalWrite],
      (fun e => nomatch e), by simp⟩
  | writing image =>
    refine ⟨.writingPending image, s.store.writeTimer, s.ign.writeMark, by simp only [State.requestCal, h],
      (fun e => nomatch e), by simp⟩
  | writingPending image =>
    refine ⟨.writingPending image, s.store.writeTimer, s.ign.writeMark, ?_, (fun e => nomatch e), by simp⟩
    simp only [State.requestCal, h]
    rw [← h]

theorem ripple_parkSummary (ch : Nat → Prop) (hch : ∀ n, onlyTacho n → ch n) (s : State) (d : Driver) :
    Ripple ch s (s.parkSummary d) := by
  unfold State.parkSummary
  split
  · exact ripple_writeSummary ch hch s d _
  · exact Ripple.refl ch s

theorem ripple_parkTacho (ch : Nat → Prop) (hch : ∀ n, onlyTacho n → ch n) (s : State) : Ripple ch s s.parkTacho := by
  have h1 : Ripple ch s { s with tacho.minuteTimer := none } := ripple_tacho ch s _
  have h2 : Ripple ch s ({ s with tacho.minuteTimer := none }).abandonAny := by
    refine h1.trans ?_
    unfold State.abandonAny
    split
    · exact ripple_abandon ch _ _
    · exact Ripple.refl ch _
  exact ((h2.trans (ripple_tacho ch _ _)).trans (ripple_parkSummary ch hch _ _)).trans (ripple_parkSummary ch hch _ _)

/-- The rules that evaluate at the return to RUN change their own records alone. -/
theorem resumeFold_rules : ∀ (l : List Nat) (acc : State × List AlertAction), ∃ rules,
    (l.foldl resumeRule acc).1 = { acc.1 with telltale.rules := rules }
  | [], acc => ⟨acc.1.telltale.rules, rfl⟩
  | i :: l, acc => by
    obtain ⟨b, hb⟩ := resumeFold_rules l (resumeRule acc i)
    rw [List.foldl_cons, hb]
    unfold resumeRule
    split
    · exact ⟨b, rfl⟩
    · exact ⟨b, rfl⟩

/-- The rules at the return to RUN: slot 13 is the one slot they can write. -/
theorem resumeRules_frame (s : State) :
    s.resumeRules.outside = s.outside ∧ (∀ n, n ≠ 13 → s.resumeRules.slot n = s.slot n) ∧
      s.display.keeps s.resumeRules.display := by
  obtain ⟨b, hb⟩ := resumeFold_rules (List.range 64) (s, [])
  unfold State.resumeRules
  simp only []
  rw [hb]
  have R := ripple_send (· = 13) { s with telltale.rules := b } ((List.range 64).foldl resumeRule (s, [])).2 rfl
  exact ⟨R.outside, fun n hn => R.slots n hn, R.link⟩

/-- PARKING entry (R189): HOLD is asserted, the 10 s parking timer runs, the second, minute and prove-out timers stop, every
live rule falls INACTIVE, the needles park, the stored odometer takes the live one with a calibration write asked for, the
readout queue empties, and the slots stand but for slots 8, 9 and 13. -/
theorem parkingEntry_spec (s : State) :
    ∃ p q : State, s.parkingEntry = q.compareIgn ∧
      Ripple onlyTacho p q ∧ p.clock = s.clock ∧ p.ign.power = .parking ∧ p.ign.hold = true ∧ p.ign.level = s.ign.level ∧
      p.ign.secondTimer = none ∧ p.ign.parkingTimer = some (s.clock + 10000000) ∧ p.ign.writeMark = true ∧
      p.ign.proveOutRunning = false ∧ p.pins = s.pins ∧ p.pending = s.pending ∧ p.powered = s.powered ∧
      p.portT = s.portT ∧ p.portL = s.portL ∧ p.intake = s.intake ∧ p.table = s.table ∧
      p.gauges = s.gauges.map (fun c => c.park s.clock) ∧ p.telltale.rules = s.telltale.rules.map Rule.park ∧
      p.telltale.proveOut = none ∧ p.alert.playing = none ∧ p.alert.tone = false ∧ p.alert.stack = s.alert.stack ∧
      p.dist = { s.dist with storedOdo := s.dist.liveOdo } ∧ p.display = s.display ∧ p.mgmt = s.mgmt ∧
      p.store.write ≠ .idle ∧ p.store.config = s.store.config ∧ p.store.save = s.store.save ∧
      p.tacho = s.tacho := by
  unfold State.parkingEntry
  simp only []
  obtain ⟨b, hb⟩ := moveAll_only
    { s with
      ign.power := .parking, ign.hold := true, ign.secondTimer := none, ign.parkingTimer := s.after (ms 10000),
      ign.writeMark := true, ign.proveOutRunning := false,
      telltale.rules := s.telltale.rules.map Rule.park, telltale.proveOut := none } (fun c => c.park s.clock)
  rw [hb]
  obtain ⟨l, hl⟩ := settleLamps_only
    { s with
      ign.power := .parking, ign.hold := true, ign.secondTimer := none, ign.parkingTimer := s.after (ms 10000),
      ign.writeMark := true, ign.proveOutRunning := false, ign.reports := b,
      telltale.rules := s.telltale.rules.map Rule.park, telltale.proveOut := none,
      gauges := s.gauges.map (fun c => c.park s.clock) }
  rw [hl]
  unfold State.storeOdometer
  generalize hx : State.chimeIdle _ = x
  obtain ⟨w, t, m, hr, hw, hm⟩ := requestCal_frame { x with dist.storedOdo := x.dist.liveOdo }
  rw [hr]
  refine ⟨_, _, rfl, (ripple_parkTacho onlyTacho (fun _ h => h) _).trans (ripple_markDirty onlyTacho _ _), ?_⟩
  subst hx
  refine ⟨rfl, rfl, rfl, rfl, rfl, rfl, ?_, rfl, rfl, rfl, rfl, rfl, rfl, rfl, rfl, rfl, rfl, rfl, rfl, rfl, rfl, rfl, rfl, rfl, hw,
    rfl, rfl, rfl⟩
  rw [hm]
  rfl

/-- The fields of the state after PARKING entry. -/
theorem parkingEntry_fields (y : State) :
    let t := y.parkingEntry
    t.clock = y.clock ∧ t.pins = y.pins ∧ t.ign.level = y.ign.level ∧ t.ign.power = .parking ∧ t.ign.hold = true ∧ t.ign.parkingTimer = some (t.clock + 10000000) ∧
          t.ign.secondTimer = none ∧ t.ign.writeMark = true ∧ t.store.write ≠ .idle ∧
          t.dist = { y.dist with storedOdo := y.dist.liveOdo } ∧ t.telltale.proveOut = none ∧
          t.intake.queue = y.intake.queue ∧ t.intake.routes = y.intake.routes ∧ t.portL = y.portL ∧
          (∀ n, ¬ onlyTacho n → t.slot n = y.slot n) := by
  obtain ⟨p, q, he, R, h⟩ := parkingEntry_spec y
  simp only [he]
  obtain ⟨h1,h2,h3,h4,h5,h6,h7,h8,h9,h10,h11,h12,h13,h14,h15,h16,h17,h18,h19,h20,h21,h22,h23,h24,h25,h26,h27⟩ := h
  refine ⟨R.clock.trans h1, R.pins.trans h9, ?_, ?_, ?_, ?_, ?_, ?_, ?_, R.dist.trans h22, ?_, ?_, ?_, R.portL.trans h13, ?_⟩
  · show q.ign.level = _; rw [R.ign, h4]
  · show q.ign.power = _; rw [R.ign, h2]
  · show q.ign.hold = _; rw [R.ign, h3]
  · show q.ign.parkingTimer = some (q.clock + _); rw [R.ign, h6, R.clock, h1]
  · show q.ign.secondTimer = _; rw [R.ign, h5]
  · show q.ign.writeMark = _; rw [R.ign, h7]
  · show q.store.write ≠ _; rw [R.store]; exact h25
  · have e := congrArg Telltale.proveOut R.telltale; exact e.trans h18
  · show q.intake.queue = _; rw [R.queue, h14]
  · show q.intake.routes = _; rw [R.routes, h14]
  · intro n hn; show q.slot n = _; rw [R.slots n hn]; unfold State.slot; rw [h15]

/-- The return to RUN (R191): HOLD is released, the parking timer stops, and the second and minute timers start afresh. -/
theorem returnToRun_spec (s : State) :
    s.returnToRun.ign.power = .run ∧ s.returnToRun.ign.hold = false ∧ s.returnToRun.ign.parkingTimer = none ∧
      s.returnToRun.ign.level = s.ign.level ∧ s.returnToRun.ign.secondTimer = some (s.clock + 1000000) ∧
      s.returnToRun.clock = s.clock ∧ s.returnToRun.pins = s.pins ∧ s.returnToRun.pending = s.pending ∧
      s.returnToRun.ign.runSeconds = s.ign.runSeconds ∧ s.returnToRun.portT.on = s.portT.on ∧
      s.returnToRun.portL = s.portL ∧ s.returnToRun.intake.queue = s.intake.queue ∧
      s.returnToRun.intake.routes = s.intake.routes ∧ s.returnToRun.intake.build = s.intake.build ∧
      s.returnToRun.dist = s.dist ∧ s.returnToRun.store = s.store ∧ s.returnToRun.mgmt.held = s.mgmt.held ∧
      (∀ n, ¬ onlyTacho n → s.returnToRun.slot n = s.slot n) ∧
      s.display.keeps s.returnToRun.display := by
  unfold State.returnToRun
  simp only []
  obtain ⟨b, hb⟩ := moveAll_only
    { s with
      ign.power := .run, ign.hold := false, ign.parkingTimer := none, ign.secondTimer := s.after (ms 1000),
      tacho.minuteTimer := s.after (ms 60000) } (fun c => c.unpark s.table.slots s.clock)
  rw [hb]
  generalize hx :
    ({ s with
      ign.power := .run, ign.hold := false, ign.parkingTimer := none, ign.secondTimer := s.after (ms 1000),
      ign.reports := b, tacho.minuteTimer := s.after (ms 60000),
      gauges := s.gauges.map (fun c => c.unpark s.table.slots s.clock) } : State) = x
  obtain ⟨r1, r2, r3⟩ := resumeRules_frame x
  generalize hy : x.resumeRules = y at *
  have T := ((ripple_settleLamps onlyTacho y).trans (ripple_tryStart onlyTacho (fun _ h => h) _)).trans
    (ripple_markDirty onlyTacho _ [.pageSelect])
  generalize hz : (y.settleLamps.tryStart.markDirty [.pageSelect]) = z at *
  have o : z.outside = x.outside := T.outside.trans r1
  have oi : z.ign = x.ign := by have e := congrArg State.ign o; exact e
  have oc : z.clock = x.clock := by have e := congrArg State.clock o; exact e
  refine ⟨?_, ?_, ?_, ?_, ?_, ?_, ?_, ?_, ?_, ?_, ?_, ?_, ?_, ?_, ?_, ?_, ?_, ?_, ?_⟩
  · show z.ign.power = _; rw [oi, ← hx]
  · show z.ign.hold = _; rw [oi, ← hx]
  · show z.ign.parkingTimer = _; rw [oi, ← hx]
  · show z.ign.level = _; rw [oi, ← hx]
  · show z.ign.secondTimer = _; rw [oi, ← hx]; rfl
  · show z.clock = _; rw [oc, ← hx]
  · have e := congrArg State.pins o; rw [← hx] at e; exact e
  · have e := congrArg State.pending o; rw [← hx] at e; exact e
  · show z.ign.runSeconds = _; rw [oi, ← hx]
  · have e := congrArg (fun u => u.portT.on) o; rw [← hx] at e; exact e
  · have e := congrArg State.portL o; rw [← hx] at e; exact e
  · have e := congrArg (fun u => u.intake.queue) o; rw [← hx] at e; exact e
  · have e := congrArg (fun u => u.intake.routes) o; rw [← hx] at e; exact e
  · have e := congrArg (fun u => u.intake.build) o; rw [← hx] at e; exact e
  · have e := congrArg State.dist o; rw [← hx] at e; exact e
  · have e := congrArg State.store o; rw [← hx] at e; exact e
  · have e := congrArg (fun u => u.mgmt.held) o; rw [← hx] at e; exact e
  · intro n hn
    have e := (T.slots n hn).trans (r2 n (fun h => hn (.inl h)))
    rw [← hx] at e
    exact e
  · have e : x.display.keeps z.display := by
      refine ⟨T.link.1.trans r3.1, fun ho => ?_⟩
      have c1 := r3.2 ho
      have c2 := T.link.2 (r3.1.mpr ho)
      exact ⟨c2.1.trans c1.1, c2.2.1.trans c1.2.1, c2.2.2.trans c1.2.2⟩
    rw [← hx] at e
    exact e

end Sys2Proof.Machine
end

