-- ==== Sys2Proof/Laws/Travel.lean ====
section
/-! SUPPORT. What a pulse, an edge of SPB and the calibration writes can do, step by step (R107 to R116). -/

namespace Sys2Proof.Machine

/-! ### A ripple under another distance block -/

/-- The state with the distance block, the store block, the write mark and the marks of slot 12 of another. -/
def State.travelAs (s u : State) : State :=
  { s with
    dist := u.dist, store := u.store, ign.writeMark := u.ign.writeMark, table.silentMark := u.table.silentMark,
    table.phaseBMark := u.table.phaseBMark }

/-- A ripple stays one when both its ends take those of another state. -/
theorem Ripple.travel {ch : Nat → Prop} {s t : State} (h : Ripple ch s t) (u : State) :
    Ripple ch (s.travelAs u) (t.travelAs u) where
  outside := by
    have e := congrArg (fun x : State => ({ x with dist := u.dist, store := u.store, ign.writeMark := u.ign.writeMark } : State))
      h.outside
    exact e
  slots := h.slots
  marks := ⟨rfl, rfl, h.marks.2.2⟩
  channels := h.channels
  deaf := h.deaf
  still := h.still
  followed := h.followed
  aside := h.aside
  rules := h.rules
  spared := h.spared
  dimmed := h.dimmed
  reacted := h.reacted
  telltale := h.telltale
  alert := h.alert
  stack := h.stack
  asleep := h.asleep
  told := { h.told with }
  flags := h.flags
  sent := h.sent
  room := h.room

/-- `t` is `s` after a change of those blocks and marks, and a ripple. -/
def Travel (ch : Nat → Prop) (s t : State) : Prop := Ripple ch (s.travelAs t) t

theorem travelAs_self (s : State) : s.travelAs s = s := rfl

/-- A change of those blocks and marks alone. -/
theorem Travel.set (ch : Nat → Prop) (s t : State) (h : t = s.travelAs t) : Travel ch s t := by
  unfold Travel; rw [← h]; exact Ripple.refl ch t

theorem Travel.refl (ch : Nat → Prop) (s : State) : Travel ch s s := Ripple.refl ch s

/-- A ripple travels nowhere. -/
theorem Ripple.toTravel {ch : Nat → Prop} {s t : State} (h : Ripple ch s t) : Travel ch s t := by
  have e : s.travelAs t = s := by
    unfold State.travelAs
    rw [h.dist, h.store, h.ign, h.marks.1, h.marks.2.1]
  unfold Travel; rw [e]; exact h

theorem Travel.trans {ch : Nat → Prop} {s t u : State} (h : Travel ch s t) (k : Travel ch t u) : Travel ch s u :=
  Ripple.trans (h.travel u) k

theorem Travel.mono {ch dh : Nat → Prop} {s t : State} (h : Travel ch s t) (hc : ∀ n, ch n → dh n) : Travel dh s t :=
  Ripple.mono h hc

theorem Travel.clock {ch : Nat → Prop} {s t : State} (h : Travel ch s t) : t.clock = s.clock := by
  have R : Ripple ch (s.travelAs t) t := h
  exact R.clock
theorem Travel.param {ch : Nat → Prop} {s t : State} (h : Travel ch s t) (id : Nat) : t.param id = s.param id := by
  have R : Ripple ch (s.travelAs t) t := h
  exact R.param id
theorem Travel.slot {ch : Nat → Prop} {s t : State} (h : Travel ch s t) (n : Nat) (hn : ¬ ch n) : t.slot n = s.slot n := by
  have R : Ripple ch (s.travelAs t) t := h
  exact R.slots n hn
theorem Travel.power {ch : Nat → Prop} {s t : State} (h : Travel ch s t) : t.ign.power = s.ign.power := by
  have R : Ripple ch (s.travelAs t) t := h
  rw [R.ign]; rfl

/-- An internal slot written where it held another value shows its value. -/
theorem writeOther_value (s : State) (n : Nat) (v : Int) (hn : n < 96) (h13 : n ≠ 13) : ((s.writeOther n v).slot n).value = v := by
  unfold State.writeOther
  split
  · assumption
  · exact (writePlain_shows s n v hn h13).2

/-! ### The marks of slot 12 (R35) -/

/-- The marks set: they stand as given, slot 12 follows, and nothing else but the ripple of its write. -/
theorem setMarks_spec (s : State) (a b : Bool) :
    (s.setMarks a b).table.silentMark = a ∧ (s.setMarks a b).table.phaseBMark = b ∧ (s.setMarks a b).dist = s.dist ∧
      (s.setMarks a b).store = s.store ∧ (s.setMarks a b).ign = s.ign ∧
      Travel (fun n => n = 12 ∨ n = 13) s (s.setMarks a b) := by
  unfold State.setMarks
  split
  · rename_i h; exact ⟨h.1, h.2, rfl, rfl, rfl, Travel.refl _ s⟩
  · simp only []
    have base : Travel (fun n => n = 12 ∨ n = 13) s { s with table.silentMark := a, table.phaseBMark := b } :=
      Travel.set _ _ _ rfl
    split
    · have R := ripple_writePlain (fun n => n = 12 ∨ n = 13) { s with table.silentMark := a, table.phaseBMark := b } 12
        (.fresh (sensorFaultValue a b)) (.inl rfl) (.inr rfl)
      exact ⟨R.marks.1, R.marks.2.1, R.dist, R.store, R.ign, base.trans R.toTravel⟩
    · exact ⟨rfl, rfl, rfl, rfl, rfl, base⟩

/-- A change of the marks leaves slot 12 at their value. -/
theorem setMarks_shows (s : State) (a b : Bool) (h : s.table.silentMark ≠ a ∨ s.table.phaseBMark ≠ b) :
    ((s.setMarks a b).slot 12).value = sensorFaultValue a b := by
  unfold State.setMarks
  rw [if_neg (by rintro ⟨h1, h2⟩; rcases h with h | h; exact h h1; exact h h2)]
  simp only []
  split
  · exact (writePlain_shows _ 12 _ (by decide) (by decide)).2
  · rename_i hn
    by_cases e : (State.slot { s with table.silentMark := a, table.phaseBMark := b } 12).value = sensorFaultValue a b
    · exact e
    · exact absurd (.inr e) hn

/-! ### The steps of a pulse (R116) -/

/-- Step 1: the silent mark cleared. -/
theorem clearSilent_spec (s : State) :
    s.clearSilent.table.silentMark = false ∧ s.clearSilent.table.phaseBMark = s.table.phaseBMark ∧
      s.clearSilent.dist = s.dist ∧ s.clearSilent.store = s.store ∧ s.clearSilent.ign = s.ign ∧
      Travel (fun n => n = 12 ∨ n = 13) s s.clearSilent := by
  unfold State.clearSilent
  split
  · have h := setMarks_spec s false s.table.phaseBMark
    simp only []
    split
    · exact h
    · have R := ripple_release (fun n => n = 12 ∨ n = 13) (s.setMarks false s.table.phaseBMark) 0xF102 .sensor (.inr rfl)
      exact ⟨R.marks.1.trans h.1, R.marks.2.1.trans h.2.1, R.dist.trans h.2.2.1, R.store.trans h.2.2.2.1,
        R.ign.trans h.2.2.2.2.1, h.2.2.2.2.2.trans R.toTravel⟩
  · rename_i h
    exact ⟨by simpa using h, rfl, rfl, rfl, rfl, Travel.refl _ s⟩

/-- Step 2: the direction. -/
theorem takeDirection_spec (s : State) :
    s.takeDirection.table.silentMark = s.table.silentMark ∧ s.takeDirection.table.phaseBMark = s.table.phaseBMark ∧
      s.takeDirection.dist = { s.dist with reverse := s.pulseReverse } ∧ s.takeDirection.store = s.store ∧
      s.takeDirection.ign = s.ign ∧ Travel (fun n => n = 1 ∨ n = 13) s s.takeDirection := by
  unfold State.takeDirection
  split
  · rename_i h; exact ⟨rfl, rfl, by rw [h], rfl, rfl, Travel.refl _ s⟩
  · have base : Travel (fun n => n = 1 ∨ n = 13) s { s with dist.reverse := s.pulseReverse } := Travel.set _ _ _ rfl
    have R := ripple_writePlain (fun n => n = 1 ∨ n = 13) { s with dist.reverse := s.pulseReverse } 1
      (.fresh (bit s.pulseReverse)) (.inl rfl) (.inr rfl)
    exact ⟨R.marks.1, R.marks.2.1, R.dist, R.store, R.ign, base.trans R.toTravel⟩

/-- The phase-B fault found (R108). -/
theorem phaseBFault_spec (s : State) :
    s.phaseBFault.table.silentMark = s.table.silentMark ∧ s.phaseBFault.table.phaseBMark = true ∧
      s.phaseBFault.dist = s.dist ∧ s.phaseBFault.store = s.store ∧ s.phaseBFault.ign = s.ign ∧
      Flagged s.phaseBFault .sensorFault ∧ Travel (fun n => n = 12 ∨ n = 13) s s.phaseBFault := by
  unfold State.phaseBFault
  have h := setMarks_spec s s.table.silentMark true
  have F := raise_flagged (s.setMarks s.table.silentMark true) .sensorFault
  have R1 := ripple_raise (fun n => n = 12 ∨ n = 13) (s.setMarks s.table.silentMark true) .sensorFault
  have R2 := ripple_push (fun n => n = 12 ∨ n = 13) ((s.setMarks s.table.silentMark true).raise .sensorFault) 0xF102 .caution
    .sensor (.inr rfl)
  have R := R1.trans R2
  exact ⟨R.marks.1.trans h.1, R.marks.2.1.trans h.2.1, R.dist.trans h.2.2.1, R.store.trans h.2.2.2.1,
    R.ign.trans h.2.2.2.2.1, R2.flags _ F, h.2.2.2.2.2.trans R.toTravel⟩

/-- Step 3: the phase-B count. -/
theorem countPhaseB_spec (s : State) :
    s.countPhaseB.table.silentMark = s.table.silentMark ∧
      s.countPhaseB.table.phaseBMark = (s.table.phaseBMark || decide (s.param 7 = 0 ∧ s.dist.phaseB = 63)) ∧
      s.countPhaseB.dist =
        { s.dist with phaseB := if s.param 7 = 0 ∧ s.dist.phaseB < 64 then s.dist.phaseB + 1 else s.dist.phaseB } ∧
      s.countPhaseB.store = s.store ∧ s.countPhaseB.ign = s.ign ∧
      Travel (fun n => n = 12 ∨ n = 13) s s.countPhaseB := by
  unfold State.countPhaseB State.quadrature
  by_cases h : s.param 7 = 0 ∧ s.dist.phaseB < 64
  · rw [if_pos (by simpa using h), if_pos h]
    simp only []
    have base : Travel (fun n => n = 12 ∨ n = 13) s { s with dist.phaseB := s.dist.phaseB + 1 } := Travel.set _ _ _ rfl
    by_cases h63 : s.dist.phaseB + 1 = 64
    · rw [if_pos h63]
      have f := phaseBFault_spec { s with dist.phaseB := s.dist.phaseB + 1 }
      refine ⟨f.1, f.2.1.trans ?_, f.2.2.1, f.2.2.2.1, f.2.2.2.2.1, base.trans f.2.2.2.2.2.2⟩
      have e : s.dist.phaseB = 63 := by omega
      simp [h.1, e]
    · rw [if_neg h63]
      refine ⟨rfl, ?_, rfl, rfl, rfl, base⟩
      have e : ¬ s.dist.phaseB = 63 := by omega
      simp [e]
  · rw [if_neg (by simpa using h), if_neg h]
    refine ⟨rfl, ?_, rfl, rfl, rfl, Travel.refl _ s⟩
    have e : ¬ (s.param 7 = 0 ∧ s.dist.phaseB = 63) := by rintro ⟨a, b⟩; exact h ⟨a, by omega⟩
    simp [e]

/-- Slot 0 written by the distance block (R32). -/
theorem writeSpeed_slot (s : State) (w : SlotWrite) :
    (s.writeSpeed w).slot 0 = (s.slot 0).written w none s.clock ∧
      Ripple (fun n => n = 0 ∨ onlyTacho n) s (s.writeSpeed w) := by
  refine ⟨?_, ripple_changeSlot _ (fun n h => .inr h) _ _ _ _ (.inl rfl)⟩
  unfold State.writeSpeed State.changeSlot
  have R := ripple_announce onlyTacho (fun _ h => h) (s.putSlot 0 ((s.slot 0).written w none s.clock))
    (eventOf 0 .write (s.slot 0) ((s.slot 0).written w none s.clock))
  exact (R.slots _ (by unfold onlyTacho; omega)).trans (State.slot_putSlot_same s 0 _ (by decide))

/-- Step 4: the ring and the speed. -/
theorem takeInterval_spec (s : State) (cleared : Bool) :
    (s.takeInterval cleared).table.silentMark = s.table.silentMark ∧
      (s.takeInterval cleared).table.phaseBMark = s.table.phaseBMark ∧
      (s.takeInterval cleared).dist = { s.dist with ring := s.dist.ringAfter s.clock, lastPulse := some s.clock } ∧
      (s.takeInterval cleared).store = s.store ∧ (s.takeInterval cleared).ign = s.ign ∧
      (s.takeInterval cleared).slot 0 =
        (match s.dist.ringAfter s.clock with
         | [] => if cleared then (s.slot 0).written (.fresh 0) none s.clock else s.slot 0
         | k :: l => (s.slot 0).written (.fresh (ringSpeed (k :: l) s.dist.kFactor)) none s.clock) ∧
      Travel (fun n => n = 0 ∨ onlyTacho n) s (s.takeInterval cleared) := by
  have base : Travel (fun n => n = 0 ∨ onlyTacho n) s
      { s with dist.ring := s.dist.ringAfter s.clock, dist.lastPulse := some s.clock } := Travel.set _ _ _ rfl
  have e : s.takeInterval cleared =
      (match s.dist.ringAfter s.clock with
       | [] => if cleared then
           State.writeSpeed { s with dist.ring := s.dist.ringAfter s.clock, dist.lastPulse := some s.clock } (.fresh 0)
         else { s with dist.ring := s.dist.ringAfter s.clock, dist.lastPulse := some s.clock }
       | k :: l =>
         State.writeSpeed { s with dist.ring := s.dist.ringAfter s.clock, dist.lastPulse := some s.clock }
           (.fresh (ringSpeed (k :: l) s.dist.kFactor))) := by
    unfold State.takeInterval
    cases h : s.dist.ringAfter s.clock <;> simp only []
  rw [e]
  clear e
  generalize hX : ({ s with dist.ring := s.dist.ringAfter s.clock, dist.lastPulse := some s.clock } : State) = X at *
  have x1 : X.table = s.table := by rw [← hX]
  have x2 : X.dist = { s.dist with ring := s.dist.ringAfter s.clock, lastPulse := some s.clock } := by rw [← hX]
  have x3 : X.store = s.store := by rw [← hX]
  have x4 : X.ign = s.ign := by rw [← hX]
  have x5 : X.slot 0 = s.slot 0 := by rw [← hX]; rfl
  have x6 : X.clock = s.clock := by rw [← hX]
  clear hX
  have written : ∀ w : SlotWrite,
      (X.writeSpeed w).table.silentMark = s.table.silentMark ∧ (X.writeSpeed w).table.phaseBMark = s.table.phaseBMark ∧
        (X.writeSpeed w).dist = { s.dist with ring := s.dist.ringAfter s.clock, lastPulse := some s.clock } ∧
        (X.writeSpeed w).store = s.store ∧ (X.writeSpeed w).ign = s.ign ∧
        (X.writeSpeed w).slot 0 = (s.slot 0).written w none s.clock ∧
        Travel (fun n => n = 0 ∨ onlyTacho n) s (X.writeSpeed w) := by
    intro w
    obtain ⟨v, R⟩ := writeSpeed_slot X w
    rw [x5, x6] at v
    exact ⟨by rw [R.marks.1, x1], by rw [R.marks.2.1, x1], R.dist.trans x2, R.store.trans x3, R.ign.trans x4, v,
      base.trans R.toTravel⟩
  generalize s.dist.ringAfter s.clock = ring at *
  cases ring with
  | nil =>
    cases cleared with
    | false => exact ⟨by rw [← x1]; rfl, by rw [← x1]; rfl, x2, x3, x4, x5, base⟩
    | true =>
      simp only [if_true]
      exact written (.fresh 0)
  | cons k l =>
    simp only []
    exact written (.fresh (ringSpeed (k :: l) s.dist.kFactor))

/-- A calibration write requested changes the store block and the write mark alone. -/
theorem requestCal_travel (ch : Nat → Prop) (s : State) :
    s.requestCal.dist = s.dist ∧ s.requestCal.table = s.table ∧ Travel ch s s.requestCal := by
  unfold State.requestCal State.startCalWrite
  cases s.store.write with
  | idle => exact ⟨rfl, rfl, Travel.set _ _ _ rfl⟩
  | writing image => exact ⟨rfl, rfl, Travel.set _ _ _ rfl⟩
  | writingPending image => exact ⟨rfl, rfl, Travel.refl _ s⟩

/-- The odometer's metre: the count, slot 2, and the stored odometer each kilometre (R114, R115). -/
theorem addMetre_spec (s : State) :
    s.addMetre.table.silentMark = s.table.silentMark ∧ s.addMetre.table.phaseBMark = s.table.phaseBMark ∧
      s.addMetre.dist =
        { s.dist with
          liveOdo := if s.dist.liveOdo < 4294967295 then s.dist.liveOdo + 1 else s.dist.liveOdo,
          storedOdo :=
            if s.dist.liveOdo < 4294967295 ∧ s.dist.storedOdo + 1000 ≤ s.dist.liveOdo + 1 then s.dist.liveOdo + 1
            else s.dist.storedOdo } ∧
      (¬ (s.dist.liveOdo < 4294967295 ∧ s.dist.storedOdo + 1000 ≤ s.dist.liveOdo + 1) → s.addMetre.store = s.store) ∧
      Travel (fun n => n = 2 ∨ n = 13) s s.addMetre := by
  unfold State.addMetre
  by_cases h : s.dist.liveOdo < 4294967295
  · rw [if_pos h]
    simp only []
    have base : Travel (fun n => n = 2 ∨ n = 13) s { s with dist.liveOdo := s.dist.liveOdo + 1 } := Travel.set _ _ _ rfl
    have R : Ripple (fun n => n = 2 ∨ n = 13) { s with dist.liveOdo := s.dist.liveOdo + 1 }
        (State.showOdometer { s with dist.liveOdo := s.dist.liveOdo + 1 }) := by
      unfold State.showOdometer
      exact ripple_writeOther _ _ _ _ (.inl rfl) (.inr rfl)
    have T := base.trans R.toTravel
    have hd := R.dist
    have hs := R.store
    have hm := R.marks
    generalize State.showOdometer { s with dist.liveOdo := s.dist.liveOdo + 1 } = t at *
    rw [hd]
    by_cases h1 : s.dist.storedOdo + 1000 ≤ s.dist.liveOdo + 1
    · rw [if_pos h1]
      unfold State.storeOdometer
      obtain ⟨c1, c2, c3⟩ := requestCal_travel (fun n => n = 2 ∨ n = 13) { t with dist.storedOdo := t.dist.liveOdo }
      have T2 : Travel (fun n => n = 2 ∨ n = 13) t { t with dist.storedOdo := t.dist.liveOdo } := Travel.set _ _ _ rfl
      refine ⟨by rw [c2]; exact hm.1, by rw [c2]; exact hm.2.1, ?_, fun hn => absurd ⟨h, h1⟩ hn, T.trans (T2.trans c3)⟩
      rw [c1, hd]; simp [h, h1]
    · rw [if_neg h1]
      refine ⟨hm.1, hm.2.1, ?_, fun _ => hs, T⟩
      rw [hd]; simp [h, h1]
  · rw [if_neg h]
    refine ⟨rfl, rfl, ?_, fun _ => rfl, Travel.refl _ s⟩
    simp [h]

/-- Step 5: the accumulator, and a metre each time it reaches the k-factor (R113). -/
theorem accumulate_spec (s : State) :
    s.accumulate.table.silentMark = s.table.silentMark ∧ s.accumulate.table.phaseBMark = s.table.phaseBMark ∧
      (s.dist.accumulator + 1000 < s.dist.kFactor →
        s.accumulate = { s with dist.accumulator := s.dist.accumulator + 1000 }) ∧
      (¬ s.dist.accumulator + 1000 < s.dist.kFactor →
        s.accumulate =
          ({ s with dist.accumulator := s.dist.accumulator + 1000 - s.dist.kFactor } : State).addMetre) ∧
      Travel (fun n => n = 2 ∨ n = 13) s s.accumulate := by
  unfold State.accumulate
  split
  · rename_i h
    exact ⟨rfl, rfl, fun _ => rfl, fun hn => absurd h hn, Travel.set _ _ _ rfl⟩
  · rename_i h
    have m := addMetre_spec { s with dist.accumulator := s.dist.accumulator + 1000 - s.dist.kFactor }
    have base : Travel (fun n => n = 2 ∨ n = 13) s
      { s with dist.accumulator := s.dist.accumulator + 1000 - s.dist.kFactor } := Travel.set _ _ _ rfl
    exact ⟨m.1, m.2.1, fun hp => absurd hp h, fun _ => rfl, base.trans m.2.2.2.2⟩

/-- Step 6: the zero timer. -/
theorem restartZero_spec (ch : Nat → Prop) (s : State) : Travel ch s s.restartZero := Travel.set _ _ _ rfl

/-- The notice of a pulse to the tachograph block (R148). -/
theorem pulseNotice_spec (s : State) :
    s.pulseNotice = { s with tacho.watch := if s.watchHolds then some (s.clock + 3000000) else none } := by
  unfold State.pulseNotice
  split <;> rfl

/-- Everything a pulse can do. -/
theorem pulse_travel (s : State) : Travel (fun n => n = 0 ∨ n = 1 ∨ n = 2 ∨ n = 12 ∨ onlyTacho n) s s.pulse := by
  unfold State.pulse
  have t1 := (clearSilent_spec s).2.2.2.2.2
  have t2 := (takeDirection_spec s.clearSilent).2.2.2.2.2
  have t3 := (countPhaseB_spec s.clearSilent.takeDirection).2.2.2.2.2
  have t4 := (takeInterval_spec s.clearSilent.takeDirection.countPhaseB s.table.silentMark).2.2.2.2.2.2
  generalize s.clearSilent.takeDirection.countPhaseB.takeInterval s.table.silentMark = u at *
  have t5 := (accumulate_spec u).2.2.2.2
  have t6 := restartZero_spec (fun n => n = 0 ∨ n = 1 ∨ n = 2 ∨ n = 12 ∨ onlyTacho n) u.accumulate
  have t7 := (ripple_pulseNotice (fun n => n = 0 ∨ n = 1 ∨ n = 2 ∨ n = 12 ∨ onlyTacho n) u.accumulate.restartZero).toTravel
  refine (t1.mono ?_).trans ((t2.mono ?_).trans ((t3.mono ?_).trans ((t4.mono ?_).trans ((t5.mono ?_).trans (t6.trans t7)))))
  all_goals
    intro n h
    unfold onlyTacho at *
    omega

/-- A pulse: every field it leaves (R116). -/
theorem pulse_spec (s t : State) (ht : t = s.pulse) :
      t.table.silentMark = false ∧
      t.dist.spaTimer = s.dist.spaTimer ∧ t.dist.spaLevel = s.dist.spaLevel ∧ t.dist.spbLevel = s.dist.spbLevel ∧
      t.dist.spbTimer = s.dist.spbTimer ∧ t.dist.filterReject = s.dist.filterReject ∧ t.dist.history = s.dist.history ∧
      t.dist.kFactor = s.dist.kFactor ∧ t.dist.sealed = s.dist.sealed ∧
      t.dist.reverse = (decide (s.param 7 = 0) && !s.table.phaseBMark && s.dist.spbLevel) ∧
      t.dist.phaseB = (if s.param 7 = 0 ∧ s.dist.phaseB < 64 then s.dist.phaseB + 1 else s.dist.phaseB) ∧
      t.table.phaseBMark = (s.table.phaseBMark || decide (s.param 7 = 0 ∧ s.dist.phaseB = 63)) ∧
      t.dist.lastPulse = some s.clock ∧
      t.dist.ring = s.dist.ringAfter s.clock ∧
      t.slot 0 = (match s.dist.ringAfter s.clock with
         | [] => if s.table.silentMark then (s.slot 0).written (.fresh 0) none s.clock else s.slot 0
         | k :: l => (s.slot 0).written (.fresh (ringSpeed (k :: l) s.dist.kFactor)) none s.clock) ∧
      t.dist.accumulator =
        (if s.dist.accumulator + 1000 < s.dist.kFactor then s.dist.accumulator + 1000
         else s.dist.accumulator + 1000 - s.dist.kFactor) ∧
      t.dist.liveOdo =
        (if s.dist.accumulator + 1000 < s.dist.kFactor then s.dist.liveOdo
         else if s.dist.liveOdo < 4294967295 then s.dist.liveOdo + 1 else s.dist.liveOdo) ∧
      t.dist.storedOdo =
        (if s.dist.liveOdo < t.dist.liveOdo ∧ s.dist.storedOdo + 1000 ≤ t.dist.liveOdo then t.dist.liveOdo
         else s.dist.storedOdo) ∧
      (t.dist.storedOdo = s.dist.storedOdo → t.store = s.store) ∧
      t.dist.zeroTimer = some (s.clock + 1000 * s.paramNat 9) ∧
      t.tacho.watch = (if t.watchHolds = true then some (s.clock + 3000000) else none) := by
  unfold State.pulse at ht
  rw [ht]; clear ht
  have t1 := clearSilent_spec s

  have x1 : s.clearSilent.slot 0 = s.slot 0 := t1.2.2.2.2.2.slot 0 (by omega)
  have c1 := t1.2.2.2.2.2.clock
  have p1 := t1.2.2.2.2.2.param
  generalize s.clearSilent = A at *
  have t2 := takeDirection_spec A
  have x2 : A.takeDirection.slot 0 = A.slot 0 := t2.2.2.2.2.2.slot 0 (by omega)
  have c2 := t2.2.2.2.2.2.clock
  have p2 := t2.2.2.2.2.2.param
  have pr : A.pulseReverse = (decide (s.param 7 = 0) && !s.table.phaseBMark && s.dist.spbLevel) := by
    unfold State.pulseReverse State.quadrature; rw [p1, t1.2.1, t1.2.2.1]
  rw [pr] at t2
  generalize A.takeDirection = B at *
  have t3 := countPhaseB_spec B
  have x3 : B.countPhaseB.slot 0 = B.slot 0 := t3.2.2.2.2.2.slot 0 (by omega)
  have c3 := t3.2.2.2.2.2.clock
  have p3 := t3.2.2.2.2.2.param
  generalize B.countPhaseB = C at *
  have t4 := takeInterval_spec C s.table.silentMark
  have c4 := t4.2.2.2.2.2.2.clock
  have p4 := t4.2.2.2.2.2.2.param
  generalize C.takeInterval s.table.silentMark = D at *
  have t5 := accumulate_spec D
  have x5 : D.accumulate.slot 0 = D.slot 0 := t5.2.2.2.2.slot 0 (by omega)
  have c5 := t5.2.2.2.2.clock
  have p5 := t5.2.2.2.2.param
  have dB : B.dist = { s.dist with reverse := (decide (s.param 7 = 0) && !s.table.phaseBMark && s.dist.spbLevel) } := by rw [t2.2.2.1, t1.2.2.1]
  have dC : C.dist = { s.dist with reverse := (decide (s.param 7 = 0) && !s.table.phaseBMark && s.dist.spbLevel), phaseB := if s.param 7 = 0 ∧ s.dist.phaseB < 64 then s.dist.phaseB + 1 else s.dist.phaseB } := by rw [t3.2.2.1, dB, p2, p1]
  have ra : C.dist.ringAfter C.clock = s.dist.ringAfter s.clock := by rw [c3, c2, c1, dC]; rfl
  have cC : C.clock = s.clock := by rw [c3, c2, c1]
  have dD : D.dist = { s.dist with reverse := (decide (s.param 7 = 0) && !s.table.phaseBMark && s.dist.spbLevel), phaseB := (if s.param 7 = 0 ∧ s.dist.phaseB < 64 then s.dist.phaseB + 1 else s.dist.phaseB), ring := s.dist.ringAfter s.clock, lastPulse := some s.clock } := by rw [t4.2.2.1, dC, ← ra, cC, dC]
  have sD : D.slot 0 = _ := t4.2.2.2.2.2.1
  rw [ra, cC, x3, x2, x1, show C.dist.kFactor = s.dist.kFactor by rw [dC]] at sD
  have stD : D.store = s.store := by rw [t4.2.2.2.1, t3.2.2.2.1, t2.2.2.2.1, t1.2.2.2.1]
  have ac : D.accumulate.dist.spaTimer = D.dist.spaTimer ∧ D.accumulate.dist.spaLevel = D.dist.spaLevel ∧ D.accumulate.dist.spbLevel = D.dist.spbLevel ∧ D.accumulate.dist.spbTimer = D.dist.spbTimer ∧
     D.accumulate.dist.filterReject = D.dist.filterReject ∧ D.accumulate.dist.history = D.dist.history ∧ D.accumulate.dist.kFactor = D.dist.kFactor ∧ D.accumulate.dist.sealed = D.dist.sealed ∧ D.accumulate.dist.reverse = D.dist.reverse ∧
     D.accumulate.dist.phaseB = D.dist.phaseB ∧ D.accumulate.dist.lastPulse = D.dist.lastPulse ∧ D.accumulate.dist.ring = D.dist.ring ∧
     D.accumulate.dist.accumulator = (if D.dist.accumulator + 1000 < D.dist.kFactor then D.dist.accumulator + 1000 else D.dist.accumulator + 1000 - D.dist.kFactor) ∧
     D.accumulate.dist.liveOdo = (if D.dist.accumulator + 1000 < D.dist.kFactor then D.dist.liveOdo else if D.dist.liveOdo < 4294967295 then D.dist.liveOdo + 1 else D.dist.liveOdo) ∧
     D.accumulate.dist.storedOdo = (if D.dist.liveOdo < D.accumulate.dist.liveOdo ∧ D.dist.storedOdo + 1000 ≤ D.accumulate.dist.liveOdo then D.accumulate.dist.liveOdo else D.dist.storedOdo) ∧
     (D.accumulate.dist.storedOdo = D.dist.storedOdo → D.accumulate.store = D.store) := by
    by_cases h : D.dist.accumulator + 1000 < D.dist.kFactor
    · rw [t5.2.2.1 h]; simp [h]
    · rw [t5.2.2.2.1 h]
      have m := addMetre_spec { D with dist.accumulator := D.dist.accumulator + 1000 - D.dist.kFactor }
      generalize State.addMetre { D with dist.accumulator := D.dist.accumulator + 1000 - D.dist.kFactor } = Z at *
      rw [m.2.2.1]
      refine ⟨rfl, rfl, rfl, rfl, rfl, rfl, rfl, rfl, rfl, rfl, rfl, rfl, by simp [h], by simp [h], ?_, ?_⟩
      · simp only []
        by_cases g : D.dist.liveOdo < 4294967295
        · by_cases k : D.dist.storedOdo + 1000 ≤ D.dist.liveOdo + 1 <;> simp [g, k]
        · simp [g]
      · intro hs
        apply m.2.2.2.1
        rintro ⟨a, b⟩
        simp only [] at hs a b
        rw [if_pos ⟨a, b⟩] at hs; omega
  have tb : D.accumulate.table.silentMark = false ∧ D.accumulate.table.phaseBMark = (s.table.phaseBMark || decide (s.param 7 = 0 ∧ s.dist.phaseB = 63)) := by
    refine ⟨by rw [t5.1, t4.1, t3.1, t2.1, t1.1], ?_⟩
    rw [t5.2.1, t4.2.1, t3.2.1, t2.2.1, t1.2.1, p2, p1, dB]
  have pp : D.accumulate.paramNat 9 = s.paramNat 9 := by unfold State.paramNat; rw [p5, p4, p3, p2, p1]
  have cc : D.accumulate.clock = s.clock := by rw [c5, c4, c3, c2, c1]
  generalize D.accumulate = E at *
  rw [pulseNotice_spec]
  have e6 : E.restartZero = { E with dist.zeroTimer := some (E.clock + 1000 * E.paramNat 9) } := by
    unfold State.restartZero State.after ms; rw [Nat.mul_comm]
  rw [e6, dD, stD] at *
  obtain ⟨a1, a2, a3, a4, a5, a6, a7, a8, a9, a10, a11, a12, a13, a14, a15, a16⟩ := ac
  refine ⟨tb.1, a1, a2, a3, a4, a5, a6, a7, a8, a9, a10, tb.2, a11, a12, x5.trans sD, a13, a14, a15, a16, ?_, ?_⟩
  · show some (E.clock + 1000 * E.paramNat 9) = _; rw [cc, pp]
  · show (if _ then some (E.clock + 3000000) else none) = _; rw [cc]; rfl

/-- Everything an edge of SPB can do (R107, R108). -/
theorem spbEdge_travel (s : State) : Travel (fun n => n = 12 ∨ n = 13) s s.spbEdge := by
  unfold State.spbEdge
  split
  · simp only []
    have base : Travel (fun n => n = 12 ∨ n = 13) s { s with dist.phaseB := 0 } := Travel.set _ _ _ rfl
    split
    · have h := (setMarks_spec { s with dist.phaseB := 0 } s.table.silentMark false).2.2.2.2.2
      have T := base.trans h
      split
      · exact T
      · exact T.trans (ripple_release _ _ _ _ (.inr rfl)).toTravel
    · exact base
  · exact Travel.refl _ s

end Sys2Proof.Machine
end

