-- ==== Sys2Proof/Laws/Readout.lean ====
section
/-! SUPPORT. The readout queue, the end of a transfer and the minute event, each said once (R128 to R142). -/

namespace Sys2Proof.Machine

/-- A SUMMARY slot exists and is not slot 13. -/
theorem summarySlot_ok (d : Driver) : summarySlot d < 96 ∧ summarySlot d ≠ 13 := by cases d <;> decide

/-- The SUMMARY slots differ. -/
theorem summarySlot_inj {d e : Driver} (h : d ≠ e) : summarySlot d ≠ summarySlot e := by cases d <;> cases e <;> first | exact absurd rfl h | decide

/-- A push leaves the tachograph block. -/
theorem push_tacho (s : State) (c v o) : (s.push c v o).tacho = s.tacho := (cascade_send _ _).tacho

/-- A release leaves the tachograph block. -/
theorem release_tacho (s : State) (c o) : (s.release c o).tacho = s.tacho := (cascade_send _ _).tacho

/-- A flag leaves the tachograph block. -/
theorem raise_tacho (s : State) (f) : (s.raise f).tacho = s.tacho := (cascade_raise s f).tacho

/-- A frame offered leaves the tachograph block. -/
theorem offer_tacho (s : State) (f) : (s.offer f).tacho = s.tacho := (cascade_offer s f).tacho

/-- The start of a transfer (R136). -/
theorem startTransfer_spec (s : State) (e : Readout) (l : List Readout) :
    (s.startTransfer e l).tacho = { s.tacho with readout := l, transfer := .requested e.driver e.attempt, transferTimer := some (s.clock + 1000000) } ∧
    ((s.startTransfer e l).slot (summarySlot e.driver)).value = 1 ∧ Ripple (fun n => n = summarySlot e.driver ∨ n = 13) s (s.startTransfer e l) := by
  unfold State.startTransfer
  simp only []
  refine ⟨?_, ?_, ?_⟩
  · unfold State.writeSummary; rw [writeOther_tacho, offer_tacho]; rfl
  · exact writeOther_value _ _ _ (summarySlot_ok _).1 (summarySlot_ok _).2
  · exact ((ripple_tacho _ _ _).trans (ripple_offer _ _ _)).trans (ripple_writeOther _ _ _ _ (.inl rfl) (.inr rfl))

/-- The alert of a failed readout, written out. -/
theorem readoutAlert_eq (d : Driver) : readoutAlert d = readoutCode d := by cases d <;> rfl

/-- A frame offered between two ripples (R9). -/
theorem offered_intro {s a t : State} {f : TxFrame} (h : Ripple onlyTacho s a) (k : Ripple onlyTacho (a.offer f) t) : Offered s f t := by
  obtain ⟨before, hb⟩ := h.sent
  obtain ⟨behind, hk⟩ := k.sent
  refine ⟨a, before, behind, h, k, hb, ?_⟩
  have e : (a.offer f).intake.transmit = a.intake.transmit ++ (if a.intake.transmit.length < 8 then [f] else []) := by
    unfold State.offer
    by_cases hl : a.intake.transmit.length < transmitRoom
    · rw [if_pos hl]; exact congrArg (a.intake.transmit ++ ·) (if_pos hl).symm
    · rw [if_neg hl]; exact (List.append_nil _).symm.trans (congrArg (a.intake.transmit ++ ·) (if_neg hl).symm)
  rw [hk, e, hb]

/-- A frame offered behind an earlier ripple. -/
theorem offered_back {u s t : State} {f : TxFrame} (R : Ripple onlyTacho u s) (h : Offered s f t) : Offered u f t := by
  obtain ⟨a, _, _, h1, h2, _⟩ := h
  exact offered_intro (R.trans h1) h2

/-- A frame offered before a later ripple. -/
theorem offered_tail {s t u : State} {f : TxFrame} (h : Offered s f t) (R : Ripple onlyTacho t u) : Offered s f u := by
  obtain ⟨a, _, _, h1, h2, _⟩ := h
  exact offered_intro h1 (h2.trans R)

/-- The SUMMARY request frame, written out. -/
theorem tachoFrame_summary (s : State) (d : Driver) : s.tachoFrame 8 d = summaryFrame s d := by cases d <;> rfl

/-- The SUMMARY request frame behind a ripple. -/
theorem summaryFrame_ripple {ch : Nat → Prop} {u s : State} (R : Ripple ch u s) (d : Driver) : summaryFrame s d = summaryFrame u d := by
  have e : s.tachoReqId = u.tachoReqId := by unfold State.tachoReqId State.paramNat; rw [R.param]
  unfold summaryFrame; rw [e]

/-- What follows a transfer, seen from before an earlier ripple. -/
theorem next_back {u s t : State} {q : List Readout} (R : Ripple onlyTacho u s) (h : NextTransfer s q t) : NextTransfer u q t := by
  unfold NextTransfer at *
  rw [R.ign, R.clock] at h
  cases q with
  | nil => exact h
  | cons e l =>
    simp only [] at h ⊢
    split
    · rename_i hp
      rw [if_pos hp, summaryFrame_ripple R] at h
      exact ⟨h.1, h.2.1, h.2.2.1, h.2.2.2.1, offered_back R h.2.2.2.2⟩
    · rename_i hp
      rw [if_neg hp] at h
      exact h

/-- What follows a transfer, before a ripple that leaves the queue, the transfer and the SUMMARY slots. -/
theorem next_tail {s t u : State} {q : List Readout} (h : NextTransfer s q t) (R : Ripple onlyTacho t u)
    (hr : u.tacho.readout = t.tacho.readout) (hx : u.tacho.transfer = t.tacho.transfer)
    (ht : u.tacho.transferTimer = t.tacho.transferTimer) (hs : ∀ d, u.slot (summarySlot d) = t.slot (summarySlot d)) :
    NextTransfer s q u := by
  unfold NextTransfer at *
  cases q with
  | nil => rw [hr, hx, ht]; exact h
  | cons e l =>
    simp only [] at h ⊢
    rw [hr, hx, ht, hs]
    split
    · rename_i hp
      rw [if_pos hp] at h
      exact ⟨h.1, h.2.1, h.2.2.1, h.2.2.2.1, offered_tail h.2.2.2.2 R⟩
    · rename_i hp
      rw [if_neg hp] at h
      exact h

/-- A start of a transfer offers its SUMMARY request before all else. -/
theorem startTransfer_offers (s : State) (e : Readout) (l : List Readout) :
    Ripple onlyTacho (s.offer (summaryFrame s e.driver)) (s.startTransfer e l) := by
  unfold State.startTransfer
  simp only []
  rw [tachoFrame_summary]
  generalize hx : ({ s with tacho.readout := l, tacho.transfer := .requested e.driver e.attempt,
                            tacho.transferTimer := s.after (ms 1000) } : State) = x
  have R : Ripple onlyTacho s x := by rw [← hx]; exact ripple_tacho _ _ _
  rw [summaryFrame_ripple R]
  have c : x.offer (summaryFrame s e.driver) = { s.offer (summaryFrame s e.driver) with tacho := x.tacho } := by
    rw [← hx]; unfold State.offer; split <;> rfl
  rw [c]
  have o1 : (s.offer (summaryFrame s e.driver)).tacho = s.tacho := by unfold State.offer; split <;> rfl
  exact (ripple_tacho onlyTacho _ _ (by rw [o1, ← hx]) (by rw [o1, ← hx])).trans (ripple_writeSummary onlyTacho (fun _ h => h) _ _ _)

/-- The check of R136 on an IDLE transfer record. -/
theorem tryStart_spec (s : State) (hi : s.tacho.transfer = .idle) (ht : s.tacho.transferTimer = none) :
    NextTransfer s s.tacho.readout s.tryStart ∧
    s.tryStart.tacho = { s.tacho with readout := s.tryStart.tacho.readout, transfer := s.tryStart.tacho.transfer, transferTimer := s.tryStart.tacho.transferTimer } ∧
    Ripple onlyTacho s s.tryStart ∧
    (∀ d, (∀ e ∈ s.tacho.readout, e.driver ≠ d) → s.tryStart.slot (summarySlot d) = s.slot (summarySlot d)) := by
  unfold State.tryStart NextTransfer
  rw [hi]
  cases hr : s.tacho.readout with
  | nil => 
    refine ⟨⟨hi, hr, ht⟩, ?_, Ripple.refl _ _, fun _ _ => rfl⟩
    rfl
  | cons e l =>
    simp only []
    by_cases hp : s.ign.power = .waking ∨ s.ign.power = .run
    · rw [if_pos hp, if_pos hp]
      obtain ⟨a, b, c⟩ := startTransfer_spec s e l
      refine ⟨⟨by rw [a], by rw [a], by rw [a], b, offered_intro (Ripple.refl _ s) (startTransfer_offers s e l)⟩, by rw [a], ?_, ?_⟩
      · exact c.mono (by rintro n (h | h); rw [h]; exact onlyTacho_summary _; rw [h]; exact onlyTacho_top)
      · intro d hd
        apply c.slots
        rintro (h | h)
        · exact summarySlot_inj (hd e List.mem_cons_self) h.symm
        · exact (summarySlot_ok d).2 h
    · rw [if_neg hp, if_neg hp]
      exact ⟨⟨hi, hr, ht⟩, rfl, Ripple.refl _ _, fun _ _ => rfl⟩

/-- A second check of R136 does nothing. -/
theorem tryStart_again (s : State) (hi : s.tacho.transfer = .idle) : s.tryStart.tryStart = s.tryStart := by
  by_cases h : ∃ e l, s.tacho.readout = e :: l ∧ (s.ign.power = .waking ∨ s.ign.power = .run)
  · obtain ⟨e, l, h1, h2⟩ := h
    have : s.tryStart = s.startTransfer e l := by unfold State.tryStart; rw [hi, h1]; simp only []; rw [if_pos h2]
    rw [this]
    have a := (startTransfer_spec s e l).1
    conv => lhs; unfold State.tryStart
    rw [a]
  · have : s.tryStart = s := by
      unfold State.tryStart; rw [hi]
      cases hr : s.tacho.readout with
      | nil => rfl
      | cons e l => simp only []; rw [if_neg]; intro hp; exact h ⟨e, l, hr, hp⟩
    rw [this, this]

/-- A readout enqueued on an IDLE transfer record (R134). -/
theorem enqueue_idle (s : State) (d : Driver) (k : Nat) (hi : s.tacho.transfer = .idle) (hq : ∀ e ∈ s.tacho.readout, e.driver ≠ d) :
    s.enqueue d k = if (s.driver d).state = .noDriver then s else ({ s with tacho.readout := s.tacho.readout ++ [Readout.mk d k] } : State).tryStart := by
  unfold State.enqueue
  have : s.tacho.engaged d = false := by
    unfold Tacho.engaged; rw [hi]; simp [Transfer.driver]; exact hq
  rw [this]
  unfold DriverRecord.present
  by_cases h : (s.driver d).state = .noDriver <;> simp [h]

/-- A driver counter record replaced. -/
theorem driver_putDriver (s : State) (d e : Driver) (r) : (s.putDriver d r).driver e = if e = d then r else s.driver e := by
  cases d <;> cases e <;> rfl

/-- A driver counter record depends on its own field. -/
theorem driver_tacho {s t : State} (h1 : t.tacho.d1 = s.tacho.d1) (h2 : t.tacho.d2 = s.tacho.d2) (d) : t.driver d = s.driver d := by
  cases d <;> assumption

/-- A transfer that fails (R142). -/
theorem fail_spec (s : State) (d : Driver) (attempt : Nat) (cause : TransferOutcome) (hq : ∀ e ∈ s.tacho.readout, e.driver ≠ d) :
    TransferFails s d attempt cause (s.failTransfer d attempt cause) := by
  have e0 : s.failTransfer d attempt cause = if attempt = 1 then ((((s.setOutcome d cause).idleTransfer).enqueue d 2).tryStart) else
    (((((s.setOutcome d cause).idleTransfer).writeSummary d 3).raise .tachoReadFailed).push (readoutAlert d) .info (tachoOrigin d)).tryStart := rfl
  have R := ripple_failTransfer onlyTacho (fun _ h => h) s d attempt cause
  generalize hZ : s.failTransfer d attempt cause = Z at *
  rw [e0]; clear hZ
  have R : Ripple onlyTacho s (if attempt = 1 then ((((s.setOutcome d cause).idleTransfer).enqueue d 2).tryStart) else
    (((((s.setOutcome d cause).idleTransfer).writeSummary d 3).raise .tachoReadFailed).push (readoutAlert d) .info (tachoOrigin d)).tryStart) := e0 ▸ R
  clear e0
  generalize hX : (s.setOutcome d cause).idleTransfer = X at *
  have xd : X.driver d = { s.driver d with outcome := cause } := by rw [← hX]; show (s.putDriver d _).driver d = _; rw [driver_putDriver, if_pos rfl]
  have xe : ∀ e, e ≠ d → X.driver e = s.driver e := by intro e he; rw [← hX]; show (s.putDriver d _).driver e = _; rw [driver_putDriver, if_neg he]
  have xo : X.tacho.stray = s.tacho.stray ∧ X.tacho.minuteTimer = s.tacho.minuteTimer ∧ X.tacho.side = s.tacho.side ∧ X.tacho.watch = s.tacho.watch ∧ X.tacho.readout = s.tacho.readout := by
    rw [← hX]; cases d <;> exact ⟨rfl, rfl, rfl, rfl, rfl⟩
  have xi : X.tacho.transfer = .idle ∧ X.tacho.transferTimer = none ∧ X.ign = s.ign ∧ X.clock = s.clock := by rw [← hX]; cases d <;> exact ⟨rfl, rfl, rfl, rfl⟩
  have RX : Ripple onlyTacho s X := by
    rw [← hX]; exact (ripple_setOutcome onlyTacho s d cause).trans (ripple_idleTransfer onlyTacho _)
  have cX : X = { s with tacho := X.tacho } := by rw [← hX]; cases d <;> rfl
  clear hX
  -- the tail, from any state `Y` behind `X` with the queue `q`
  have fin : ∀ (Y : State) (q : List Readout), Y.tacho = { X.tacho with readout := q } → Ripple onlyTacho s Y →
     Y.tryStart.driver d = { s.driver d with outcome := cause } ∧ (∀ e, e ≠ d → Y.tryStart.driver e = s.driver e) ∧
     Y.tryStart.tacho.stray = s.tacho.stray ∧ Y.tryStart.tacho.minuteTimer = s.tacho.minuteTimer ∧ Y.tryStart.tacho.side = s.tacho.side ∧ Y.tryStart.tacho.watch = s.tacho.watch ∧
     NextTransfer s q Y.tryStart := by
    intro Y q hy RY
    have T := tryStart_spec Y (by rw [hy]; exact xi.1) (by rw [hy]; exact xi.2.1)
    have dY : ∀ e, Y.tryStart.driver e = X.driver e := by
      intro e; apply driver_tacho <;> (rw [T.2.1, hy])
    refine ⟨(dY d).trans xd, fun e he => (dY e).trans (xe e he), ?_, ?_, ?_, ?_, ?_⟩
    · rw [T.2.1, hy]; exact xo.1
    · rw [T.2.1, hy]; exact xo.2.1
    · rw [T.2.1, hy]; exact xo.2.2.1
    · rw [T.2.1, hy]; exact xo.2.2.2.1
    · have := T.1; rw [hy] at this; exact next_back RY this
  by_cases ha : attempt = 1
  · rw [if_pos ha] at *
    have xs : (X.driver d).state = (s.driver d).state := by rw [xd]
    have en := enqueue_idle X d 2 xi.1 (by rw [xo.2.2.2.2]; exact hq)
    by_cases hn : (s.driver d).state = .noDriver
    · rw [if_pos (xs.trans hn)] at en; rw [en] at R ⊢
      obtain ⟨a, b, c1, c2, c3, c4, f⟩ := fin X s.tacho.readout (by rw [← xo.2.2.2.2]) RX
      exact ⟨a, b, c1, c2, c3, c4, R, fun _ h => absurd hn h, fun _ h => absurd hn h, fun _ _ => f, fun h => absurd ha h⟩
    · rw [if_neg (fun h => hn (xs.symm.trans h))] at en; rw [en] at R ⊢
      rw [tryStart_again _ (by exact xi.1)] at R ⊢
      obtain ⟨a, b, c1, c2, c3, c4, f⟩ := fin ({ X with tacho.readout := X.tacho.readout ++ [Readout.mk d 2] }) (s.tacho.readout ++ [{ driver := d, attempt := 2 }]) (by rw [← xo.2.2.2.2]) (RX.trans (ripple_tacho _ _ _))
      refine ⟨a, b, c1, c2, c3, c4, R, fun _ _ => f, fun _ _ hp e l hl => ?_, fun _ h => absurd h hn, fun h => absurd ha h⟩
      have q : (({ X with tacho.readout := X.tacho.readout ++ [Readout.mk d 2] } : State).tryStart) =
          ({ X with tacho.readout := X.tacho.readout ++ [Readout.mk d 2] } : State).startTransfer e l := by
        unfold State.tryStart
        rw [show ({ X with tacho.readout := X.tacho.readout ++ [Readout.mk d 2] } : State).tacho.transfer = .idle from xi.1,
          show ({ X with tacho.readout := X.tacho.readout ++ [Readout.mk d 2] } : State).tacho.readout = e :: l by
            rw [← hl, ← xo.2.2.2.2]]
        simp only []
        rw [if_pos (by rw [show ({ X with tacho.readout := X.tacho.readout ++ [Readout.mk d 2] } : State).ign = s.ign from xi.2.2.1]; exact hp)]
      rw [q]
      have o := startTransfer_offers ({ X with tacho.readout := X.tacho.readout ++ [Readout.mk d 2] } : State) e l
      rw [summaryFrame_ripple (RX.trans (ripple_tacho onlyTacho X _) :
        Ripple onlyTacho s ({ X with tacho.readout := X.tacho.readout ++ [Readout.mk d 2] } : State))] at o
      refine Ripple.trans ?_ o
      have c : ({ X with tacho.readout := X.tacho.readout ++ [Readout.mk d 2] } : State).offer (summaryFrame s e.driver) =
          { s.offer (summaryFrame s e.driver) with
            tacho := ({ X with tacho.readout := X.tacho.readout ++ [Readout.mk d 2] } : State).tacho } := by
        rw [cX]; unfold State.offer; split <;> rfl
      have o1 : (s.offer (summaryFrame s e.driver)).tacho = s.tacho := by unfold State.offer; split <;> rfl
      have xst : ∀ f, (X.driver f).state = (s.driver f).state := fun f => by
        by_cases h : f = d
        · rw [h, xs]
        · rw [xe f h]
      rw [c]; exact ripple_tacho _ _ _ ((xst .one).trans (by rw [o1]; rfl)) ((xst .two).trans (by rw [o1]; rfl))
  · rw [if_neg ha] at *
    have s3 : ((X.writeSummary d 3).slot (summarySlot d)).value = 3 := writeOther_value _ _ _ (summarySlot_ok _).1 (summarySlot_ok _).2
    have RW := ripple_writeSummary onlyTacho (fun _ h => h) X d 3
    have TW : (X.writeSummary d 3).tacho = X.tacho := writeOther_tacho _ _ _
    generalize X.writeSummary d 3 = W at *
    have F1 : Flagged (W.raise .tachoReadFailed) .tachoReadFailed := raise_flagged _ _
    have R1 := (ripple_raise (· = 13) W .tachoReadFailed)
    have TU : (W.raise .tachoReadFailed).tacho = X.tacho := by rw [raise_tacho, TW]
    have s3' : ((W.raise .tachoReadFailed).slot (summarySlot d)).value = 3 := by
      rw [R1.slots _ (summarySlot_ok d).2]; exact s3
    have top : ∀ {a b : State}, Ripple (· = 13) a b → Ripple onlyTacho a b := fun h => h.mono (fun n h => h ▸ onlyTacho_top)
    have RU : Ripple onlyTacho s (W.raise .tachoReadFailed) := RX.trans (RW.trans (top R1))
    generalize W.raise .tachoReadFailed = U at *
    have R2 := ripple_push (· = 13) U (readoutAlert d) .info (tachoOrigin d) rfl
    have F2 := R2.flags _ F1
    have T2 : (U.push (readoutAlert d) .info (tachoOrigin d)).tacho = X.tacho := by rw [push_tacho, TU]
    obtain ⟨a, b, c1, c2, c3, c4, f⟩ := fin (U.push (readoutAlert d) .info (tachoOrigin d)) s.tacho.readout (by rw [T2, ← xo.2.2.2.2]) (RU.trans (top R2))
    have T := tryStart_spec (U.push (readoutAlert d) .info (tachoOrigin d)) (by rw [T2]; exact xi.1) (by rw [T2]; exact xi.2.1)
    refine ⟨a, b, c1, c2, c3, c4, R, fun h => absurd h ha, fun h => absurd h ha, fun h => absurd h ha,
      fun _ => ⟨f, T.2.2.1.flags _ F2, ?_, U, RU, F1, s3', ?_⟩⟩
    · rw [T.2.2.2 d (by rw [T2, xo.2.2.2.2]; exact hq), R2.slots _ (summarySlot_ok d).2]; exact s3'
    · have := T.2.2.1
      rw [readoutAlert_eq] at this ⊢
      exact this

/-- The mark of a retry is one field. -/
theorem markRestart_spec (s : State) (d : Driver) :
    s.markRestart d =
      { s with tacho.restarted := if s.tacho.transfer.driver = some d then some s.clock else s.tacho.restarted } := by
  unfold State.markRestart
  split <;> rfl

/-- A failure leaves no mark of a retry: the transfer record was IDLE behind it. -/
theorem failTransfer_restarted (s : State) (d : Driver) (attempt : Nat) (cause : TransferOutcome) :
    (s.failTransfer d attempt cause).tacho.restarted = none := by
  have st : ∀ x : State, x.tryStart.tacho.restarted = x.tacho.restarted := fun x => by
    unfold State.tryStart
    split
    · split
      · rw [(startTransfer_spec x _ _).1]
      · rfl
    · rfl
  unfold State.failTransfer
  simp only []
  split
  · rw [st]
    unfold State.enqueue
    split
    · rw [st]; rfl
    · rfl
  · rw [st, push_tacho, raise_tacho]
    unfold State.writeSummary
    rw [writeOther_tacho]; rfl

/-- A transfer that fails by its timer: the failure, and the mark on its retry (R138, R142; log 34). -/
theorem timeout_spec (s : State) (d : Driver) (attempt : Nat)
    (h : s.transferTimeout = (s.failTransfer d attempt .timeout).markRestart d) (hq : ∀ e ∈ s.tacho.readout, e.driver ≠ d) :
    TransferFails s d attempt .timeout s.transferTimeout ∧
      s.transferTimeout.tacho.restarted =
        if s.transferTimeout.tacho.transfer.driver = some d then some s.transferTimeout.clock else none := by
  rw [h]
  obtain ⟨h1, h2, h3, h4, h5, h6, h7, h8, h8', h9, h10⟩ := fail_spec s d attempt .timeout hq
  have none0 := failTransfer_restarted s d attempt .timeout
  have mark := ripple_markRestart onlyTacho (s.failTransfer d attempt .timeout) d
  have spec := markRestart_spec (s.failTransfer d attempt .timeout) d
  generalize (s.failTransfer d attempt .timeout).markRestart d = t at *
  generalize s.failTransfer d attempt .timeout = u at *
  have dr : ∀ e, t.driver e = u.driver e := fun e => by rw [spec]; cases e <;> rfl
  have sl : ∀ n, t.slot n = u.slot n := fun n => by rw [spec]; rfl
  have next : ∀ q, NextTransfer s q u → NextTransfer s q t := fun q hn =>
    next_tail hn mark (by rw [spec]) (by rw [spec]) (by rw [spec]) (fun e => sl _)
  refine ⟨⟨(dr d).trans h1, fun e he => (dr e).trans (h2 e he), ?_, ?_, ?_, ?_, h7.trans mark, fun a b => next _ (h8 a b),
      fun a b p e l q => (h8' a b p e l q).trans mark, fun a b => next _ (h9 a b), fun a => ⟨next _ (h10 a).1, mark.flags _ (h10 a).2.1, ?_, ?_⟩⟩, ?_⟩
  · rw [spec]; exact h3
  · rw [spec]; exact h4
  · rw [spec]; exact h5
  · rw [spec]; exact h6
  · rw [sl]; exact (h10 a).2.2.1
  · obtain ⟨v, v1, v2, v3, v4⟩ := (h10 a).2.2.2
    exact ⟨v, v1, v2, v3, v4.trans mark⟩
  · rw [spec]
    show (if u.tacho.transfer.driver = some d then some u.clock else u.tacho.restarted) = _
    rw [none0]

/-- The counter slots are no SUMMARY slot. -/
theorem contLeft_summary (d e : Driver) : contSlot d ≠ summarySlot e ∧ leftSlot d ≠ summarySlot e := by cases d <;> cases e <;> decide

/-- The counter slots written leave the tachograph block. -/
theorem writeCounters_tacho (s : State) (d) : (s.writeCounters d).tacho = s.tacho := by
  unfold State.writeCounters; simp only []
  split
  · rw [writeOther_tacho, writeOther_tacho]
  · rw [writeOther_tacho]

/-- The counter slots written. -/
theorem writeCounters_ripple (s : State) (d) : Ripple (fun n => n = contSlot d ∨ n = leftSlot d ∨ n = 13) s (s.writeCounters d) := by
  unfold State.writeCounters; simp only []
  split
  · exact (ripple_writeOther _ _ _ _ (.inl rfl) (.inr (.inr rfl))).trans (ripple_writeOther _ _ _ _ (.inr (.inl rfl)) (.inr (.inr rfl)))
  · exact ripple_writeOther _ _ _ _ (.inl rfl) (.inr (.inr rfl))

/-- A record set, seen in the tachograph block. -/
theorem setDriver_tacho (s : State) (d) (r) : (s.setDriver d r).tacho = (s.putDriver d r).tacho := by
  unfold State.setDriver; split
  · rfl
  · exact (cascade_markDirty _ _).tacho

/-- A record set writes no slot. -/
theorem setDriver_ripple (s : State) (d r) : Ripple (fun _ => False) s (s.setDriver d r) := ripple_setDriver _ s d r

/-- A transfer that succeeds (R141). -/
theorem succeed_spec (s : State) (d : Driver) (m : Summary) (hq : ∀ e ∈ s.tacho.readout, e.driver ≠ d) :
   ((s.succeedTransfer d m).driver d).summary = some m ∧ ((s.succeedTransfer d m).driver d).outcome = .ok ∧ ((s.succeedTransfer d m).driver d).state = .confirmed ∧
            ((s.succeedTransfer d m).driver d).contDrive = m.contDrive ∧ ((s.succeedTransfer d m).driver d).sinceReconcile = 0 ∧
            (∀ e, e ≠ d → (s.succeedTransfer d m).driver e = s.driver e) ∧ ((s.succeedTransfer d m).slot (summarySlot d)).value = 2 ∧
            NextTransfer s s.tacho.readout (s.succeedTransfer d m) ∧
            (∃ u, Ripple onlyTacho s u ∧ (u.slot (summarySlot d)).value = 2 ∧
              Ripple onlyTacho (u.release (readoutCode d) (.tacho d.number)) (s.succeedTransfer d m)) ∧
            Ripple onlyTacho s (s.succeedTransfer d m) := by
  have R := ripple_succeedTransfer onlyTacho (fun _ h => h) s d m
  have e0 : s.succeedTransfer d m = ((((((s.putDriver d { s.driver d with summary := some m, outcome := .ok }).writeSummary d 2).reconcile d m.contDrive).release (readoutAlert d) (tachoOrigin d)).markDirty [driverPage d]).idleTransfer).tryStart := rfl
  generalize hZ : s.succeedTransfer d m = Z at *
  clear hZ
  have p1 : ∀ e, (s.putDriver d { s.driver d with summary := some m, outcome := .ok }).driver e = if e = d then { s.driver d with summary := some m, outcome := .ok } else s.driver e := fun e => driver_putDriver s d e _
  have p2 : (s.putDriver d { s.driver d with summary := some m, outcome := .ok }).tacho.readout = s.tacho.readout ∧ (s.putDriver d { s.driver d with summary := some m, outcome := .ok }).ign = s.ign ∧ (s.putDriver d { s.driver d with summary := some m, outcome := .ok }).clock = s.clock := by cases d <;> exact ⟨rfl, rfl, rfl⟩
  have p3 : Ripple onlyTacho s (s.putDriver d { s.driver d with summary := some m, outcome := .ok }) := ripple_putDriver _ _ _ _ rfl
  generalize s.putDriver d { s.driver d with summary := some m, outcome := .ok } = P at *
  have w1 : ((P.writeSummary d 2).slot (summarySlot d)).value = 2 := writeOther_value _ _ _ (summarySlot_ok _).1 (summarySlot_ok _).2
  have w2 : (P.writeSummary d 2).tacho = P.tacho := writeOther_tacho _ _ _
  have w3 := ripple_writeSummary onlyTacho (fun _ h => h) P d 2
  have w4 : ∀ e, (P.writeSummary d 2).driver e = P.driver e := fun e => driver_tacho (by rw [w2]) (by rw [w2]) e
  generalize P.writeSummary d 2 = W at *
  unfold State.reconcile at e0
  have s1 := setDriver_tacho W d ((W.driver d).reconciled m.contDrive)
  have s2 := setDriver_ripple W d ((W.driver d).reconciled m.contDrive)
  have s3 : ∀ e, (W.setDriver d ((W.driver d).reconciled m.contDrive)).driver e = if e = d then (W.driver d).reconciled m.contDrive else W.driver e := by
    intro e; rw [← driver_putDriver]; exact driver_tacho (by rw [s1]) (by rw [s1]) e
  have s4 : (W.setDriver d ((W.driver d).reconciled m.contDrive)).tacho.readout = W.tacho.readout := by rw [s1]; cases d <;> rfl
  generalize W.setDriver d ((W.driver d).reconciled m.contDrive) = S at *
  have c1 := writeCounters_tacho S d
  have c2 := writeCounters_ripple S d
  generalize S.writeCounters d = C at *
  have r1 := release_tacho C (readoutAlert d) (tachoOrigin d)
  have r2 := ripple_release (· = 13) C (readoutAlert d) (tachoOrigin d) rfl
  have sC : (C.slot (summarySlot d)).value = 2 := by
    rw [c2.slots, s2.slots _ id]
    · exact w1
    · rintro (h | h | h)
      · exact (contLeft_summary d d).1 h.symm
      · exact (contLeft_summary d d).2 h.symm
      · exact (summarySlot_ok d).2 h
  have RC : Ripple onlyTacho s C := by
    refine p3.trans (w3.trans ((s2.mono fun _ h => h.elim).trans (c2.mono ?_)))
    rintro n (h | h | h)
    · rw [h]; exact onlyTacho_cont d
    · rw [h]; exact onlyTacho_left d
    · rw [h]; exact onlyTacho_top
  have RCZ : Ripple onlyTacho (C.release (readoutAlert d) (tachoOrigin d)) Z := by
    rw [e0]
    exact (ripple_markDirty _ _ _).trans ((ripple_idleTransfer _ _).trans (ripple_tryStart onlyTacho (fun _ h => h) _))
  have RV : Ripple onlyTacho s (C.release (readoutAlert d) (tachoOrigin d)) := RC.trans (r2.mono fun n h => h ▸ onlyTacho_top)
  rw [readoutAlert_eq] at RCZ
  generalize C.release (readoutAlert d) (tachoOrigin d) = V at *
  have m1 : (V.markDirty [driverPage d]).tacho = V.tacho := (cascade_markDirty _ _).tacho
  have m2 := ripple_markDirty (fun _ => False) V [driverPage d]
  generalize V.markDirty [driverPage d] = M at *
  have i1 : M.idleTransfer.tacho = { M.tacho with transfer := .idle, transferTimer := none, restarted := none } := rfl
  have T := tryStart_spec M.idleTransfer rfl rfl
  have i2 : M.idleTransfer.tacho.readout = s.tacho.readout := by
    rw [i1]; show M.tacho.readout = _; rw [m1, r1, c1, s4, w2]; exact p2.1
  have dr : ∀ e, Z.driver e = if e = d then (W.driver d).reconciled m.contDrive else s.driver e := by
    intro e
    rw [e0]
    have h1 : M.idleTransfer.tryStart.driver e = S.driver e := by
      apply driver_tacho <;> (rw [T.2.1, i1, m1, r1, c1])
    rw [h1, s3]
    by_cases h : e = d
    · rw [if_pos h, if_pos h]
    · rw [if_neg h, if_neg h, w4, p1, if_neg h]
  have wd : W.driver d = { s.driver d with summary := some m, outcome := .ok } := by rw [w4, p1, if_pos rfl]
  have dd := dr d
  rw [if_pos rfl, wd] at dd
  refine ⟨by rw [dd]; rfl, by rw [dd]; rfl, by rw [dd]; rfl, by rw [dd]; rfl, by rw [dd]; rfl, fun e he => by rw [dr, if_neg he], ?_, ?_, ⟨C, RC, sC, RCZ⟩, R⟩
  · rw [e0, T.2.2.2 d (by rw [i2]; exact hq)]
    show (M.slot (summarySlot d)).value = 2
    rw [m2.slots _ id, r2.slots _ (summarySlot_ok d).2]; exact sC
  · rw [e0]
    have := T.1; rw [i2] at this
    exact next_back (RV.trans ((m2.mono fun _ h => h.elim).trans (ripple_idleTransfer _ _))) this

/-- The driver in flight is not in the queue (R134). -/
theorem notTwice {t : Tacho} (h : ReadoutOk t) {d : Driver} (hd : t.transfer.driver = some d) : ∀ e ∈ t.readout, e.driver ≠ d := by
  intro e he hh; apply h.2.1 e he; rw [hd, hh]

/-- A readout enqueued (R134). -/
theorem enqueue_spec (s : State) (d : Driver) (k : Nat) (hp : (s.driver d).state ≠ .noDriver) (h1 : ∀ e ∈ s.tacho.readout, e.driver ≠ d) (h2 : s.tacho.transfer.driver ≠ some d) :
   s.enqueue d k = ({ s with tacho.readout := s.tacho.readout ++ [Readout.mk d k] } : State).tryStart := by
  unfold State.enqueue
  have : s.tacho.engaged d = false := by
    unfold Tacho.engaged; simp [h2]; exact h1
  rw [this]; unfold DriverRecord.present; simp [hp]

/-- No transfer starts. -/
theorem tryStart_not (s : State) (h : s.tacho.transfer ≠ .idle ∨ (s.ign.power ≠ .waking ∧ s.ign.power ≠ .run)) : s.tryStart = s := by
  unfold State.tryStart
  split
  · rename_i a b; rw [if_neg]; rintro (x | x)
    · rcases h with h | h; exact h a; exact h.1 x
    · rcases h with h | h; exact h a; exact h.2 x
  · rfl

/-- The head of a queue that has an entry starts. -/
theorem tryStart_next (s : State) (q : List Readout) (e) (hq : s.tacho.readout = q ++ [e]) (hi : s.tacho.transfer = .idle) (hp : s.ign.power = .waking ∨ s.ign.power = .run) :
    NextTransfer s s.tacho.readout s.tryStart := by
  unfold State.tryStart NextTransfer
  rw [hi, hq]
  cases q with
  | nil =>
    simp only [List.nil_append]; rw [if_pos hp, if_pos hp]
    obtain ⟨a, b, c⟩ := startTransfer_spec s e []
    exact ⟨by rw [a], by rw [a], by rw [a], b, offered_intro (Ripple.refl _ s) (startTransfer_offers s _ _)⟩
  | cons f l =>
    simp only [List.cons_append]; rw [if_pos hp, if_pos hp]
    obtain ⟨a, b, c⟩ := startTransfer_spec s f (l ++ [e])
    exact ⟨by rw [a], by rw [a], by rw [a], b, offered_intro (Ripple.refl _ s) (startTransfer_offers s _ _)⟩

/-- A start leaves the driver counter records. -/
theorem tryStart_drivers (s : State) (d) : s.tryStart.driver d = s.driver d := by
  unfold State.tryStart
  split
  · split
    · rename_i e l _ _ _
      apply driver_tacho <;> rw [(startTransfer_spec s e l).1]
    · rfl
  · rfl

/-- A minute leaves a driver present. -/
theorem minute_present (r : DriverRecord) (a n p w) (hp : r.state ≠ .noDriver) : (r.minute a n p w).state ≠ .noDriver := by
  unfold DriverRecord.minute
  cases a with
  | none => simp only []; split <;> simp
  | some v =>
    simp only []
    repeat' split
    all_goals first | exact hp | simp

/-- The counter slots exist, differ, and are not slot 13. -/
theorem contSlot_ok (d : Driver) : contSlot d < 96 ∧ contSlot d ≠ 13 ∧ leftSlot d < 96 ∧ leftSlot d ≠ 13 ∧ contSlot d ≠ leftSlot d := by cases d <;> decide

/-- The counter slots show the counters (R128). -/
theorem writeCounters_shows (s : State) (d : Driver) (h : (s.driver d).state ≠ .noDriver) : ((s.writeCounters d).slot (contSlot d)).value = (s.driver d).contDrive ∧
   ((s.writeCounters d).slot (leftSlot d)).value = s.param 17 - (s.driver d).contDrive := by
  unfold State.writeCounters; simp only []
  have ok := contSlot_ok d
  have v1 := writeOther_value s (contSlot d) (s.driver d).contDrive ok.1 ok.2.1
  have t1 := writeOther_tacho s (contSlot d) (s.driver d).contDrive
  have R1 := ripple_writeOther (fun n => n = contSlot d ∨ n = 13) s (contSlot d) (s.driver d).contDrive (.inl rfl) (.inr rfl)
  generalize s.writeOther (contSlot d) (s.driver d).contDrive = t at *
  have dt : t.driver d = s.driver d := driver_tacho (by rw [t1]) (by rw [t1]) d
  have pr : (t.driver d).present = true := by unfold DriverRecord.present; rw [dt]; simp [h]
  rw [if_pos pr]
  have R2 := ripple_writeOther (fun n => n = leftSlot d ∨ n = 13) t (leftSlot d) (t.driveLeft d) (.inl rfl) (.inr rfl)
  refine ⟨?_, ?_⟩
  · rw [R2.slots]; exact v1
    rintro (h | h); exact ok.2.2.2.2 h; exact ok.2.1 h
  · rw [writeOther_value t _ _ ok.2.2.1 ok.2.2.2.1]
    unfold State.driveLeft; rw [dt, R1.param]

/-- A minute event of a present driver (R129). -/
theorem minute_one (s : State) (d : Driver) (hp : (s.driver d).state ≠ .noDriver) :
   (s.minuteEvent d).tacho = ((s.putDriver d ((s.driver d).minute (s.activity d) (s.paramNat 18) (s.paramNat 19) (s.paramNat 20))).tacho) ∧
   ((s.minuteEvent d).slot (contSlot d)).value = ((s.driver d).minute (s.activity d) (s.paramNat 18) (s.paramNat 19) (s.paramNat 20)).contDrive ∧
   ((s.minuteEvent d).slot (leftSlot d)).value = s.param 17 - ((s.driver d).minute (s.activity d) (s.paramNat 18) (s.paramNat 19) (s.paramNat 20)).contDrive ∧
   Ripple (fun n => n = contSlot d ∨ n = leftSlot d ∨ n = 13) s (s.minuteEvent d) := by
  have hr := minute_present (s.driver d) (s.activity d) (s.paramNat 18) (s.paramNat 19) (s.paramNat 20) hp
  have e : s.minuteEvent d = (s.setDriver d ((s.driver d).minute (s.activity d) (s.paramNat 18) (s.paramNat 19) (s.paramNat 20))).writeCounters d := by
    unfold State.minuteEvent; rw [if_pos (by unfold DriverRecord.present; simp [hp])]
  rw [e]; clear e
  generalize (s.driver d).minute (s.activity d) (s.paramNat 18) (s.paramNat 19) (s.paramNat 20) = r at *
  have t1 := setDriver_tacho s d r
  have R1 := setDriver_ripple s d r
  generalize s.setDriver d r = t at *
  have dt : t.driver d = r := by rw [← show (s.putDriver d r).driver d = r by rw [driver_putDriver, if_pos rfl]]; exact driver_tacho (by rw [t1]) (by rw [t1]) d
  have c := writeCounters_shows t d (by rw [dt]; exact hr)
  rw [dt, R1.param] at c
  refine ⟨by rw [writeCounters_tacho, t1], c.1, c.2, ?_⟩
  exact (R1.mono (fun _ h => h.elim)).trans (writeCounters_ripple t d)

end Sys2Proof.Machine
end

