-- ==== Sys2Proof/Laws/Cards.lean ====
section
/-! SUPPORT. What an enqueue, a card's insertion and withdrawal, and the judgements of the speed cross-check and of the silence
watch do (R132 to R134, R146 to R148). -/

namespace Sys2Proof.Machine

/-- A start of the head leaves all of the tachograph block but the queue and the transfer. -/
theorem tryStart_tacho (s : State) :
    s.tryStart.tacho = { s.tacho with
      readout := s.tryStart.tacho.readout, transfer := s.tryStart.tacho.transfer,
      transferTimer := s.tryStart.tacho.transferTimer } := by
  unfold State.tryStart
  split
  · split
    · rename_i e l _ _ _
      rw [(startTransfer_spec s e l).1]
    · rfl
  · rfl

/-- A start of the head writes a SUMMARY slot, and slot 13. -/
theorem tryStart_slots (s : State) : Ripple (fun n => (∃ d, n = summarySlot d) ∨ n = 13) s s.tryStart := by
  unfold State.tryStart
  split
  · split
    · rename_i e l _ _ _
      refine (startTransfer_spec s e l).2.2.mono ?_
      rintro n (h | h)
      · exact .inl ⟨_, h⟩
      · exact .inr h
    · exact Ripple.refl _ _
  · exact Ripple.refl _ _

/-- An enqueue for a driver that is present (R134). -/
theorem enqueue_does (s : State) (d : Driver) (hp : (s.driver d).state ≠ .noDriver) :
    ReadoutEnqueued s d (s.enqueue d 1) := by
  unfold ReadoutEnqueued
  refine ⟨fun h => ?_, fun h1 h2 => ?_⟩
  · have e : s.enqueue d 1 = s := by
      unfold State.enqueue
      have : s.tacho.engaged d = true := by
        unfold Tacho.engaged
        rcases h with ⟨e, he, hd⟩ | h
        · rw [Bool.or_eq_true]; left; exact List.any_eq_true.mpr ⟨e, he, by simp [hd]⟩
        · simp [h]
      rw [this]; simp
    rw [e]; exact ⟨rfl, rfl, rfl⟩
  · rw [enqueue_spec s d 1 hp h1 h2]
    refine ⟨fun h => ?_, fun hi hw => ?_⟩
    · rw [tryStart_not ({ s with tacho.readout := s.tacho.readout ++ [Readout.mk d 1] } : State) h]; exact ⟨rfl, rfl, rfl⟩
    · exact next_back (ripple_tacho _ s _)
        (tryStart_next ({ s with tacho.readout := s.tacho.readout ++ [Readout.mk d 1] } : State) s.tacho.readout _ rfl hi hw)

/-- An enqueue leaves every driver counter record. -/
theorem enqueue_drivers (s : State) (d e : Driver) (k : Nat) : (s.enqueue d k).driver e = s.driver e := by
  unfold State.enqueue
  split
  · rw [tryStart_drivers]; cases e <;> rfl
  · rfl

/-- An enqueue leaves all of the tachograph block but the queue and the transfer. -/
theorem enqueue_tacho (s : State) (d : Driver) (k : Nat) :
    (s.enqueue d k).tacho = { s.tacho with
      readout := (s.enqueue d k).tacho.readout, transfer := (s.enqueue d k).tacho.transfer,
      transferTimer := (s.enqueue d k).tacho.transferTimer } := by
  unfold State.enqueue
  split
  · rw [tryStart_tacho]
  · rfl

/-- An enqueue writes a SUMMARY slot, and slot 13. -/
theorem enqueue_slots (s : State) (d : Driver) (k : Nat) :
    Ripple (fun n => (∃ d, n = summarySlot d) ∨ n = 13) s (s.enqueue d k) := by
  unfold State.enqueue
  split
  · exact (ripple_tacho _ s _).trans (tryStart_slots _)
  · exact Ripple.refl _ _

/-- An enqueue seen from before an earlier ripple that leaves the queue and the transfer. -/
theorem enqueued_back {s u t : State} {d : Driver} (h : ReadoutEnqueued u d t) (R : Ripple onlyTacho s u)
    (hr : u.tacho.readout = s.tacho.readout) (hx : u.tacho.transfer = s.tacho.transfer)
    (ht : u.tacho.transferTimer = s.tacho.transferTimer) : ReadoutEnqueued s d t := by
  unfold ReadoutEnqueued at *
  rw [hr, hx, ht, R.ign] at h
  exact ⟨h.1, fun a b => ⟨(h.2 a b).1, fun x y => next_back R ((h.2 a b).2 x y)⟩⟩

/-- A slot that is neither a SUMMARY slot nor slot 13. -/
theorem contLeft_apart (d : Driver) :
    (¬ ((∃ e, contSlot d = summarySlot e) ∨ contSlot d = 13)) ∧ ¬ ((∃ e, leftSlot d = summarySlot e) ∨ leftSlot d = 13) := by
  refine ⟨?_, ?_⟩
  · rintro (⟨e, h⟩ | h)
    · exact (contLeft_summary d e).1 h
    · exact (contSlot_ok d).2.1 h
  · rintro (⟨e, h⟩ | h)
    · exact (contLeft_summary d e).2 h
    · exact (contSlot_ok d).2.2.2.1 h

/-- What a slot shows through a ripple that does not write it. -/
theorem Ripple.shows {ch : Nat → Prop} {s t : State} (h : Ripple ch s t) {n : Nat} {v : Int} (hn : ¬ ch n) (hs : Shows s n v) :
    Shows t n v := by
  unfold Shows at *; rw [h.slots n hn]; exact hs

/-- A card inserted (R132). -/
theorem insertCard_spec (s : State) (d : Driver) : CardInserted s d (s.insertCard d) := by
  have R := ripple_insertCard onlyTacho (fun _ h => h) s d
  by_cases hp : (s.driver d).state = .noDriver
  · have e0 : s.insertCard d =
        (((s.setDriver d (s.driver d).inserted).writePlain (contSlot d) (.fresh 0)).writePlain (leftSlot d)
          (.fresh (((s.setDriver d (s.driver d).inserted).writePlain (contSlot d) (.fresh 0)).driveLeft d))).enqueue d 1 := by
      unfold State.insertCard; rw [if_neg (by unfold DriverRecord.present; simp [hp])]
    generalize s.insertCard d = t at *
    have a1 := setDriver_tacho s d (s.driver d).inserted
    have a2 := setDriver_ripple s d (s.driver d).inserted
    have a3 : ∀ e, (s.setDriver d (s.driver d).inserted).driver e = if e = d then (s.driver d).inserted else s.driver e := by
      intro e; rw [← driver_putDriver]; exact driver_tacho (by rw [a1]) (by rw [a1]) e
    have a4 : (s.setDriver d (s.driver d).inserted).tacho = { s.tacho with
        d1 := (s.setDriver d (s.driver d).inserted).tacho.d1, d2 := (s.setDriver d (s.driver d).inserted).tacho.d2 } := by
      rw [a1]; cases d <;> rfl
    generalize s.setDriver d (s.driver d).inserted = P at *
    have ok := contSlot_ok d
    have b1 := writePlain_tacho P (contSlot d) (.fresh 0)
    have b2 := ripple_writePlain (fun n => n = contSlot d ∨ n = 13) P (contSlot d) (.fresh 0) (.inl rfl) (.inr rfl)
    have b3 := writePlain_shows P (contSlot d) 0 ok.1 ok.2.1
    generalize P.writePlain (contSlot d) (.fresh 0) = Q at *
    have l0 : Q.driveLeft d = s.param 17 := by
      unfold State.driveLeft
      have : Q.driver d = (s.driver d).inserted := by
        rw [driver_tacho (s := P) (t := Q) (by rw [b1]) (by rw [b1]) d, a3, if_pos rfl]
      rw [this, b2.param, a2.param]
      show s.param 17 - ((0 : Nat) : Int) = _
      omega
    have c1 := writePlain_tacho Q (leftSlot d) (.fresh (Q.driveLeft d))
    have c2 := ripple_writePlain (fun n => n = leftSlot d ∨ n = 13) Q (leftSlot d) (.fresh (Q.driveLeft d)) (.inl rfl) (.inr rfl)
    have c3 := writePlain_shows Q (leftSlot d) (Q.driveLeft d) ok.2.2.1 ok.2.2.2.1
    rw [l0] at c1 c2 c3 e0
    generalize Q.writePlain (leftSlot d) (.fresh (s.param 17)) = V at *
    have dv : ∀ e, V.driver e = if e = d then (s.driver d).inserted else s.driver e := by
      intro e; exact (driver_tacho (s := P) (t := V) (by rw [c1, b1]) (by rw [c1, b1]) e).trans (a3 e)
    have tv : V.tacho = { s.tacho with d1 := V.tacho.d1, d2 := V.tacho.d2 } := by
      rw [c1, b1, a4]
    have pv : (V.driver d).state ≠ .noDriver := by rw [dv, if_pos rfl]; simp [DriverRecord.inserted]
    have E1 := enqueue_does V d pv
    have E3 := enqueue_tacho V d 1
    have E4 := enqueue_slots V d 1
    rw [← e0] at E1 E3 E4
    have E2 : ∀ e, t.driver e = V.driver e := fun e => by rw [e0]; exact enqueue_drivers V d e 1
    refine ⟨fun h => absurd hp h, fun _ => ⟨?_, ?_, ?_⟩, ?_, ?_, R⟩
    · rw [E2 d, dv, if_pos rfl]; rfl
    · refine E4.shows (contLeft_apart d).1 (c2.shows ?_ b3)
      rintro (h | h); exact ok.2.2.2.2 h; exact ok.2.1 h
    · exact E4.shows (contLeft_apart d).2 c3
    · refine ⟨fun e he => by rw [E2 e, dv, if_neg he], ?_, ?_, ?_, ?_, ?_⟩ <;> (rw [E3, tv])
    · refine enqueued_back E1 ?_ (by rw [tv]) (by rw [tv]) (by rw [tv])
      refine (a2.mono fun _ h => h.elim).trans ((b2.mono ?_).trans (c2.mono ?_))
      · rintro n (h | h)
        · rw [h]; exact onlyTacho_cont d
        · rw [h]; exact onlyTacho_top
      · rintro n (h | h)
        · rw [h]; exact onlyTacho_left d
        · rw [h]; exact onlyTacho_top
  · have e0 : s.insertCard d = s.enqueue d 1 := by
      unfold State.insertCard; rw [if_pos (by unfold DriverRecord.present; simp [hp])]
    rw [e0] at R ⊢
    have E3 := enqueue_tacho s d 1
    refine ⟨fun _ => enqueue_drivers s d d 1, fun h => absurd h hp, ?_, enqueue_does s d hp, R⟩
    refine ⟨fun e _ => enqueue_drivers s d e 1, ?_, ?_, ?_, ?_, ?_⟩ <;> rw [E3]

/-- The STOP frame, written out. -/
theorem tachoFrame_stop (s : State) (d : Driver) : s.tachoFrame 9 d = stopFrame s d := by cases d <;> rfl

/-- An abandonment stops the driver in flight unless that transfer has just restarted (R143). -/
theorem stopsTransfer_iff (s : State) (d : Driver) :
    stopsTransfer s d = (decide (s.tacho.transfer.driver = some d) && !s.restartedNow) := by
  unfold stopsTransfer State.restartedNow Transfer.driver
  cases s.tacho.transfer <;> simp

/-- Steps 1 and 2 of a withdrawal (R133). -/
theorem withdraw_start (s : State) (d : Driver) :
    ∀ t, t = (s.abandonOwn d).dropReadout d →
      t.tacho.readout = s.tacho.readout.filter (fun e => decide (e.driver ≠ d)) ∧
      (s.tacho.transfer.driver = some d → t.tacho.transfer = .idle ∧ t.tacho.transferTimer = none) ∧
      (s.tacho.transfer.driver ≠ some d →
        t.tacho.transfer = s.tacho.transfer ∧ t.tacho.transferTimer = s.tacho.transferTimer) ∧
      t.driver d = { s.driver d with
        outcome := if stopsTransfer s d then .stopped else (s.driver d).outcome } ∧
      OtherDriverKept s d t ∧
      (∀ ch, Ripple ch (if stopsTransfer s d then s.offer (stopFrame s d) else s) t) ∧
      ∀ n, t.slot n = s.slot n := by
  intro t ht
  by_cases h : s.tacho.transfer.driver = some d
  · have e : s.abandonOwn d = s.abandon d := by unfold State.abandonOwn; rw [if_pos h]
    rw [e] at ht
    unfold State.abandon at ht
    by_cases hn : s.restartedNow = true
    · rw [if_pos hn] at ht
      have hs : stopsTransfer s d = false := by rw [stopsTransfer_iff, hn]; simp
      rw [hs]
      subst ht
      refine ⟨rfl, fun _ => ⟨rfl, rfl⟩, fun hh => absurd h hh, ?_, ⟨?_, rfl, rfl, rfl, rfl, rfl⟩,
        fun ch => (ripple_idleTransfer ch s).trans (ripple_dropReadout ch _ d), fun _ => rfl⟩
      · cases d <;> rfl
      · intro e _; cases e <;> rfl
    rw [if_neg hn, tachoFrame_stop] at ht
    have hs : stopsTransfer s d = true := by rw [stopsTransfer_iff]; simp [h, hn]
    rw [hs]
    simp only [if_true]
    have o1 := offer_tacho s (stopFrame s d)
    have o2 : ∀ n, (s.offer (stopFrame s d)).slot n = s.slot n := fun n => (ripple_offer (fun _ => False) s (stopFrame s d)).slots n id
    have pd : ∀ e, (s.offer (stopFrame s d)).driver e = s.driver e := fun e => driver_tacho (by rw [o1]) (by rw [o1]) e
    have R : ∀ ch, Ripple ch (s.offer (stopFrame s d)) t := by
      intro ch; rw [ht]
      exact ((ripple_setOutcome ch _ d .stopped).trans (ripple_idleTransfer ch _)).trans (ripple_dropReadout ch _ d)
    have sl : ∀ n, t.slot n = s.slot n := fun n => ((R (fun _ => False)).slots n id).trans (o2 n)
    have tt : t.tacho = { ((s.offer (stopFrame s d)).setOutcome d .stopped).tacho with
        transfer := .idle, transferTimer := none, restarted := none, readout := ((s.offer (stopFrame s d)).setOutcome d .stopped).tacho.readout.filter (fun e => decide (e.driver ≠ d)) } := by
      rw [ht]; rfl
    have so : ((s.offer (stopFrame s d)).setOutcome d .stopped).tacho = (s.putDriver d { s.driver d with outcome := .stopped }).tacho := by
      unfold State.setOutcome
      rw [pd]
      generalize ({ s.driver d with outcome := TransferOutcome.stopped } : DriverRecord) = q
      cases d
      · show { (s.offer (stopFrame s .one)).tacho with d1 := q } = { s.tacho with d1 := q }
        rw [o1]
      · show { (s.offer (stopFrame s .two)).tacho with d2 := q } = { s.tacho with d2 := q }
        rw [o1]
    rw [so] at tt
    have dd : ∀ e, t.driver e = (s.putDriver d { s.driver d with outcome := .stopped }).driver e :=
      fun e => driver_tacho (by rw [tt]) (by rw [tt]) e
    refine ⟨?_, fun _ => ⟨?_, ?_⟩, fun hh => absurd h hh, ?_, ⟨?_, ?_, ?_, ?_, ?_, ?_⟩, R, sl⟩
    · rw [tt]; cases d <;> rfl
    · rw [tt]
    · rw [tt]
    · rw [dd, driver_putDriver, if_pos rfl]
    · intro e he; rw [dd, driver_putDriver, if_neg he]
    · rw [tt]; cases d <;> rfl
    · rw [tt]; cases d <;> rfl
    · rw [tt]; cases d <;> rfl
    · rw [tt]; cases d <;> rfl
    · rw [tt]; cases d <;> rfl
  · have e : s.abandonOwn d = s := by unfold State.abandonOwn; rw [if_neg h]
    rw [e] at ht
    have hs : stopsTransfer s d = false := by rw [stopsTransfer_iff]; simp [h]
    rw [hs]
    subst ht
    refine ⟨rfl, fun hh => absurd hh h, fun _ => ⟨rfl, rfl⟩, ?_, ⟨?_, rfl, rfl, rfl, rfl, rfl⟩, fun ch => ripple_dropReadout ch s d, fun _ => rfl⟩
    · cases d <;> rfl
    · intro e _; cases e <;> rfl

/-- A slot written NOT_AVAILABLE keeps its value. -/
theorem writePlain_absent (s : State) (n : Nat) (hn : n < 96) (h13 : n ≠ 13) :
    ((s.writePlain n .notAvailable).slot n).state = .notAvailable ∧
      ((s.writePlain n .notAvailable).slot n).value = (s.slot n).value := by
  have R : Ripple (· = 13) (s.writeRecord n .notAvailable) (s.writePlain n .notAvailable) (fun m => m = n ∨ m = 13) := by
    unfold State.writePlain
    exact (ripple_tell (· = 13) _ n rfl).trans ((ripple_displayEvent _ _ _).wide fun _ h => .inr h)
  rw [R.slots n h13]
  unfold State.writeRecord
  rw [State.slot_putSlot_same s n _ hn]
  exact ⟨rfl, rfl⟩

/-- A card withdrawn (R133). -/
theorem withdrawCard_spec (s : State) (d : Driver) (hok : ReadoutOk s.tacho) : CardWithdrawn s d (s.withdrawCard d) := by
  have e0 : s.withdrawCard d =
      (((((((s.abandonOwn d).dropReadout d).setDriver d (((s.abandonOwn d).dropReadout d).driver d).withdrawn).writeOther (contSlot d) 0).writePlain
        (leftSlot d) .notAvailable).putDriver d
          { ((((((s.abandonOwn d).dropReadout d).setDriver d (((s.abandonOwn d).dropReadout d).driver d).withdrawn).writeOther (contSlot d) 0).writePlain
            (leftSlot d) .notAvailable).driver d) with summary := none }).writeSummary d 0 |>.release (readoutAlert d) (tachoOrigin d)).tryStart := rfl
  generalize s.withdrawCard d = t at *
  obtain ⟨w1, w2, w3, w4, w5, w6, w7⟩ := withdraw_start s d _ rfl
  generalize (s.abandonOwn d).dropReadout d = P at *
  have ok := contSlot_ok d
  have sk := summarySlot_ok d
  have a1 := setDriver_tacho P d (P.driver d).withdrawn
  have a2 := setDriver_ripple P d (P.driver d).withdrawn
  have a4 : (P.setDriver d (P.driver d).withdrawn).tacho = { P.tacho with
      d1 := (P.setDriver d (P.driver d).withdrawn).tacho.d1, d2 := (P.setDriver d (P.driver d).withdrawn).tacho.d2 } := by
    rw [a1]; cases d <;> rfl
  have a3 : ∀ e, (P.setDriver d (P.driver d).withdrawn).driver e = if e = d then (P.driver d).withdrawn else P.driver e := by
    intro e; rw [← driver_putDriver]; exact driver_tacho (by rw [a1]) (by rw [a1]) e
  generalize P.setDriver d (P.driver d).withdrawn = A at *
  have b1 := writeOther_tacho A (contSlot d) 0
  have b2 := ripple_writeOther (fun n => n = contSlot d ∨ n = 13) A (contSlot d) 0 (.inl rfl) (.inr rfl)
  have b3 := writeOther_value A (contSlot d) 0 ok.1 ok.2.1
  generalize A.writeOther (contSlot d) 0 = B at *
  have c1 := writePlain_tacho B (leftSlot d) .notAvailable
  have c2 := ripple_writePlain (fun n => n = leftSlot d ∨ n = 13) B (leftSlot d) .notAvailable (.inl rfl) (.inr rfl)
  have c3 := writePlain_absent B (leftSlot d) ok.2.2.1 ok.2.2.2.1
  generalize B.writePlain (leftSlot d) .notAvailable = C at *
  have d2 := ripple_putDriver (fun _ => False) C d { C.driver d with summary := none } rfl
  have d3 : ∀ e, (C.putDriver d { C.driver d with summary := none }).driver e = if e = d then { C.driver d with summary := none } else C.driver e := fun e => driver_putDriver C d e _
  have d4 : (C.putDriver d { C.driver d with summary := none }).tacho = { C.tacho with
      d1 := (C.putDriver d { C.driver d with summary := none }).tacho.d1, d2 := (C.putDriver d { C.driver d with summary := none }).tacho.d2 } := by
    cases d <;> rfl
  generalize C.putDriver d { C.driver d with summary := none } = D at *
  have e1 := writeOther_tacho D (summarySlot d) 0
  have e2 := ripple_writeOther (fun n => n = summarySlot d ∨ n = 13) D (summarySlot d) 0 (.inl rfl) (.inr rfl)
  have e3 := writeOther_value D (summarySlot d) 0 sk.1 sk.2
  have e0' : t = ((D.writeOther (summarySlot d) 0).release (readoutAlert d) (tachoOrigin d)).tryStart := e0
  generalize D.writeOther (summarySlot d) 0 = E at *
  have r1 := release_tacho E (readoutAlert d) (tachoOrigin d)
  have r2 := ripple_release (· = 13) E (readoutAlert d) (tachoOrigin d) rfl
  have RPE : Ripple onlyTacho P E := by
    have m := fun (n : Nat) (h : n = contSlot d ∨ n = 13) => show onlyTacho n by
      rcases h with h | h
      · rw [h]; exact onlyTacho_cont d
      · rw [h]; exact onlyTacho_top
    have m2 := fun (n : Nat) (h : n = leftSlot d ∨ n = 13) => show onlyTacho n by
      rcases h with h | h
      · rw [h]; exact onlyTacho_left d
      · rw [h]; exact onlyTacho_top
    have m3 := fun (n : Nat) (h : n = summarySlot d ∨ n = 13) => show onlyTacho n by
      rcases h with h | h
      · rw [h]; exact onlyTacho_summary d
      · rw [h]; exact onlyTacho_top
    exact ((a2.mono (fun _ h => h.elim)).trans ((b2.mono m).trans (c2.mono m2))).trans ((d2.mono (fun _ h => h.elim)).trans (e2.mono m3))
  have RET : Ripple onlyTacho (E.release (readoutAlert d) (tachoOrigin d)) t := by
    rw [e0']; exact ripple_tryStart onlyTacho (fun _ h => h) _
  have tE : E.tacho = { P.tacho with d1 := E.tacho.d1, d2 := E.tacho.d2 } := by
    rw [e1, d4, c1, b1, a4]
  have dE : ∀ e, E.driver e = if e = d then { (P.driver d).withdrawn with summary := none } else P.driver e := by
    intro e
    rw [driver_tacho (s := D) (t := E) (by rw [e1]) (by rw [e1]) e, d3]
    have cA : ∀ e, C.driver e = A.driver e := fun e => driver_tacho (by rw [c1, b1]) (by rw [c1, b1]) e
    by_cases h : e = d
    · rw [if_pos h, if_pos h, cA, a3, if_pos rfl]
    · rw [if_neg h, if_neg h, cA, a3, if_neg h]
  generalize hF : E.release (readoutAlert d) (tachoOrigin d) = F at *
  have dF : ∀ e, F.driver e = E.driver e := fun e => driver_tacho (by rw [r1]) (by rw [r1]) e
  have tF : F.tacho = { P.tacho with d1 := F.tacho.d1, d2 := F.tacho.d2 } := by rw [r1, tE]
  have T1 := tryStart_tacho F
  have T3 := tryStart_slots F
  have RsF : Ripple onlyTacho s F := by
    have Y : Ripple onlyTacho s (if stopsTransfer s d then s.offer (stopFrame s d) else s) := by
      split
      · exact ripple_offer _ _ _
      · exact Ripple.refl _ _
    exact Y.trans ((w6 onlyTacho).trans (RPE.trans (r2.mono fun n h => h ▸ onlyTacho_top)))
  have qF : F.tacho.readout = s.tacho.readout.filter (fun e => decide (e.driver ≠ d)) := by rw [tF]; exact w1
  have nq : ∀ e ∈ F.tacho.readout, e.driver ≠ d := by
    rw [qF]; intro e he; simpa using (List.mem_filter.mp he).2
  rw [← e0'] at T1 T3
  have T2 : ∀ e, t.driver e = F.driver e := fun e => by rw [e0']; exact tryStart_drivers F e
  refine ⟨?_, ⟨?_, ?_, ?_, ?_, ?_, ?_⟩, ?_, ?_, ?_, ?_, ?_, ?_, ?_⟩
  · rw [T2, dF, dE, if_pos rfl, w4]; rfl
  · intro e he; rw [T2, dF, dE, if_neg he]; exact w5.1 e he
  · rw [T1, tF]; exact w5.2.1
  · rw [T1, tF]; exact w5.2.2.1
  · rw [T1, tF]; exact w5.2.2.2.1
  · rw [T1, tF]; exact w5.2.2.2.2.1
  · rw [T1, tF]; exact w5.2.2.2.2.2
  · rw [T3.slots _ (contLeft_apart d).1, r2.slots _ ok.2.1, e2.slots, d2.slots _ id, c2.slots]
    · exact b3
    · rintro (h | h); exact ok.2.2.2.2 h; exact ok.2.1 h
    · rintro (h | h); exact (contLeft_summary d d).1 h; exact ok.2.1 h
  · rw [T3.slots _ (contLeft_apart d).2, r2.slots _ ok.2.2.2.1, e2.slots, d2.slots _ id]
    · exact c3.1
    · rintro (h | h); exact (contLeft_summary d d).2 h; exact ok.2.2.2.1 h
  · rw [T3.slots _ (contLeft_apart d).2, r2.slots _ ok.2.2.2.1, e2.slots, d2.slots _ id, c3.2, b2.slots, a2.slots _ id, w7]
    · rintro (h | h); exact ok.2.2.2.2 h.symm; exact ok.2.2.2.1 h
    · rintro (h | h); exact (contLeft_summary d d).2 h; exact ok.2.2.2.1 h
  · have key : F.tryStart.slot (summarySlot d) = F.slot (summarySlot d) := by
      by_cases hi : F.tacho.transfer = .idle
      · unfold State.tryStart; rw [hi]
        cases hr : F.tacho.readout with
        | nil => rfl
        | cons e l =>
          simp only []
          split
          · apply (startTransfer_spec F e l).2.2.slots
            rintro (h | h)
            · exact summarySlot_inj (nq e (by rw [hr]; exact List.mem_cons_self)) h.symm
            · exact sk.2 h
          · rfl
      · rw [tryStart_not F (.inl hi)]
    rw [e0', key, r2.slots _ sk.2]; exact e3
  · intro h
    have hi : F.tacho.transfer = .idle ∧ F.tacho.transferTimer = none := by
      rw [tF]
      by_cases hd : s.tacho.transfer.driver = some d
      · exact w2 hd
      · have hi := h.resolve_left hd
        exact ⟨(w3 hd).1.trans hi, (w3 hd).2.trans (hok.2.2 hi)⟩
    have N := (tryStart_spec F hi.1 hi.2).1
    rw [qF, ← e0'] at N
    exact next_back RsF N
  · intro h1 h2
    have hF' : F.tacho.transfer ≠ .idle := by rw [tF]; show P.tacho.transfer ≠ _; rw [(w3 h1).1]; exact h2
    rw [e0', tryStart_not F (.inl hF')]
    refine ⟨qF, ?_, ?_⟩
    · rw [tF]; exact (w3 h1).1
    · rw [tF]; exact (w3 h1).2
  · refine ⟨E, (w6 onlyTacho).trans RPE, ?_⟩
    rw [← readoutAlert_eq]
    have : (Origin.tacho d.number) = tachoOrigin d := rfl
    rw [this, hF]; exact RET

/-! ### Judgements -/

/-- The tachograph speed, as the statements read it. -/
theorem tachoSpeed_iff (s : State) (v : Int) : s.tachoSpeed = some v ↔ TachoSpeedIs s v := by
  unfold State.tachoSpeed State.paramSlot TachoSpeedIs State.paramNat
  by_cases h : 0 ≤ s.param 10
  · rw [if_pos h]
    simp only []
    constructor
    · intro hh
      by_cases hf : (s.slot (s.param 10).toNat).state = .fresh
      · rw [if_pos hf] at hh
        exact ⟨(s.param 10).toNat, by omega, hf, by simpa using hh⟩
      · rw [if_neg hf] at hh; exact nomatch hh
    · rintro ⟨n, h1, h2, h3⟩
      have : (s.param 10).toNat = n := by omega
      rw [this, if_pos h2, h3]
  · rw [if_neg h]
    simp only []
    constructor
    · intro hh; exact nomatch hh
    · rintro ⟨n, h1, _⟩; omega

theorem side_ne_symm {a b : MismatchSide} : (a = b) = (b = a) := propext eq_comm

/-- A judgement of the monitor (R146, R147). -/
theorem judgeMismatch_spec (s : State) : SpeedJudged s s.judgeMismatch ∧
    s.judgeMismatch = { s with tacho.side := s.judgeMismatch.tacho.side, tacho.mismatchTimer := s.judgeMismatch.tacho.mismatchTimer } := by
  unfold SpeedJudged State.judgeMismatch
  cases hc : s.checking with
  | none =>
    refine ⟨⟨fun _ => ⟨rfl, rfl⟩, fun v side h1 h2 h3 _ => ?_⟩, rfl⟩
    unfold State.checking at hc
    rw [if_pos h1, (tachoSpeed_iff s v).mpr h2] at hc
    simp [Option.filter, h3] at hc
  | some v =>
    have hh : (s.slot 0).state = .fresh ∧ TachoSpeedIs s v ∧ 1000 ≤ v := by
      unfold State.checking at hc
      by_cases h1 : (s.slot 0).state = .fresh
      · rw [if_pos h1] at hc
        have := Option.filter_eq_some_iff.mp hc
        exact ⟨h1, (tachoSpeed_iff s v).mp this.1, by simpa using this.2⟩
      · rw [if_neg h1] at hc; exact nomatch hc
    refine ⟨⟨fun h => ?_, fun w side h1 h2 h3 hs => ?_⟩, ?_⟩
    · rcases h with h | h
      · exact absurd hh.1 h
      · have := h v hh.2.1; omega
    · have hw : w = v := by
        have a := (tachoSpeed_iff s w).mpr h2
        have b := (tachoSpeed_iff s v).mpr hh.2.1
        rw [a] at b; exact Option.some.inj b
      subst hw
      have hs' : mismatchSide w (s.slot 0).value (s.param 21) = side := by rw [hs]; rfl
      simp only [hs']
      by_cases hq : side = s.tacho.side
      · rw [if_pos hq, if_pos hq]; exact ⟨hq.symm, rfl⟩
      · rw [if_neg hq, if_neg hq]
        refine ⟨rfl, ?_⟩
        show some (s.clock + ms (1000 * s.paramNat 22)) = _
        unfold ms; congr 2; omega
    · simp only []
      split <;> rfl

/-- A judgement of the watch (R148). -/
theorem judgeWatch_spec (s : State) : WatchJudged s s.judgeWatch ∧
    s.judgeWatch = { s with tacho.watch := s.judgeWatch.tacho.watch } := by
  have hw : s.watchHolds = true ↔ s.table.silentMark = false ∧ ∃ v, TachoSpeedIs s v ∧ 2000 ≤ v := by
    unfold State.watchHolds
    simp only [Bool.and_eq_true, Bool.not_eq_true', Option.isSome_iff_exists, Option.filter_eq_some_iff, tachoSpeed_iff]
    simp
  unfold WatchJudged State.judgeWatch
  by_cases h : s.watchHolds = true
  · have k := hw.mp h
    rw [if_pos h]
    refine ⟨⟨fun _ _ => ?_, fun hh => ?_⟩, ?_⟩
    · cases hx : s.tacho.watch with
      | none => simp [State.after, ms]
      | some d => simp [hx]
    · rcases hh with hh | hh
      · rw [k.1] at hh; exact nomatch hh
      · obtain ⟨v, h1, h2⟩ := k.2; have := hh v h1; omega
    · split <;> rfl
  · rw [if_neg h]
    refine ⟨⟨fun h1 h2 => absurd (hw.mpr ⟨h2, h1⟩) h, fun _ => rfl⟩, rfl⟩

end Sys2Proof.Machine
end

