-- ==== Sys2Proof/Laws/Fields.lean ====
section
/-! SUPPORT. The numbers in the bytes of a frame and the answers to a request (R13, R165, R193). -/

namespace Sys2Proof.Machine

/-- Data of at most four bytes, with zeros behind it, as four bytes. -/
theorem pad4 (d : List Byte) (h : d.length ≤ 4) : (d ++ [0,0,0,0]).take 4 = [d.getD 0 0, d.getD 1 0, d.getD 2 0, d.getD 3 0] := by
  rcases d with _|⟨a,_|⟨b,_|⟨c,_|⟨e,_|⟨f,l⟩⟩⟩⟩⟩ <;> simp_all

/-- A byte of a record is below 256. -/
theorem byte_lt (r : FrameRecord) (i : Nat) : r.byte i < 256 := (r.data.getD i 0).isLt

/-- Frame bit `i` is bit `i % 8` of byte `i / 8` (00_scope.md, Frame bytes and bits). -/
theorem frameBits_testBit (d : List Byte) : ∀ i, (frameBits d).testBit i = (d.getD (i / 8) 0).getLsbD (i % 8) := by
  unfold frameBits
  induction d with
  | nil => intro i; simp [leNat]
  | cons b l ih =>
    intro i
    have : leNat (b :: l) = 2^8 * leNat l + b.toNat := by simp [leNat]; omega
    rw [this, Nat.testBit_two_pow_mul_add _ b.isLt]
    by_cases h : i < 8
    · have h0 : i / 8 = 0 := by omega
      have h1 : i % 8 = i := by omega
      simp [h, h0, h1, BitVec.getLsbD]
    · have h0 : i / 8 = (i - 8) / 8 + 1 := by omega
      have h1 : (i - 8) % 8 = i % 8 := by omega
      simp only [h, if_false]
      rw [ih (i-8), h0, h1]; simp

/-- Bytes taken with the first most significant are the reversed bytes taken with the first least significant. -/
theorem beNat_fold (l : List Byte) : ∀ acc, l.foldl (fun acc (b : Byte) => acc * 256 + b.toNat) acc = acc * 256 ^ l.length + leNat l.reverse := by
  induction l with
  | nil => intro acc; simp [leNat]
  | cons b l ih =>
    intro acc
    have app : ∀ (x y : List Byte), leNat (x ++ y) = leNat x + 256 ^ x.length * leNat y := by
      intro x; induction x with
      | nil => intro y; simp [leNat]
      | cons c x ihx => intro y; simp [leNat, ihx, Nat.pow_succ, Nat.mul_add, Nat.mul_comm, Nat.mul_assoc]; omega
    simp only [List.foldl_cons, ih, List.length_cons, List.reverse_cons, app, leNat, List.length_reverse]
    simp [Nat.add_mul, Nat.pow_succ, Nat.mul_comm, Nat.mul_assoc]; omega

end Sys2Proof.Machine
end

