-- ==== Sys2Proof/Laws/Frames.lean ====
section
/-! SUPPORT. What the frames of a card transfer hold, the CRC-16 and the payload of a card summary, each said once (R137, R140, R141,
R194, R195). -/

namespace Sys2Proof.Machine

/-- A driver number names its driver. -/
theorem driverOf_iff (n : Nat) (d : Driver) : driverOf n = some d ↔ n = d.number := by
  unfold driverOf
  split <;> cases d <;> simp_all [Driver.number]

/-- The kind and the driver of byte 0. -/
theorem nibbles (b k : Nat) (d : Driver) : b = 16 * k + d.number ↔ b / 16 = k ∧ b % 16 = d.number := by
  have h : d.number < 16 := by cases d <;> decide
  omega

/-- The driver of byte 0 is the one it names. -/
theorem driverOf_same {n : Nat} {e : Driver} (h : driverOf n = some e) (d : Driver) : n = d.number ↔ e = d := by
  rw [← driverOf_iff, h]
  exact ⟨Option.some.inj, congrArg some⟩

/-- A transfer frame read (R194). -/
theorem readXfer_spec (r : FrameRecord) (d : Driver) : XferLayout r d := by
  unfold XferLayout readXfer
  rw [show 0x10 + d.number = 16 * 1 + d.number from rfl, show 0x20 + d.number = 16 * 2 + d.number from rfl,
    show 0x30 + d.number = 16 * 3 + d.number from rfl, show 0x40 + d.number = 16 * 4 + d.number from rfl]
  simp only [nibbles]
  cases h : driverOf (r.byte 0 % 16) with
  | none =>
    have n : ¬ r.byte 0 % 16 = d.number := fun q => by rw [(driverOf_iff _ d).mpr q] at h; exact nomatch h
    simp [n]
  | some e =>
    simp only [driverOf_same h d]
    generalize r.byte 0 / 16 = k
    refine ⟨fun total => ?_, fun number bytes => ?_, fun crc => ?_, ?_⟩
    · split <;> (try split) <;> simp_all [eq_comm]
    · split <;> (try split) <;> simp_all [eq_comm]
    · split <;> (try split) <;> simp_all [eq_comm, Nat.mul_comm 256]
    · split <;> (try split) <;> simp_all [eq_comm]

/-- A frame is stray to a transfer exactly where the transfer does not take it (R137). -/
theorem takes_iff (t : Transfer) (f : XferFrame) : t.takes f = false ↔ StrayTo t f := by
  unfold StrayTo
  cases t with
  | idle => simp [Transfer.takes]
  | requested d k =>
    cases f <;> simp [Transfer.takes, Transfer.driver, XferFrame.driver, eq_comm]
  | receiving d k a b c p =>
    cases f <;> simp [Transfer.takes, Transfer.driver, XferFrame.driver, eq_comm]

/-- The CRC-16 by its bytes (R140). -/
theorem crc16_step (bytes : List Byte) (b : Byte) :
    crc16 (bytes ++ [b]) = (crcShift^[8]) (crc16 bytes ^^^ (b.setWidth 16 <<< 8)) := by
  have hs : crcBit = crcShift := by
    funext x
    unfold crcBit crcShift
    rw [BitVec.msb_eq_getLsbD_last]
    rfl
  unfold crc16
  rw [List.foldl_append]
  simp only [List.foldl_cons, List.foldl_nil]
  unfold crcByte
  rw [hs]
  have hb : BitVec.ofNat 16 b.toNat = b.setWidth 16 := by
    apply BitVec.eq_of_toNat_eq; simp
  rw [hb]
  rfl

/-- A list with more than `n` elements has a head, and `n` behind it. -/
theorem uncons {l : List Byte} {n : Nat} (h : n + 1 ≤ l.length) : ∃ a t, l = a :: t ∧ n ≤ t.length := by
  cases l with
  | nil => simp at h
  | cons a t => exact ⟨a, t, rfl, by simpa using h⟩

/-- Two bytes are the pair of the field that they hold. -/
theorem pairOf_bytes (a b : Byte) : pairOf (a.toNat + 256 * b.toNat) = [a, b] := by
  unfold pairOf
  have ha := a.isLt
  have hb := b.isLt
  rw [show (a.toNat + 256 * b.toNat) % 256 = a.toNat by omega, show (a.toNat + 256 * b.toNat) / 256 = b.toNat by omega]
  simp

/-- The pair of a field holds it. -/
theorem pairOf_read {v : Nat} (h : v < 65536) : ∃ a b : Byte, pairOf v = [a, b] ∧ a.toNat + 256 * b.toNat = v := by
  refine ⟨BitVec.ofNat 8 (v % 256), BitVec.ofNat 8 (v / 256), rfl, ?_⟩
  simp only [BitVec.toNat_ofNat]
  omega

/-- Bit 0 of a byte. -/
theorem bit0 (b : Byte) : b.getLsbD 0 = decide (b.toNat % 2 = 1) := by
  revert b; decide

/-- Bit 1 of a byte. -/
theorem bit1 (b : Byte) : b.getLsbD 1 = decide (b.toNat / 2 % 2 = 1) := by
  revert b; decide

/-- A printable character (R141). -/
theorem printable_iff (b : Byte) : printable b = true ↔ 0x20 ≤ b.toNat ∧ b.toNat ≤ 0x7E := by
  simp [printable]

/-- A list of at least 24 bytes, its first 24 named. -/
theorem named24 {q : List Byte} (h : 24 ≤ q.length) :
    ∃ b0 c0 c1 c2 c3 c4 c5 c6 c7 c8 c9 c10 c11 c12 c13 c14 c15 y0 y1 mo da k0 k1 pr rest,
      q = [b0, c0, c1, c2, c3, c4, c5, c6, c7, c8, c9, c10, c11, c12, c13, c14, c15, y0, y1, mo, da, k0, k1, pr] ++ rest := by
  obtain ⟨b0, q0, e0, h0⟩ := uncons h
  obtain ⟨c0, q1, e1, h1⟩ := uncons h0
  obtain ⟨c1, q2, e2, h2⟩ := uncons h1
  obtain ⟨c2, q3, e3, h3⟩ := uncons h2
  obtain ⟨c3, q4, e4, h4⟩ := uncons h3
  obtain ⟨c4, q5, e5, h5⟩ := uncons h4
  obtain ⟨c5, q6, e6, h6⟩ := uncons h5
  obtain ⟨c6, q7, e7, h7⟩ := uncons h6
  obtain ⟨c7, q8, e8, h8⟩ := uncons h7
  obtain ⟨c8, q9, e9, h9⟩ := uncons h8
  obtain ⟨c9, q10, e10, h10⟩ := uncons h9
  obtain ⟨c10, q11, e11, h11⟩ := uncons h10
  obtain ⟨c11, q12, e12, h12⟩ := uncons h11
  obtain ⟨c12, q13, e13, h13⟩ := uncons h12
  obtain ⟨c13, q14, e14, h14⟩ := uncons h13
  obtain ⟨c14, q15, e15, h15⟩ := uncons h14
  obtain ⟨c15, q16, e16, h16⟩ := uncons h15
  obtain ⟨y0, q17, e17, h17⟩ := uncons h16
  obtain ⟨y1, q18, e18, h18⟩ := uncons h17
  obtain ⟨mo, q19, e19, h19⟩ := uncons h18
  obtain ⟨da, q20, e20, h20⟩ := uncons h19
  obtain ⟨k0, q21, e21, h21⟩ := uncons h20
  obtain ⟨k1, q22, e22, h22⟩ := uncons h21
  obtain ⟨pr, q23, e23, h23⟩ := uncons h22
  refine ⟨b0, c0, c1, c2, c3, c4, c5, c6, c7, c8, c9, c10, c11, c12, c13, c14, c15, y0, y1, mo, da, k0, k1, pr, q23, ?_⟩
  subst_vars
  rfl

/-- A payload that is taken has the layout of R195. -/
theorem parse_layout {total : Nat} {p : List Byte} {m : Summary} (hl : p.length = total)
    (h : parseSummary total p = some m) : SummaryLayout total p m := by
  have h24 : 24 ≤ p.length := by
    unfold parseSummary at h
    rw [hl]
    by_cases hd : (p.getD 23 0).toNat % 2 = 1 <;> by_cases hw : (p.getD 23 0).toNat / 2 % 2 = 1 <;>
      simp only [hd, hw, if_true, if_false] at h <;> split at h
    all_goals first
      | exact absurd h (Option.some_ne_none m).symm
      | (rename_i c; have c1 := c.1; clear c h; omega)
  obtain ⟨b0, c0, c1, c2, c3, c4, c5, c6, c7, c8, c9, c10, c11, c12, c13, c14, c15, y0, y1, mo, da, k0, k1, pr, q, rfl⟩ :=
    named24 h24
  unfold parseSummary at h
  simp only [List.getD_cons_succ, List.getD_cons_zero, List.cons_append, List.nil_append, List.drop_succ_cons,
    List.drop_zero, List.take_succ_cons, List.take_zero] at h
  simp only [List.length_append, List.length_cons, List.length_nil] at hl
  clear h24
  by_cases hd : pr.toNat % 2 = 1 <;> by_cases hw : pr.toNat / 2 % 2 = 1 <;>
    simp only [hd, hw, if_true, if_false, Nat.reduceAdd, List.getD_cons_succ, List.drop_succ_cons] at h
  all_goals
    split at h
    case isFalse => exact absurd h (Option.some_ne_none m).symm
    rename_i c
    have hm := Option.some.inj h
    clear h
  on_goal 1 =>
    obtain ⟨d0, q, rfl, h1⟩ := uncons (show 5 ≤ q.length by omega)
    obtain ⟨d1, q, rfl, h2⟩ := uncons h1
    obtain ⟨w0, q, rfl, h3⟩ := uncons h2
    obtain ⟨w1, q, rfl, h4⟩ := uncons h3
    obtain ⟨nl, q, rfl, _⟩ := uncons h4
  on_goal 2 =>
    obtain ⟨d0, q, rfl, h1⟩ := uncons (show 3 ≤ q.length by omega)
    obtain ⟨d1, q, rfl, h2⟩ := uncons h1
    obtain ⟨nl, q, rfl, _⟩ := uncons h2
  on_goal 3 =>
    obtain ⟨w0, q, rfl, h1⟩ := uncons (show 3 ≤ q.length by omega)
    obtain ⟨w1, q, rfl, h2⟩ := uncons h1
    obtain ⟨nl, q, rfl, _⟩ := uncons h2
  on_goal 4 =>
    obtain ⟨nl, q, rfl, _⟩ := uncons (show 1 ≤ q.length by omega)
  all_goals
    simp only [List.length_cons, List.getD_cons_succ, List.getD_cons_zero, List.drop_succ_cons, List.drop_zero] at hl c hm
    have ht : List.take nl.toNat q = q := List.take_of_length_le (by omega)
    have hn : nl.toNat = q.length := by omega
    simp only [ht, Option.getD, List.all_eq_true, printable_iff] at c hm
    subst hm
    obtain ⟨_, _, z, p1, p2, r1, r2, r3, r4, r5, r6, r7, r8⟩ := c
    have h1 : b0 = 1 := BitVec.eq_of_toNat_eq z
    subst h1
    refine ⟨pr, ?_⟩
    simp only [pairOf_bytes, List.cons_append, List.nil_append, BitVec.ofNat_toNat, BitVec.setWidth_eq, ← hn, bit0, bit1, hd, hw,
      decide_true, decide_false, Option.isSome, List.length_cons, List.length_nil, reduceCtorEq, if_true, if_false]
    refine ⟨trivial, by omega, trivial, fun b hb => ?_, by omega, r1, r2, r3, r4, r5, r6, trivial, trivial, fun v hv => ?_,
      fun v hv => ?_⟩
    · exact (List.mem_append.mp (show b ∈ [_, _, _, _, _, _, _, _, _, _, _, _, _, _, _, _] ++ _ from hb)).elim (p1 b) (p2 b)
    all_goals first
      | (rw [← Option.some.inj hv]; assumption)
      | exact hv.elim

/-- A list of 16 bytes, each named. -/
theorem named16 {q : List Byte} (h : q.length = 16) :
    ∃ c0 c1 c2 c3 c4 c5 c6 c7 c8 c9 c10 c11 c12 c13 c14 c15,
      q = [c0, c1, c2, c3, c4, c5, c6, c7, c8, c9, c10, c11, c12, c13, c14, c15] := by
  have h0 : 16 ≤ q.length := h.ge
  obtain ⟨c0, q1, e1, h1⟩ := uncons h0
  obtain ⟨c1, q2, e2, h2⟩ := uncons h1
  obtain ⟨c2, q3, e3, h3⟩ := uncons h2
  obtain ⟨c3, q4, e4, h4⟩ := uncons h3
  obtain ⟨c4, q5, e5, h5⟩ := uncons h4
  obtain ⟨c5, q6, e6, h6⟩ := uncons h5
  obtain ⟨c6, q7, e7, h7⟩ := uncons h6
  obtain ⟨c7, q8, e8, h8⟩ := uncons h7
  obtain ⟨c8, q9, e9, h9⟩ := uncons h8
  obtain ⟨c9, q10, e10, h10⟩ := uncons h9
  obtain ⟨c10, q11, e11, h11⟩ := uncons h10
  obtain ⟨c11, q12, e12, h12⟩ := uncons h11
  obtain ⟨c12, q13, e13, h13⟩ := uncons h12
  obtain ⟨c13, q14, e14, h14⟩ := uncons h13
  obtain ⟨c14, q15, e15, h15⟩ := uncons h14
  obtain ⟨c15, q16, e16, h16⟩ := uncons h15
  refine ⟨c0, c1, c2, c3, c4, c5, c6, c7, c8, c9, c10, c11, c12, c13, c14, c15, ?_⟩
  subst_vars
  simp only [List.length_cons, Nat.reduceEqDiff, List.length_eq_zero_iff] at h
  rw [h]

/-- A payload with the layout of R195 is taken. -/
theorem layout_parse {total : Nat} {p : List Byte} {m : Summary} (h : SummaryLayout total p m) :
    parseSummary total p = some m := by
  obtain ⟨card, year, month, day, cont, daily, weekly, name⟩ := m
  obtain ⟨pr, hp, ht, hc, hb, hy, m1, m2, d1, d2, hk, hn, q0, q1, hd, hw⟩ := h
  simp only at hp ht hc hb hy m1 m2 d1 d2 hk hn q0 q1 hd hw
  obtain ⟨c0, c1, c2, c3, c4, c5, c6, c7, c8, c9, c10, c11, c12, c13, c14, c15, rfl⟩ := named16 hc
  obtain ⟨y0, y1, ey, vy⟩ := pairOf_read hy
  obtain ⟨k0, k1, ek, vk⟩ := pairOf_read (v := cont) (by omega)
  have em : (BitVec.ofNat 8 month).toNat = month := by simp only [BitVec.toNat_ofNat]; omega
  have ed : (BitVec.ofNat 8 day).toNat = day := by simp only [BitVec.toNat_ofNat]; omega
  have en : (BitVec.ofNat 8 name.length).toNat = name.length := by simp only [BitVec.toNat_ofNat]; omega
  have pc : [c0, c1, c2, c3, c4, c5, c6, c7, c8, c9, c10, c11, c12, c13, c14, c15].all printable = true := by
    rw [List.all_eq_true]
    exact fun b h => (printable_iff b).mpr (hb b (List.mem_append_left _ h))
  have pn : name.all printable = true := by
    rw [List.all_eq_true]
    exact fun b h => (printable_iff b).mpr (hb b (List.mem_append_right _ h))
  rw [bit0] at q0
  rw [bit1] at q1
  rw [ey, ek] at hp
  unfold parseSummary
  rcases daily with _ | v <;> rcases weekly with _ | w
  all_goals
    simp only [Option.isSome, decide_eq_false_iff_not, decide_eq_true_eq] at q0 q1
  on_goal 2 => obtain ⟨w0, w1, ew, vw⟩ := pairOf_read (Nat.lt_of_le_of_lt (hw w rfl) (by decide))
  on_goal 3 => obtain ⟨v0, v1, ev, vv⟩ := pairOf_read (Nat.lt_of_le_of_lt (hd v rfl) (by decide))
  on_goal 4 =>
    obtain ⟨v0, v1, ev, vv⟩ := pairOf_read (Nat.lt_of_le_of_lt (hd v rfl) (by decide))
    obtain ⟨w0, w1, ew, vw⟩ := pairOf_read (Nat.lt_of_le_of_lt (hw w rfl) (by decide))
  all_goals
    simp only [List.cons_append, List.nil_append, *] at hp
    simp only [reduceCtorEq, if_true, if_false, eq_self] at ht
    subst hp
    simp only [List.getD_cons_succ, List.getD_cons_zero, List.drop_succ_cons, List.drop_zero, List.take_succ_cons,
      List.take_zero, if_false, if_true, List.take_length, *]
    rw [if_pos]
    refine ⟨by omega, trivial, rfl, trivial, trivial, trivial, trivial, trivial, trivial, trivial, trivial, ?_, ?_⟩
    all_goals first
      | exact hd _ rfl
      | exact hw _ rfl
      | exact Nat.zero_le _

/-- The payload of a card summary (R141, R195). -/
theorem parse_spec {total : Nat} {p : List Byte} (m : Summary) (hl : p.length = total) :
    parseSummary total p = some m ↔ SummaryLayout total p m :=
  ⟨parse_layout hl, layout_parse⟩

end Sys2Proof.Machine
end

