-- ==== Sys2Proof/Laws/Inputs.lean ====
section
/-! SUPPORT. The debounced inputs, the display link and the records it sends (R95, R106, R151 to R157). -/

namespace Sys2Proof.Machine

/-- The filters and the buttons run. -/
theorem awake_on (s : State) (h1 : s.powered = true) (h2 : s.ign.power ≠ .sleep) : s.awake = true := by simp [State.awake, h1, h2]

/-- The filters and the buttons stand still. -/
theorem awake_off (s : State) (h : s.powered = false ∨ s.ign.power = .sleep) : s.awake = false := by rcases h with h | h <;> simp [State.awake, h]

/-- A release that has lasted (R95, R157). -/
theorem releaseDone_iff (t : Timer) (now : Nat) : releaseDone t now = true ↔ ∃ due, t = some due ∧ due ≤ now := by
  unfold releaseDone; cases t <;> simp

/-- A record has its length. -/
theorem padTo_length (n : Nat) (b : List Byte) : (padTo n b).length = n := by simp [padTo]

/-- Four characters of a card number or a name. -/
theorem fourFrom_eq (c : List Byte) (p : Nat) : fourFrom c p = [c.getD (4 * p) 0, c.getD (4 * p + 1) 0, c.getD (4 * p + 2) 0, c.getD (4 * p + 3) 0] := by
  unfold fourFrom
  have : ∀ i, c.getD (4 * p + i) 0 = (c.drop (4 * p)).getD i 0 := by intro i; simp [List.getD_eq_getElem?_getD]
  rw [show c.getD (4 * p) 0 = (c.drop (4 * p)).getD 0 0 from this 0, this 1, this 2, this 3]
  generalize c.drop (4 * p) = d
  rcases d with _ | ⟨a, _ | ⟨b, _ | ⟨c, _ | ⟨e, l⟩⟩⟩⟩ <;> simp

end Sys2Proof.Machine
end

