-- ==== Sys2Proof/Laws/Stack.lean ====
section
/-! SUPPORT. A push and a release where no rule names slot 13 and nothing is on its way (R90 to R94). -/

namespace Sys2Proof.Machine

/-- What a change of the Alert Stack leaves where no rule names slot 13. -/
structure Calm (s t : State) : Prop where
  rules : t.telltale.rules = s.telltale.rules
  backlog : t.alert.backlog = s.alert.backlog
  lost : t.alert.lost = s.alert.lost
  stack : t.alert.stack = s.alert.stack
  link : t.display.link = .off ↔ s.display.link = .off
  power : t.ign.power = s.ign.power

/-- Nothing done. -/
theorem Calm.refl (s) : Calm s s := ⟨rfl, rfl, rfl, rfl, Iff.rfl, rfl⟩

/-- One after the other. -/
theorem Calm.trans {s t u} (h : Calm s t) (k : Calm t u) : Calm s u := ⟨k.1.trans h.1, k.2.trans h.2, k.3.trans h.3, k.4.trans h.4, k.5.trans h.5, k.6.trans h.6⟩

/-- A mark in the dirty set. -/
theorem calm_dirty (s k) : Calm s (s.markDirty k) := by
  have := (ripple_markDirty (fun _ => True) s k).link.1
  obtain ⟨d, h⟩ := markDirty_only s k
  rw [h] at this ⊢
  exact ⟨rfl, rfl, rfl, rfl, this, rfl⟩

/-- A change of slot 13 as the dim slot. -/
theorem calm_dimEvent (s n) : Calm s (s.dimEvent n) := by
  unfold State.dimEvent; split
  · unfold State.updateDuty; split
    · exact Calm.refl s
    · exact Calm.trans (t := { s with telltale.duty := s.dutyNow }) ⟨rfl, rfl, rfl, rfl, Iff.rfl, rfl⟩ (calm_dirty _ _)
  · exact Calm.refl s

/-- The dimming leaves the alert block and the queues alone. -/
theorem quiet_dim (s : State) (n : Nat) : (s.dimEvent n).alert = s.alert ∧ (s.dimEvent n).intake = s.intake := by
  unfold State.dimEvent State.updateDuty State.markDirty
  split
  · split
    · exact ⟨rfl, rfl⟩
    · split <;> exact ⟨rfl, rfl⟩
  · exact ⟨rfl, rfl⟩

/-- No rule to evaluate. -/
theorem gatherRules_unwatched (s : State) {n : Nat} (h : s.watched n = false) : s.gatherRules n = (s, []) := by unfold State.gatherRules; rw [if_neg (by simp [h])]

/-- Slot 13 takes the top severity (R93). -/
theorem showTop_spec (s : State) (h : s.watched 13 = false) : Calm s s.showTop.1 ∧ s.showTop.2 = [] ∧ (s.showTop.1.slot 13).value = topSeverity s.alert.stack := by
  unfold State.showTop
  split
  · unfold State.writeTop
    have hw : State.watched (((s.writeRecord 13 (.fresh (topSeverity s.alert.stack))).gaugeEvent 13)) 13 = false := h
    rw [gatherRules_unwatched _ hw]
    refine ⟨?_, rfl, ?_⟩
    · exact Calm.trans (t := (s.writeRecord 13 (.fresh (topSeverity s.alert.stack))).gaugeEvent 13) ⟨rfl, rfl, rfl, rfl, Iff.rfl, rfl⟩ ((calm_dimEvent _ _).trans (calm_dirty _ _))
    · have r1 := (ripple_dimEvent (fun _ => False) ((s.writeRecord 13 (.fresh (topSeverity s.alert.stack))).gaugeEvent 13) 13).slots 13 (fun x => x)
      have r2 := (ripple_displayEvent (fun _ => False) (((s.writeRecord 13 (.fresh (topSeverity s.alert.stack))).gaugeEvent 13).dimEvent 13) 13).slots 13 (fun x => x)
      simp only []
      rw [r2, r1]
      have : ((s.writeRecord 13 (.fresh (topSeverity s.alert.stack))).gaugeEvent 13).slot 13 = (s.writeRecord 13 (.fresh (topSeverity s.alert.stack))).slot 13 := rfl
      rw [this, State.slot_writeRecord_same _ _ _ (by decide)]; rfl
  · rename_i hc
    refine ⟨Calm.refl s, rfl, ?_⟩
    by_cases he : (s.slot 13).value = topSeverity s.alert.stack
    · exact he
    · exact absurd (.inr he) hc

/-- The check of a STOP pattern (R103). -/
theorem calm_stopCheck (s) : Calm s s.chimeStopCheck := by
  unfold State.chimeStopCheck
  split
  · exact Calm.refl s
  · split
    · exact ⟨rfl, rfl, rfl, rfl, Iff.rfl, rfl⟩
    · exact Calm.refl s

/-- A chime request. -/
theorem calm_request (s p) : Calm s (s.chimeRequest? p) := by
  cases p with
  | none => exact Calm.refl s
  | some p =>
    show Calm s (s.chimeRequest p)
    unfold State.chimeRequest State.chimeStart
    split
    · split
      · split <;> exact ⟨rfl, rfl, rfl, rfl, Iff.rfl, rfl⟩
      · split
        · exact Calm.refl s
        · split <;> exact ⟨rfl, rfl, rfl, rfl, Iff.rfl, rfl⟩
    · exact Calm.refl s

/-- Everything that follows a change of the stack. -/
theorem stackChanged_spec (s : State) (p) (h : s.watched 13 = false) : Calm s (s.stackChanged p).1 ∧ (s.stackChanged p).2 = [] ∧ ((s.stackChanged p).1.slot 13).value = topSeverity s.alert.stack ∧
   (s.display.link ≠ .off → (s.stackChanged p).1.display.dirty.topAlert = true ∧ (s.stackChanged p).1.display.dirty.alertList = true) := by
  have ht := showTop_spec s h
  unfold State.stackChanged
  simp only []
  refine ⟨?_, ht.2.1, ?_, ?_⟩
  · exact ht.1.trans ((calm_dirty _ _).trans ((calm_stopCheck _).trans (calm_request _ _)))
  · rw [← ht.2.2]
    have r := ((ripple_markDirty (fun _ => False) s.showTop.1 [.topAlert, .alertList]).trans ((ripple_chimeStopCheck _ _).trans (ripple_chimeRequest? _ _ p))).slots 13 (fun x => x)
    rw [r]
  · intro hl
    have hl' : s.showTop.1.display.link ≠ .off := fun x => hl (ht.1.link.mp x)
    have hd : (s.showTop.1.markDirty [.topAlert, .alertList]).display.dirty.topAlert = true ∧ (s.showTop.1.markDirty [.topAlert, .alertList]).display.dirty.alertList = true := by
      unfold State.markDirty
      rw [if_neg hl']
      simp only [Display.poll]
      split
      · unfold Display.send; split <;> exact ⟨rfl, rfl⟩
      · exact ⟨rfl, rfl⟩
    have e : ∀ u : State, (u.chimeStopCheck.chimeRequest? p).display = u.display := by
      intro u
      have e1 : u.chimeStopCheck.display = u.display := by unfold State.chimeStopCheck; split; rfl; split <;> rfl
      rw [← e1]
      cases p with
      | none => rfl
      | some p => obtain ⟨b, h⟩ := chimeRequest_only u.chimeStopCheck p; show (u.chimeStopCheck.chimeRequest p).display = _; rw [h]
    rw [e]; exact hd

/-- Whether a rule names slot 13 depends on the rules alone. -/
theorem watched_rules {s t : State} {n : Nat} (h : t.telltale.rules = s.telltale.rules) : t.watched n = s.watched n := by unfold State.watched; rw [h]

/-- One action sent, with nothing behind it. -/
theorem send_one (s : State) (a : AlertAction) (hb : s.alert.backlog = []) (hn : (s.takeAction a).2 = [])
   (hb2 : (s.takeAction a).1.alert.backlog = []) (hw : (s.takeAction a).1.watched 13 = false) : s.send [a] = (s.takeAction a).1 := by
  unfold State.send
  rw [if_neg (by simp), hb]
  show (State.drain 256 [a] s).settleTop = _
  have : State.drain 256 [a] s = (s.takeAction a).1 := by
    show State.drain 255 ([] ++ (s.takeAction a).2) (s.takeAction a).1 = _
    rw [hn]
    show ({ (s.takeAction a).1 with alert.backlog := [] } : State) = _
    rw [← hb2]
  rw [this]; unfold State.settleTop; rw [hw]; rfl

/-- A push is its one action. -/
theorem push_spec (s : State) (code v o) (hb : s.alert.backlog = []) (hw : s.watched 13 = false) (hp : s.ign.power = .waking ∨ s.ign.power = .run) :
   s.push code v o = (s.takePush code v o).1 := by
  have ht : s.takeAction (.push code v o) = s.takePush code v o := by unfold State.takeAction; simp only []; rw [if_pos hp]
  have hk : (s.takePush code v o).2 = [] ∧ (s.takePush code v o).1.alert.backlog = [] ∧ (s.takePush code v o).1.watched 13 = false := by
    have gen : ∀ u : State, u.alert.backlog = [] → u.watched 13 = false → ∀ k p, ((u.setStack k).stackChanged p).2 = [] ∧ ((u.setStack k).stackChanged p).1.alert.backlog = [] ∧ ((u.setStack k).stackChanged p).1.watched 13 = false := by
      intro u h1 h2 k p
      have hc := stackChanged_spec (u.setStack k) p h2
      exact ⟨hc.2.1, hc.1.backlog.trans h1, (watched_rules hc.1.rules).trans h2⟩
    have lost : s.alertLost.alert.backlog = [] ∧ s.alertLost.watched 13 = false := by
      unfold State.alertLost
      have := raise_frame { s with alert.lost := satInc count8 s.alert.lost } .alertLost
      refine ⟨by rw [this.2.2.1]; exact hb, ?_⟩
      unfold State.watched; rw [this.2.1]; exact hw
    unfold State.takePush
    split
    · exact gen s hb hw _ _
    · split
      · exact gen s hb hw _ _
      · split
        · exact ⟨rfl, lost⟩
        · exact gen _ lost.1 lost.2 _ _
  unfold State.push
  rw [send_one s _ hb (by rw [ht]; exact hk.1) (by rw [ht]; exact hk.2.1) (by rw [ht]; exact hk.2.2), ht]

/-- A release is its one action. -/
theorem release_spec (s : State) (code o) (hb : s.alert.backlog = []) (hw : s.watched 13 = false) (hp : s.ign.power ≠ .sleep) :
   s.release code o = (s.takeRelease code).1 := by
  have ht : s.takeAction (.release code o) = s.takeRelease code := by unfold State.takeAction; simp only []; rw [if_neg hp]
  have hk : (s.takeRelease code).2 = [] ∧ (s.takeRelease code).1.alert.backlog = [] ∧ (s.takeRelease code).1.watched 13 = false := by
    have gen : ∀ u : State, u.alert.backlog = [] → u.watched 13 = false → ∀ k p, ((u.setStack k).stackChanged p).2 = [] ∧ ((u.setStack k).stackChanged p).1.alert.backlog = [] ∧ ((u.setStack k).stackChanged p).1.watched 13 = false := by
      intro u h1 h2 k p
      have hc := stackChanged_spec (u.setStack k) p h2
      exact ⟨hc.2.1, hc.1.backlog.trans h1, (watched_rules hc.1.rules).trans h2⟩
    unfold State.takeRelease
    split
    · exact ⟨rfl, hb, hw⟩
    · split
      · exact gen s hb hw _ _
      · split
        · exact gen s hb hw _ _
        · exact ⟨rfl, hb, hw⟩
  unfold State.release
  rw [send_one s _ hb (by rw [ht]; exact hk.1) (by rw [ht]; exact hk.2.1) (by rw [ht]; exact hk.2.2), ht]

/-- An entry found, taken out and no longer held, by the place where it stands. -/
theorem findCode_split (code : Nat) (above : List AlertEntry) (e : AlertEntry) (below : List AlertEntry) (he : e.code = code) (ha : ∀ f ∈ above, f.code ≠ code)
   (hb : ∀ f ∈ below, f.code ≠ code) : findCode (above ++ e :: below) code = some e ∧ withoutCode (above ++ e :: below) code = above ++ below ∧ 
     unheld (above ++ e :: below) code = above ++ { e with held := false } :: below := by
  have fa : ∀ l : List AlertEntry, (∀ f ∈ l, f.code ≠ code) → findCode l code = none ∧ withoutCode l code = l ∧ unheld l code = l := by
    intro l hl
    refine ⟨?_, ?_, ?_⟩
    · unfold findCode; rw [List.find?_eq_none]; simpa using hl
    · unfold withoutCode; rw [List.filter_eq_self]; simpa using hl
    · unfold unheld
      conv => rhs; rw [← List.map_id l]
      apply List.map_congr_left; intro f hf; rw [if_neg (hl f hf)]; rfl
  have A := fa above ha; have B := fa below hb
  refine ⟨?_, ?_, ?_⟩
  · unfold findCode at *; rw [List.find?_append, A.1]; simp [he]
  · unfold withoutCode at *; rw [List.filter_append, A.2.1]; simp [he]; exact hb
  · unfold unheld at *; rw [List.map_append, A.2.2, List.map_cons, B.2.2, if_pos he]

/-- The entry given up is the last of the lowest severity (R91). -/
theorem dropLowest_split (m : Severity) (above e below) (he : e.severity = m) (hb : ∀ f ∈ below, f.severity ≠ m) : dropLowest m (above ++ e :: below) = above ++ below := by
  unfold dropLowest
  rw [List.reverse_append, List.reverse_cons, List.append_assoc, List.eraseP_append_right _ (by simpa using hb)]
  simp [he]

/-- The lowest severity is that of an entry with no lower one. -/
theorem lowestSeverity_is (l : List AlertEntry) (e) (he : e ∈ l) (h : ∀ f ∈ l, e.severity.rank ≤ f.severity.rank) : lowestSeverity l = e.severity := by
  obtain ⟨f, hf, hs⟩ := lowest_present (List.ne_nil_of_mem he)
  have h1 := h f hf
  have : ∀ (k : List AlertEntry) (m : Severity), (k.foldl (fun m e => m.lower e.severity) m).rank ≤ m.rank ∧ ∀ g ∈ k, (k.foldl (fun m e => m.lower e.severity) m).rank ≤ g.severity.rank := by
    intro k
    induction k with
    | nil => intro m; exact ⟨Nat.le_refl _, by simp⟩
    | cons a k ih =>
      intro m
      rw [List.foldl_cons]
      have := ih (m.lower a.severity)
      have hl : (m.lower a.severity).rank ≤ m.rank ∧ (m.lower a.severity).rank ≤ a.severity.rank := by
        unfold Severity.lower; split <;> omega
      refine ⟨by omega, ?_⟩
      intro g hg
      rcases List.mem_cons.mp hg with rfl | hg
      · omega
      · exact this.2 g hg
  have h2 := (this l .stop).2 e he
  have h3 : (lowestSeverity l).rank = e.severity.rank := by
    unfold lowestSeverity at *; rw [← hs] at *; omega
  revert h3; cases lowestSeverity l <;> cases e.severity <;> simp [Severity.rank]

end Sys2Proof.Machine
end

