-- ==== Sys2Proof/Laws/Unwatched.lean ====
section
/-! SUPPORT. What reaches the alert block where no rule names the slots that are written and nothing is on its way: the distance block's
own pushes and releases (R78, R108, R112). -/

namespace Sys2Proof.Machine

/-- Nothing reaches the alert block, and the rules stand. -/
structure Hushed (s t : State) : Prop where
  alert : t.alert = s.alert
  rules : t.telltale.rules = s.telltale.rules

/-- Nothing done. -/
theorem Hushed.refl (s : State) : Hushed s s := ⟨rfl, rfl⟩

/-- One after the other. -/
theorem Hushed.trans {s t u : State} (h : Hushed s t) (k : Hushed t u) : Hushed s u :=
  ⟨k.alert.trans h.alert, k.rules.trans h.rules⟩

/-- Behind a change of other blocks. -/
theorem Hushed.behind {s u t : State} (h : Hushed u t) (ha : u.alert = s.alert)
    (hr : u.telltale.rules = s.telltale.rules) : Hushed s t := ⟨h.alert.trans ha, h.rules.trans hr⟩

/-- The same slots are watched. -/
theorem Hushed.watched {s t : State} (h : Hushed s t) (n : Nat) : t.watched n = s.watched n := watched_rules h.rules

/-- Marks in the dirty set. -/
theorem hushed_markDirty (s : State) (k : List RecordKind) : Hushed s (s.markDirty k) := by
  obtain ⟨q, hq⟩ := markDirty_only s k
  rw [hq]; exact ⟨rfl, rfl⟩

/-- An event of a slot that no rule names. -/
theorem hushed_tell (s : State) (n : Nat) (h : s.watched n = false) : Hushed s (s.tell n) := by
  have hw : (s.gaugeEvent n).watched n = false := h
  have d := calm_dimEvent (s.gaugeEvent n) n
  have e : s.tell n = (s.gaugeEvent n).dimEvent n := by
    unfold State.tell State.sendGathered
    rw [gatherRules_unwatched _ hw]
    simp only []
    rw [watched_rules d.rules, hw]; rfl
  rw [e]
  exact ⟨(quiet_dim _ _).1, d.rules⟩

/-- A slot that no rule names is written by its own block. -/
theorem hushed_write (s : State) (n : Nat) (w : SlotWrite) (h : s.watched n = false) : Hushed s (s.writePlain n w) := by
  unfold State.writePlain State.displayEvent
  exact ((hushed_tell (s.writeRecord n w) n h).trans (hushed_markDirty _ _)).behind rfl rfl

/-- The same where the slot held another value. -/
theorem hushed_writeOther (s : State) (n : Nat) (v : Int) (h : s.watched n = false) : Hushed s (s.writeOther n v) := by
  unfold State.writeOther
  split
  · exact Hushed.refl s
  · exact hushed_write s n _ h

/-- The marks of slot 12 set. -/
theorem hushed_setMarks (s : State) (a b : Bool) (h : s.watched 12 = false) : Hushed s (s.setMarks a b) := by
  unfold State.setMarks
  split
  · exact Hushed.refl s
  · simp only []
    split
    · exact (hushed_write { s with table.silentMark := a, table.phaseBMark := b } 12 _ h).behind rfl rfl
    · exact ⟨rfl, rfl⟩

/-- An event flag. -/
theorem hushed_raise (s : State) (f : EventFlag) : Hushed s (s.raise f) :=
  ⟨(raise_frame s f).2.2.1, congrArg Telltale.rules (raise_frame s f).2.1⟩

/-- A judgement of the speed cross-check. -/
theorem hushed_judgeMismatch (s : State) : Hushed s s.judgeMismatch := by
  rw [(judgeMismatch_spec s).2]; exact ⟨rfl, rfl⟩

/-- Slot 0 written where no rule and no tachograph field names it. -/
theorem hushed_writeSpeed (s : State) (w : SlotWrite) (h : s.watched 0 = false)
    (hp : ∀ id ∈ [10, 13, 14, 15, 16], s.param id ≠ 0) : Hushed s (s.writeSpeed w) := by
  unfold State.writeSpeed State.changeSlot State.announce
  have R := ripple_tell (· = 13) (s.putSlot 0 ((s.slot 0).written w none s.clock)) 0 rfl
  have H := hushed_tell (s.putSlot 0 ((s.slot 0).written w none s.clock)) 0 h
  have pk : ∀ id ∈ [10, 13, 14, 15, 16],
      ((s.putSlot 0 ((s.slot 0).written w none s.clock)).tell 0).paramSlot id ≠ some 0 := by
    intro id hid e
    have e1 : ((s.putSlot 0 ((s.slot 0).written w none s.clock)).tell 0).param id = s.param id := R.param id
    unfold State.paramSlot State.paramNat at e
    rw [e1] at e
    have := hp id hid
    split at e
    · have := Option.some.inj e; omega
    · exact nomatch e
  refine Hushed.trans (t := (s.putSlot 0 ((s.slot 0).written w none s.clock)).tell 0) (H.behind rfl rfl) ?_
  have en : (eventOf 0 .write (s.slot 0) ((s.slot 0).written w none s.clock)).slot = 0 := rfl
  generalize eventOf 0 .write (s.slot 0) ((s.slot 0).written w none s.clock) = ev at *
  rw [en]
  generalize (s.putSlot 0 ((s.slot 0).written w none s.clock)).tell 0 = x at *
  have J : (x.speedEvent 0) = x.judgeMismatch := by
    unfold State.speedEvent
    rw [if_neg (pk 10 (by simp)), if_pos rfl]
  have jp : ∀ id, x.judgeMismatch.paramSlot id = x.paramSlot id := fun id => by rw [(judgeMismatch_spec x).2]; rfl
  have T : x.tachoEvent ev = x.judgeMismatch := by
    unfold State.tachoEvent
    rw [en, J]
    have c : ∀ d, x.judgeMismatch.cardEvent d ev = x.judgeMismatch := fun d => by
      unfold State.cardEvent
      rw [jp, en, if_neg]
      cases d <;> exact pk _ (by simp [cardParam])
    have k : ∀ d, x.judgeMismatch.contEvent d ev = x.judgeMismatch := fun d => by
      unfold State.contEvent
      rw [jp, en, if_neg]
      rintro ⟨e, _⟩
      revert e
      cases d <;> exact pk _ (by simp [contParam])
    rw [c, c, k, k]
  unfold State.displayEvent
  rw [T]
  exact (hushed_judgeMismatch x).trans (hushed_markDirty _ _)

/-- The direction. -/
theorem hushed_takeDirection (s : State) (h : s.watched 1 = false) : Hushed s s.takeDirection := by
  unfold State.takeDirection
  split
  · exact Hushed.refl s
  · exact (hushed_write { s with dist.reverse := s.pulseReverse } 1 _ h).behind rfl rfl

/-- The ring and the speed. -/
theorem hushed_takeInterval (s : State) (cleared : Bool) (h : s.watched 0 = false)
    (hp : ∀ id ∈ [10, 13, 14, 15, 16], s.param id ≠ 0) : Hushed s (s.takeInterval cleared) := by
  have w : ∀ v, Hushed s
      (State.writeSpeed { s with dist.ring := s.dist.ringAfter s.clock, dist.lastPulse := some s.clock } v) := fun v =>
    (hushed_writeSpeed { s with dist.ring := s.dist.ringAfter s.clock, dist.lastPulse := some s.clock } v h hp).behind rfl rfl
  unfold State.takeInterval
  simp only []
  split
  · split
    · exact w _
    · exact ⟨rfl, rfl⟩
  · exact w _

/-- A calibration write requested. -/
theorem hushed_requestCal (s : State) : Hushed s s.requestCal := by
  unfold State.requestCal
  split <;> exact ⟨rfl, rfl⟩

/-- The accumulator and the metre. -/
theorem hushed_accumulate (s : State) (h : s.watched 2 = false) : Hushed s s.accumulate := by
  unfold State.accumulate
  split
  · exact ⟨rfl, rfl⟩
  · refine Hushed.trans (t := { s with dist.accumulator := s.dist.accumulator + 1000 - s.dist.kFactor }) ⟨rfl, rfl⟩ ?_
    generalize hx : ({ s with dist.accumulator := s.dist.accumulator + 1000 - s.dist.kFactor } : State) = x
    have hx2 : x.watched 2 = false := by rw [← hx]; exact h
    unfold State.addMetre
    split
    · simp only []
      have a : Hushed x (State.showOdometer { x with dist.liveOdo := x.dist.liveOdo + 1 }) :=
        (hushed_writeOther { x with dist.liveOdo := x.dist.liveOdo + 1 } 2 _ hx2).behind rfl rfl
      generalize State.showOdometer { x with dist.liveOdo := x.dist.liveOdo + 1 } = y at *
      split
      · exact a.trans ((hushed_requestCal { y with dist.storedOdo := y.dist.liveOdo }).behind rfl rfl)
      · exact a
    · exact Hushed.refl x

/-- The zero timer and the notice of a pulse. -/
theorem hushed_notice (s : State) : Hushed s s.restartZero.pulseNotice := by
  rw [pulseNotice_spec]; exact ⟨rfl, rfl⟩

/-! ### The parts of a pulse that tell -/

/-- What clearing the silent mark shows in slot 12 and releases (R112). -/
theorem clearSilent_tells (s : State) :
    (s.table.silentMark = false → s.clearSilent = s) ∧
    (s.table.silentMark = true → (s.clearSilent.slot 12).value = if s.table.phaseBMark then 1 else 0) ∧
    ∃ u, Ripple (fun n => n = 12 ∨ n = 13) (s.travelAs u) u ∧ (s.watched 12 = false → Hushed s u) ∧
      s.clearSilent = if s.table.silentMark && !s.table.phaseBMark then u.release 0xF102 .sensor else u := by
  unfold State.clearSilent
  by_cases h : s.table.silentMark = true
  · rw [if_pos h]
    simp only []
    have M := setMarks_spec s false s.table.phaseBMark
    have V := setMarks_shows s false s.table.phaseBMark (.inl (by rw [h]; simp))
    have H := hushed_setMarks s false s.table.phaseBMark
    generalize s.setMarks false s.table.phaseBMark = u at *
    have Rl := ripple_release (· = 13) u 0xF102 .sensor rfl
    refine ⟨fun e => absurd e (by rw [h]; simp), fun _ => ?_, u, M.2.2.2.2.2, H, ?_⟩
    · rw [← M.2.1]
      have : sensorFaultValue false s.table.phaseBMark = if u.table.phaseBMark then 1 else 0 := by rw [M.2.1]; rfl
      rw [← this, ← V]
      split
      · rfl
      · rw [Rl.slots 12 (by decide)]
    · rw [M.2.1, h]
      cases s.table.phaseBMark <;> rfl
  · rw [if_neg h]
    have hf : s.table.silentMark = false := by simpa using h
    refine ⟨fun _ => rfl, fun e => absurd e h, s, Ripple.refl _ s, fun _ => Hushed.refl s, ?_⟩
    rw [hf]; rfl

/-- What the direction shows in slot 1 (R107). -/
theorem takeDirection_shows (s : State) :
    if s.pulseReverse = s.dist.reverse then s.takeDirection.slot 1 = s.slot 1 else Shows s.takeDirection 1 (if s.pulseReverse then 1 else 0) := by
  unfold State.takeDirection
  split
  · rfl
  · have := writePlain_shows { s with dist.reverse := s.pulseReverse } 1 (bit s.pulseReverse) (by decide) (by decide)
    revert this
    generalize s.pulseReverse = b
    cases b <;> exact id

/-- What the phase-B count shows in slot 12, and what it raises and pushes (R108). -/
theorem countPhaseB_tells (s : State) :
    (s.countPhaseB.table.phaseBMark = s.table.phaseBMark → s.countPhaseB.slot 12 = s.slot 12) ∧
    (s.countPhaseB.table.phaseBMark ≠ s.table.phaseBMark → (s.countPhaseB.slot 12).value = sensorFaultValue s.table.silentMark true) ∧
    ∃ v, Ripple (fun n => n = 12 ∨ n = 13) (s.travelAs v) v ∧ (s.watched 12 = false → Hushed s v) ∧
      (s.param 7 = 0 ∧ s.dist.phaseB = 63 → Flagged v .sensorFault) ∧
      s.countPhaseB = if decide (s.param 7 = 0 ∧ s.dist.phaseB = 63) then v.push 0xF102 .caution .sensor else v := by
  unfold State.countPhaseB State.quadrature
  by_cases h : s.param 7 = 0 ∧ s.dist.phaseB < 64
  · rw [if_pos (by simpa using h)]
    simp only []
    have base : Travel (fun n => n = 12 ∨ n = 13) s { s with dist.phaseB := s.dist.phaseB + 1 } := Travel.set _ _ _ rfl
    by_cases h63 : s.dist.phaseB + 1 = 64
    · rw [if_pos h63]
      have e63 : s.dist.phaseB = 63 := by omega
      have ef : decide (s.param 7 = 0 ∧ s.dist.phaseB = 63) = true := by simp [h.1, e63]
      rw [ef]
      unfold State.phaseBFault
      generalize hx : ({ s with dist.phaseB := s.dist.phaseB + 1 } : State) = x at *
      have x1 : x.table = s.table := by rw [← hx]
      have x2 : ∀ n, x.slot n = s.slot n := fun n => by simp only [State.slot, x1]
      have M := setMarks_spec x x.table.silentMark true
      have V := setMarks_shows x x.table.silentMark true
      have H := hushed_setMarks x x.table.silentMark true
      have eqs : s.table.phaseBMark = true → x.setMarks x.table.silentMark true = x := fun hb => by
        unfold State.setMarks; rw [if_pos ⟨rfl, by rw [x1]; exact hb⟩]
      generalize x.setMarks x.table.silentMark true = y at *
      have F := raise_flagged y .sensorFault
      have Rr := fun ch => ripple_raise ch y .sensorFault
      have Hr := hushed_raise y .sensorFault
      generalize y.raise .sensorFault = v at *
      have Rp := ripple_push (· = 13) v 0xF102 .caution .sensor rfl
      have s12 : (v.push 0xF102 .caution .sensor).slot 12 = y.slot 12 := (Rp.slots 12 (by decide)).trans ((Rr (fun _ => False)).slots 12 id)
      have mk : (v.push 0xF102 .caution .sensor).table.phaseBMark = true := Rp.marks.2.1.trans ((Rr (fun _ => False)).marks.2.1.trans M.2.1)
      rw [s12, mk]
      refine ⟨fun e => ?_, fun e => ?_, v, ?_, fun hw => ?_, fun _ => F, rfl⟩
      · rw [eqs e.symm, x2]
      · rw [← x1]; exact V (.inr (by rw [x1]; exact Ne.symm e))
      · exact base.trans (M.2.2.2.2.2.trans (Rr _).toTravel)
      · exact Hushed.behind ((H (by rw [← hx]; exact hw)).trans Hr) (by rw [← hx]) (by rw [← hx])
    · rw [if_neg h63]
      have ef : decide (s.param 7 = 0 ∧ s.dist.phaseB = 63) = false := by simp; intro _; omega
      rw [ef]
      refine ⟨fun _ => rfl, fun e => absurd rfl e, _, base, fun _ => ⟨rfl, rfl⟩, fun e => absurd e.2 (by omega), rfl⟩
  · rw [if_neg (by simpa using h)]
    have ef : decide (s.param 7 = 0 ∧ s.dist.phaseB = 63) = false := by simp; intro a b; exact h ⟨a, by omega⟩
    rw [ef]
    exact ⟨fun _ => rfl, fun e => absurd rfl e, s, Ripple.refl _ s, fun _ => Hushed.refl s, fun e => absurd ⟨e.1, by omega⟩ h, rfl⟩

/-! ### A push and a release -/

/-- A push leaves the rules, and nothing on its way. -/
theorem push_calm (s : State) (code : Nat) (v : Severity) (o : Origin) (hb : s.alert.backlog = []) (hw : s.watched 13 = false) :
    (s.push code v o).telltale.rules = s.telltale.rules ∧ (s.push code v o).alert.backlog = [] := by
  by_cases hp : s.ign.power = .waking ∨ s.ign.power = .run
  · rw [push_spec s code v o hb hw hp]
    have gen : ∀ u : State, u.telltale.rules = s.telltale.rules → u.alert.backlog = [] → ∀ k p,
        ((u.setStack k).stackChanged p).1.telltale.rules = s.telltale.rules ∧
          ((u.setStack k).stackChanged p).1.alert.backlog = [] := by
      intro u h1 h2 k p
      have hc := stackChanged_spec (u.setStack k) p (by rw [← hw]; exact watched_rules h1)
      exact ⟨hc.1.rules.trans h1, hc.1.backlog.trans h2⟩
    have lost : s.alertLost.telltale.rules = s.telltale.rules ∧ s.alertLost.alert.backlog = [] := by
      have := raise_frame { s with alert.lost := satInc count8 s.alert.lost } .alertLost
      exact ⟨congrArg Telltale.rules this.2.1, by unfold State.alertLost; rw [this.2.2.1]; exact hb⟩
    unfold State.takePush
    split
    · exact gen s rfl hb _ _
    · split
      · exact gen s rfl hb _ _
      · split
        · exact lost
        · exact gen _ lost.1 lost.2 _ _
  · have ht : s.takeAction (.push code v o) = (s, []) := by unfold State.takeAction; simp only []; rw [if_neg hp]
    have : s.push code v o = s := by
      unfold State.push
      rw [send_one s _ hb (by rw [ht]) (by rw [ht]; exact hb) (by rw [ht]; exact hw), ht]
    rw [this]; exact ⟨rfl, hb⟩

/-- A release leaves the rules, and nothing on its way. -/
theorem release_calm (s : State) (code : Nat) (o : Origin) (hb : s.alert.backlog = []) (hw : s.watched 13 = false) :
    (s.release code o).telltale.rules = s.telltale.rules ∧ (s.release code o).alert.backlog = [] := by
  by_cases hp : s.ign.power = .sleep
  · have ht : s.takeAction (.release code o) = (s, []) := by unfold State.takeAction; simp only []; rw [if_pos hp]
    have : s.release code o = s := by
      unfold State.release
      rw [send_one s _ hb (by rw [ht]) (by rw [ht]; exact hb) (by rw [ht]; exact hw), ht]
    rw [this]; exact ⟨rfl, hb⟩
  · rw [release_spec s code o hb hw hp]
    have gen : ∀ k p, ((s.setStack k).stackChanged p).1.telltale.rules = s.telltale.rules ∧
        ((s.setStack k).stackChanged p).1.alert.backlog = [] := by
      intro k p
      have hc := stackChanged_spec (s.setStack k) p hw
      exact ⟨hc.1.rules, hc.1.backlog.trans hb⟩
    unfold State.takeRelease
    split
    · exact ⟨rfl, hb⟩
    · split
      · exact gen _ _
      · split
        · exact gen _ _
        · exact ⟨rfl, hb⟩

end Sys2Proof.Machine
end

