-- ==== Sys2Proof/Laws/Waking.lean ====
section
/-! SUPPORT. What WAKING entry does block by block, said once: the first writes, the rules' first evaluation, and the loads (R39, R45,
R87, R183, R184). -/

namespace Sys2Proof.Machine

/-- A ripple stays one where the controller, which it leaves alone, is replaced on both sides. -/
theorem ripple_ign {ch ev : Nat → Prop} {s t : State} (g : Ignition) (h : Ripple ch s t ev) (hg : g.power = s.ign.power) :
    Ripple ch { s with ign := g } { t with ign := g } ev where
  outside := by
    have e := congrArg (fun u : State => { u with ign := g }) h.outside
    exact e
  slots := h.slots
  marks := h.marks
  channels := h.channels
  deaf := h.deaf
  still := h.still
  followed := h.followed
  aside := h.aside
  rules := h.rules
  spared := h.spared
  dimmed := h.dimmed
  reacted i := by
    have e : RulesRun { s with ign := g } ↔ RulesRun s := by
      unfold RulesRun
      rw [← hg]
    obtain ⟨l, h1, h2, h3⟩ := h.reacted i
    exact ⟨l, h1, fun x => (h2 x).imp e.mpr id, fun a ha => ⟨(h3 a ha).1, fun x y z => (h3 a ha).2 (e.mp x) y z⟩⟩
  telltale := h.telltale
  alert := h.alert
  stack := h.stack
  asleep hs := h.asleep (by rw [← hg]; exact hs)
  told := { h.told with }
  flags := h.flags
  sent := h.sent
  room := h.room

/-- Slots written by their own blocks, one after another. -/
def runWrites (L : List (Nat × SlotWrite)) (s : State) : State := L.foldl (fun t p => t.writePlain p.1 p.2) s

/-- The record that a write of its own block leaves in a slot other than slot 13. -/
theorem writePlain_slot (s : State) (n : Nat) (w : SlotWrite) (hn : n < 96) (h13 : n ≠ 13) :
    (s.writePlain n w).slot n = (s.slot n).written w none s.clock := by
  have R := ((ripple_tell (· = 13) (s.writeRecord n w) n rfl).trans ((ripple_displayEvent (· = 13) _ n).wide fun _ h => .inr h))
  have e : (s.writePlain n w).slot n = (s.writeRecord n w).slot n := R.slots n h13
  rw [e]; exact State.slot_putSlot_same s n _ hn

/-- Writes ripple over the slots written and slot 13. -/
theorem runWrites_ripple (ch : Nat → Prop) (h13 : ch 13) :
    ∀ (L : List (Nat × SlotWrite)) (s : State), (∀ p ∈ L, ch p.1) → Ripple ch s (runWrites L s)
  | [], s, _ => Ripple.refl ch s
  | p :: L, s, h => (ripple_writePlain ch s p.1 p.2 (h p (by simp)) h13).trans
      (runWrites_ripple ch h13 L _ (fun q hq => h q (by simp [hq])))

/-- Writes leave the tachograph block alone. -/
theorem runWrites_tacho : ∀ (L : List (Nat × SlotWrite)) (s : State), (runWrites L s).tacho = s.tacho
  | [], _ => rfl
  | p :: L, s => (runWrites_tacho L _).trans (writePlain_tacho s p.1 p.2)

/-- Each slot written once, other than slot 13, holds its own write. -/
theorem runWrites_slot : ∀ (L : List (Nat × SlotWrite)) (s : State), (L.map (·.1)).Nodup → ∀ p ∈ L, p.1 ≠ 13 → p.1 < 96 →
    (runWrites L s).slot p.1 = (s.slot p.1).written p.2 none s.clock
  | [], _, _, p, hp, _, _ => nomatch hp
  | q :: L, s, hd, p, hp, h13, h96 => by
    have hd' := List.nodup_cons.mp hd
    show (runWrites L (s.writePlain q.1 q.2)).slot p.1 = _
    rcases List.mem_cons.mp hp with e | e
    · subst e
      have R := runWrites_ripple (fun n => n = 13 ∨ n ∈ L.map (·.1)) (.inl rfl) L (s.writePlain p.1 p.2)
        (fun r hr => .inr (List.mem_map_of_mem hr))
      rw [R.slots p.1 (fun h => h.elim h13 hd'.1)]
      exact writePlain_slot s p.1 p.2 h96 h13
    · have hne : p.1 ≠ q.1 := fun e2 => hd'.1 (by show q.1 ∈ _; rw [← e2]; exact List.mem_map.mpr ⟨p, e, rfl⟩)
      rw [runWrites_slot L _ hd'.2 p e h13 h96]
      have R := ripple_writePlain (fun n => n = 13 ∨ n = q.1) s q.1 q.2 (.inr rfl) (.inl rfl)
      rw [R.slots p.1 (fun h => h.elim h13 hne), R.clock]

/-- A rule that names no slot written, nor slot 13, stands as it was. -/
theorem runWrites_rules : ∀ (L : List (Nat × SlotWrite)) (s : State) (i : Nat) , (s.rule i).liveSlot ≠ some 13 →
    (∀ p ∈ L, (s.rule i).liveSlot ≠ some p.1) → (runWrites L s).rule i = s.rule i
  | [], _, _, _, _ => rfl
  | p :: L, s, i, h13, h => by
    have a := (apart_writePlain s p.1 p.2).rules i h13 (h p (by simp))
    show (runWrites L (s.writePlain p.1 p.2)).rule i = _
    rw [runWrites_rules L _ i (by rw [a]; exact h13) (fun q hq => by rw [a]; exact h q (by simp [hq])), a]

/-- Slot 13 once FRESH stays so. -/
theorem runWrites_top : ∀ (L : List (Nat × SlotWrite)) (s : State), (∀ p ∈ L, p.1 ≠ 13) → (s.slot 13).state = .fresh →
    ((runWrites L s).slot 13).state = .fresh
  | [], _, _, h => h
  | p :: L, s, h, ht => runWrites_top L _ (fun q hq => h q (by simp [hq])) ((apart_writePlain s p.1 p.2).top (h p (by simp)) ht)

/-- The first writes of R39 after slot 13's, with slot 2 at `odo`. -/
def firstList (odo : Int) : List (Nat × SlotWrite) :=
  [(1, .fresh 0), (2, .fresh odo), (4, .fresh 0), (6, .fresh 0), (5, .notAvailable), (7, .notAvailable), (8, .fresh 0), (9, .fresh 0),
   (12, .fresh 0), (14, .fresh 0)]

/-- The first writes are slot 13's and then the list's (R39). -/
theorem firstWrites_eq (s : State) :
    s.firstWrites = runWrites (firstList (s.dist.liveOdo / 100 : Nat)) (s.writePlain 13 (.fresh 0)) := by
  have e : ((s.writePlain 13 (.fresh 0)).writePlain 1 (.fresh 0)).dist = s.dist :=
    (ripple_writePlain (fun _ => True) _ 1 _ trivial trivial).dist.trans (ripple_writePlain (fun _ => True) _ 13 _ trivial trivial).dist
  unfold State.firstWrites
  simp only [e]
  simp only [runWrites, firstList, List.foldl_cons, List.foldl_nil]

/-- Slot 13 written FRESH is FRESH after the pushes that follow. -/
theorem write13_top (s : State) (v : Int) : ((s.writePlain 13 (.fresh v)).slot 13).state = .fresh := by
  unfold State.writePlain State.displayEvent
  apply (cascade_markDirty _ _).top
  unfold State.tell State.sendGathered
  have h0 : ((s.writeRecord 13 (.fresh v)).slot 13).state = .fresh :=
    congrArg SlotRecord.state (State.slot_putSlot_same s 13 _ (by decide))
  have h1 := (cascade_gaugeEvent (s.writeRecord 13 (.fresh v))).top h0
  have h2 := (cascade_gatherRules ((s.writeRecord 13 (.fresh v)).gaugeEvent 13)).top h1
  have h3 := (cascade_dimEvent _ 13).top h2
  simp only []
  split
  · exact (cascade_settleLamps _).top ((cascade_send _ _).top h3)
  · exact h3

/-- Gathering lets each listed rule evaluate once, on what stood before. -/
theorem gatherAlone_rule (l : List Nat) : ∀ (acc : State × List AlertAction) (i : Nat), i < 64 → l.Nodup →
    (l.foldl gatherAlone acc).1.rule i = if i ∈ l then (acc.1.evalRule i).1.rule i else acc.1.rule i := by
  induction l with
  | nil => intro acc i _ _; simp
  | cons j l ih =>
    intro acc i hi hd
    have hd' := List.nodup_cons.mp hd
    rw [List.foldl_cons, ih _ i hi hd'.2]
    have other : ∀ j, j ≠ i → (acc.1.evalRule j).1.rule i = acc.1.rule i := by
      intro j h
      unfold State.evalRule
      split
      · rfl
      · split
        · exact State.rule_putRule_other _ j i _ h
        · rfl
    by_cases e : i = j
    · subst e
      rw [if_neg hd'.1, if_pos (by simp)]; rfl
    · have a := other j (Ne.symm e)
      by_cases h : i ∈ l
      · rw [if_pos h, if_pos (by simp [h])]
        have b1 : (gatherAlone acc j).1.clock = acc.1.clock ∧ (gatherAlone acc j).1.ign = acc.1.ign ∧
            (gatherAlone acc j).1.table = acc.1.table ∧ (gatherAlone acc j).1.rule i = acc.1.rule i := by
          refine ⟨?_, ?_, ?_, a⟩ <;> (unfold gatherAlone State.evalRule; split <;> [rfl; (split <;> rfl)])
        unfold State.evalRule
        rw [b1.2.2.2, b1.2.1, b1.1]
        have : ∀ n, (gatherAlone acc j).1.slot n = acc.1.slot n := fun n => by simp only [State.slot, b1.2.2.1]
        simp only [this]
        split
        · exact b1.2.2.2
        · split
          · rw [State.rule_putRule_same _ _ _ hi, State.rule_putRule_same _ _ _ hi]
          · exact b1.2.2.2
      · rw [if_neg h, if_neg (by simp [h, e])]; exact a

/-- Gathering leaves the tachograph block and the slots alone. -/
theorem gatherFold_same (l : List Nat) : ∀ (acc : State × List AlertAction),
    (l.foldl gatherAlone acc).1.tacho = acc.1.tacho ∧ (l.foldl gatherAlone acc).1.table = acc.1.table := by
  induction l with
  | nil => intro _; exact ⟨rfl, rfl⟩
  | cons j l ih =>
    intro acc
    obtain ⟨a, b⟩ := ih (gatherAlone acc j)
    refine ⟨a.trans ?_, b.trans ?_⟩ <;> (unfold gatherAlone State.evalRule; split <;> [rfl; (split <;> rfl)])

/-- Every rule evaluates at WAKING entry (R87): a rule that does not name slot 13 stands as its own evaluation left it. -/
theorem evalAll_spec (s : State) : s.evalAll.tacho = s.tacho ∧ ((s.slot 13).state = .fresh → (s.evalAll.slot 13).state = .fresh) ∧
    ∀ i, i < 64 → (s.rule i).liveSlot ≠ some 13 → s.evalAll.rule i = (s.evalRule i).1.rule i := by
  unfold State.evalAll
  simp only []
  obtain ⟨a, b⟩ := gatherFold_same (List.range 64) (s, [])
  generalize hr : (List.range 64).foldl gatherAlone (s, []) = r at *
  have C := cascade_send r.1 r.2
  have L := ripple_gatherAlone (fun _ => False) (List.range 64) (s, [])
  rw [hr] at L
  refine ⟨C.tacho.trans a, fun h => C.top (by simp only [State.slot, b]; exact h), fun i hi h => ?_⟩
  rw [C.rules i (by rw [liveSlot_fixed (L.rules i)]; exact h)]
  have := gatherAlone_rule (List.range 64) (s, []) i hi List.nodup_range
  rw [hr, if_pos (by simp [hi])] at this
  exact this

/-! Where no rule is LIVE (R183: an invalid configuration has none), nothing reaches the alert block. -/

/-- Without a LIVE rule no slot is watched. -/
theorem unruled_unwatched (s : State) (h : ∀ i, (s.rule i).liveSlot = none) (n : Nat) : s.watched n = false := by
  unfold State.watched
  rw [List.any_eq_false]
  intro r hr
  obtain ⟨i, hi, e⟩ := List.mem_iff_getElem.mp hr
  have k := h i
  have : s.rule i = r := by
    rw [← e]; simp [State.rule, Bank.get, List.getD_eq_getElem?_getD, hi]
  rw [this] at k
  simp [k]

/-- Without a LIVE rule the writes leave the alert block and the rules. -/
theorem unruled_writes : ∀ (L : List (Nat × SlotWrite)) (s : State), (∀ i, (s.rule i).liveSlot = none) →
    (runWrites L s).alert = s.alert ∧ (runWrites L s).telltale.rules = s.telltale.rules
  | [], _, _ => ⟨rfl, rfl⟩
  | p :: L, s, h => by
    have a := hushed_write s p.1 p.2 (unruled_unwatched s h p.1)
    have b := unruled_writes L (s.writePlain p.1 p.2) (fun i => by simp only [State.rule, a.rules]; exact h i)
    exact ⟨b.1.trans a.alert, b.2.trans a.rules⟩

/-- Without a LIVE rule and with nothing on its way, the rules' first evaluation does nothing. -/
theorem unruled_evalAll (s : State) (h : ∀ i, (s.rule i).liveSlot = none) (hb : s.alert.backlog = []) : s.evalAll = s := by
  have f : ∀ (l : List Nat), l.foldl gatherAlone (s, []) = (s, []) := by
    intro l
    induction l with
    | nil => rfl
    | cons i l ih =>
      have : gatherAlone (s, []) i = (s, []) := by
        unfold gatherAlone State.evalRule
        rw [h i]; rfl
      rw [List.foldl_cons, this, ih]
  unfold State.evalAll
  rw [f]
  exact send_nothing s hb

/-- A push on an empty stack in WAKING, where no rule is LIVE and slot 15 has not been written: the one entry. -/
theorem unruled_push (s : State) (code : Nat) (v : Severity) (o : Origin) (h : ∀ i, (s.rule i).liveSlot = none)
    (hb : s.alert.backlog = []) (hs : s.alert.stack = []) (hp : s.ign.power = .waking) (h15 : (s.slot 15).state = .never) :
    (s.push code v o).alert.stack =
        [{ code := code, severity := v, origin := o, held := true, repeats := 0, raisedAt := 0 }] ∧
      ((s.push code v o).slot 13).value = v.rank := by
  have hw := unruled_unwatched s h 13
  rw [push_spec s code v o hb hw (.inl hp)]
  unfold State.takePush
  rw [hs]
  have c := stackChanged_spec (s.setStack (s.newEntry code v o :: [])) (some v.pattern) hw
  have e : s.newEntry code v o = { code := code, severity := v, origin := o, held := true, repeats := 0, raisedAt := 0 } := by
    unfold State.newEntry State.raisedAt
    rw [if_pos h15]
  exact ⟨by rw [← e]; exact c.1.stack, c.2.2.1⟩

/-- Ascending numbers are pairwise ascending. -/
theorem noneTwice_ascends : ∀ (l : List Nat), ascends l = true → l.Pairwise (· < ·)
  | [], _ => List.Pairwise.nil
  | [a], _ => by simp
  | a :: b :: l, h => by
    simp [ascends] at h
    have ih := noneTwice_ascends (b :: l) h.2
    refine List.Pairwise.cons (fun c hc => ?_) ih
    rcases List.mem_cons.mp hc with e | e
    · omega
    · have := (List.pairwise_cons.mp ih).1 c e; omega

/-- Stored rules stand at their own indices after a load, and nothing else changes (R87). -/
theorem loadRules_get : ∀ (l : List StoredRule) (b : Bank Rule 64), (l.map (·.index)).Nodup → (∀ q ∈ l, q.index < 64) →
    (∀ i, (∀ q ∈ l, q.index ≠ i) →
        (l.foldl (fun bank r => bank.put r.index r.load) b).get i Rule.blank = b.get i Rule.blank) ∧
    ∀ q ∈ l, (l.foldl (fun bank r => bank.put r.index r.load) b).get q.index Rule.blank = q.load
  | [], b, _, _ => ⟨fun _ _ => rfl, fun _ h => nomatch h⟩
  | r :: l, b, hd, hl => by
    have hd' := List.nodup_cons.mp hd
    obtain ⟨a, c⟩ := loadRules_get l (b.put r.index r.load) hd'.2 (fun q hq => hl q (by simp [hq]))
    refine ⟨fun i h => ?_, fun q hq => ?_⟩
    · rw [List.foldl_cons, a i (fun q hq => h q (by simp [hq]))]
      exact Bank.get_put_other _ _ _ _ _ (h r (by simp))
    · rw [List.foldl_cons]
      rcases List.mem_cons.mp hq with e | e
      · subst e
        rw [a _ (fun q' hq' e => hd'.1 (List.mem_map.mpr ⟨q', hq', e⟩))]
        exact Bank.get_put_same _ _ _ _ (hl q (by simp))
      · exact c q e

/-- Every channel takes its own live record at a load (R45). -/
theorem loadFold_get (image : ConfigImage) (b : Bank Channel 8) (n : Nat) (hn : n < 8) :
    ((List.range 8).foldl (loadChannel image) b).get n Channel.powerOn =
      (b.get n Channel.powerOn).load (image.gauges.get n LiveRecord.factory) := by
  have h : ∀ (l : List Nat) (b : Bank Channel 8), l.Nodup → (l.foldl (loadChannel image) b).get n Channel.powerOn =
      if n ∈ l then (b.get n Channel.powerOn).load (image.gauges.get n LiveRecord.factory) else b.get n Channel.powerOn := by
    intro l
    induction l with
    | nil => intro b _; simp
    | cons j l ih =>
      intro b hd
      have hd' := List.nodup_cons.mp hd
      rw [List.foldl_cons, ih _ hd'.2]
      by_cases e : n = j
      · subst e
        rw [if_neg hd'.1, if_pos (by simp)]
        exact Bank.get_put_same _ _ _ _ hn
      · have a : (loadChannel image b j).get n Channel.powerOn = b.get n Channel.powerOn := Bank.get_put_other _ _ _ _ _ (Ne.symm e)
        rw [a]
        simp [e]
  rw [h _ _ List.nodup_range, if_pos (by simp [hn])]

/-- The checks of a calibration image, in words (R184). -/
theorem cal_good (i : CalImage) : i.passes = true ↔
      2000 ≤ i.kFactor ∧ i.kFactor ≤ 64000 ∧ i.history.length ≤ 8 ∧
        (∀ e ∈ i.history, 2000 ≤ e.oldK ∧ e.oldK ≤ 64000 ∧ 2000 ≤ e.newK ∧ e.newK ≤ 64000) ∧
        (i.history = [] → i.kFactor = 8000) ∧ ∀ e, i.history.getLast? = some e → i.kFactor = e.newK := by
  unfold CalImage.passes kPasses
  have hr : historyRoom = 8 := rfl
  simp only [Bool.and_eq_true, decide_eq_true_eq, List.all_eq_true, hr]
  have : (i.kFactor = (i.history.getLast?.map (·.newK)).getD 8000) ↔
      ((i.history = [] → i.kFactor = 8000) ∧ ∀ e, i.history.getLast? = some e → i.kFactor = e.newK) := by
    cases h : i.history.getLast? with
    | none => have := List.getLast?_eq_none_iff.mp h; simp [this]
    | some e =>
      have : i.history ≠ [] := by intro h2; rw [h2] at h; exact nomatch h
      simp [this]
  rw [this]
  constructor
  · rintro ⟨⟨⟨⟨a, b⟩, c⟩, d⟩, e, f⟩
    exact ⟨a, b, c, fun x hx => ⟨(d x hx).1.1, (d x hx).1.2, (d x hx).2.1, (d x hx).2.2⟩, e, f⟩
  · rintro ⟨a, b, c, d, e, f⟩
    exact ⟨⟨⟨⟨a, b⟩, c⟩, fun x hx => ⟨⟨(d x hx).1, (d x hx).2.1⟩, (d x hx).2.2⟩⟩, e, f⟩

/-- Two channels with the same fixed part and motion differ in the pending candidate and the rest delay alone. -/
theorem channel_eq (x y : Channel) (e1 : x.fixed = y.fixed) (e2 : x.motion = y.motion) :
    x = { y with pending := x.pending, restTimer := x.restTimer, restMark := x.restMark } := by
  have f1 := congrArg Channel.live e1
  have f2 := congrArg Channel.staged e1
  have f3 := congrArg Channel.state e1
  have f4 := congrArg Channel.position e1
  have f5 := congrArg Channel.driveIndex e1
  have f6 := congrArg Channel.homingLeft e1
  have f7 := congrArg Channel.parkMark e1
  have f8 := congrArg Channel.cause e1
  unfold Channel.motion at e2
  injection e2 with g1 e2
  injection e2 with g2 e2
  injection e2 with g3 g4
  cases x; cases y
  simp only [Channel.fixed] at f1 f2 f3 f4 f5 f6 f7 f8 g1 g2 g3 g4 ⊢
  subst f1 f2 f3 f4 f5 f6 f7 f8 g1 g2 g3 g4
  rfl

end Sys2Proof.Machine
end

