-- ==== Sys2Proof/Laws/Judge.lean ====
section
/-! SUPPORT. What the controller's two conditions bring, each said once: the entry to RUN from WAKING (R188), SLEEP entry (R190), and the
judgement of both on a channel's report (R66). -/

namespace Sys2Proof.Machine

/-- A mark set while the link is on. -/
theorem markDirty_page (s : State) (h : s.display.link ≠ .off) : (s.markDirty [.pageSelect]).display.dirty.pageSelect = true := by
  unfold State.markDirty
  rw [if_neg h]
  show (Display.poll _ _ _).dirty.pageSelect = true
  rw [poll_dirty]
  rfl

/-- The entry to RUN from WAKING (R188, R104). -/
theorem runEntry_spec (s : State) : RunEntered s s.runEntry := by
  let x : State :=
    { s with ign.power := .run, ign.secondTimer := s.after (ms 1000), tacho.minuteTimer := s.after (ms 60000) }
  have R := ripple_writePlain (fun n => n = 13 ∨ n = 15) x 15 (.fresh 0) (.inr rfl) (.inl rfl)
  refine ⟨x.writePlain 15 (.fresh 0), R, writePlain_shows x 15 0 (by decide) (by decide), writePlain_tacho x 15 _,
    fun h => (hushed_write x 15 _ h).alert, ?_, fun h => ?_, fun h => ?_, fun e below h => ?_⟩
  all_goals
    have e0 : s.runEntry = ((x.writePlain 15 (.fresh 0)).chimeRequest?
      (runChime (x.writePlain 15 (.fresh 0)).alert.stack)).markDirty [.pageSelect] := rfl
    generalize x.writePlain 15 (.fresh 0) = u at *
  · obtain ⟨d, hd⟩ := markDirty_only (u.chimeRequest? (runChime u.alert.stack)) [.pageSelect]
    rw [e0, hd]
    unfold State.chimeRequest?
    split
    · rfl
    · next p _ =>
      obtain ⟨b, hb⟩ := chimeRequest_only u p
      rw [hb]
  · rw [e0]
    refine markDirty_page _ fun k => h ?_
    exact R.link.1.mp ((ripple_chimeRequest? (fun _ => True) u _).link.1.mp k)
  · rw [e0, (hushed_markDirty _ _).alert, h]
    rfl
  · rw [e0, (hushed_markDirty _ _).alert, h]
    unfold runChime State.chimeRequest?
    obtain ⟨code, sev, origin, held, repeats, at'⟩ := e
    cases sev <;> cases held <;> rfl

/-- SLEEP entry (R190). -/
theorem sleepEntry_entered (s : State) : SleepEntered s s.sleepEntry := by
  obtain ⟨a1, a2, a3, a4, a5, _, a7, a8, a9, a10, a11, a12, a13, a14, a15, a16, a17, a18, a19, a20, a21, a22⟩ :=
    sleepEntry_spec s
  refine ⟨a5, a1, a2, a3, a4, a7, a8, a15, a9, a10, a11, a12, a13, a14, a16, a17, a18, a19, a20, a21.trans ?_, a22⟩
  cases s.store.save <;> rfl

/-- The RUN condition (R188). -/
theorem mayRun_iff (s : State) : s.ign.mayRun = true ↔ RunReady s := by
  unfold Ignition.mayRun RunReady
  simp only [Bool.and_eq_true, decide_eq_true_eq, Bool.not_eq_true', Bank.all_iff s.ign.reports .none, Bool.or_eq_true, and_assoc]

/-- The SLEEP condition (R190). -/
theorem maySleep_iff (s : State) : s.ign.maySleep = true ↔ SleepReady s := by
  unfold Ignition.maySleep SleepReady StaysUp
  simp only [Bool.and_eq_true, decide_eq_true_eq, Bool.not_eq_true', Bank.all_iff s.ign.reports .none, Bool.or_eq_true,
    not_or, not_exists, not_and, ne_eq, not_not]
  constructor
  · rintro ⟨⟨⟨p, a⟩, b⟩, r⟩
    exact ⟨⟨p, fun c hc n => (r c hc).resolve_left n⟩, a, b⟩
  · rintro ⟨⟨p, r⟩, a, b⟩
    exact ⟨⟨⟨p, a⟩, b⟩, fun c hc => or_iff_not_imp_left.mpr (r c hc)⟩

/-- Both judged (R66). -/
theorem judge_spec (s : State) : Judged s s.judgeRun.judgeSleep := by
  unfold State.judgeRun
  by_cases hr : s.ign.mayRun = true
  · have r := (mayRun_iff s).mp hr
    have e := runEntry_spec s
    have p : s.runEntry.ign.power ≠ .parking := by
      rw [(ripple_runEntry (fun _ => True) s trivial trivial).ign]
      exact fun h => nomatch h
    rw [if_pos hr, judgeSleep_awake _ p]
    exact ⟨fun _ => e, fun k => absurd (.inl (r.1 ▸ fun h => nomatch h)) k.1, fun n => absurd r n⟩
  · have r : ¬ RunReady s := fun k => hr ((mayRun_iff s).mpr k)
    rw [if_neg hr]
    unfold State.judgeSleep
    by_cases hs : s.ign.maySleep = true
    · rw [if_pos hs]
      exact ⟨fun k => absurd k r, fun _ => sleepEntry_entered s, fun _ n => absurd ((maySleep_iff s).mp hs) n⟩
    · rw [if_neg hs]
      exact ⟨fun k => absurd k r, fun k => absurd ((maySleep_iff s).mpr k) hs, fun _ _ => rfl⟩

end Sys2Proof.Machine
end

