-- ==== Sys2Proof/Laws/Lamps.lean ====
section
/-! SUPPORT. The deciding rule of a lamp and the evaluation of one rule alone (R70, R75, R76, R77). -/

namespace Sys2Proof.Machine

/-- The deciding rule among the first `m` (R77). -/
theorem betterRule_best (s : State) (n : Nat) : ∀ (m : Nat), m ≤ 64 → 
   ((List.range m).foldl (s.betterRule n) none = none → ∀ i, i < m → (s.rule i).lights n = false) ∧
   (∀ i, (List.range m).foldl (s.betterRule n) none = some i → i < m ∧ (s.rule i).lights n = true ∧
      ∀ j, j < m → (s.rule j).lights n = true → (s.rule j).priority ≤ (s.rule i).priority ∧ ((s.rule j).priority = (s.rule i).priority → i ≤ j)) := by
  intro m
  induction m with
  | zero => intro _; refine ⟨fun _ i hi => by omega, ?_⟩; intro i hi; simp at hi
  | succ m ih =>
    intro hm
    have ih := ih (by omega)
    rw [List.range_succ, List.foldl_append, List.foldl_cons, List.foldl_nil]
    generalize (List.range m).foldl (s.betterRule n) none = best at ih
    unfold State.betterRule
    by_cases hl : (s.rule m).lights n = true
    · rw [if_pos hl]
      cases best with
      | none =>
        refine ⟨by intro h; simp at h, ?_⟩
        intro i hi
        simp at hi; subst hi
        refine ⟨by omega, hl, ?_⟩
        intro j hj hlj
        rcases Nat.lt_succ_iff_lt_or_eq.mp hj with h | h
        · have := ih.1 rfl j h; simp [this] at hlj
        · subst h; exact ⟨Nat.le_refl _, fun _ => Nat.le_refl _⟩
      | some b =>
        have hb := ih.2 b rfl
        simp only []
        by_cases hp : (s.rule b).priority < (s.rule m).priority
        · rw [if_pos hp]
          refine ⟨by intro h; simp at h, ?_⟩
          intro i hi; simp at hi; subst hi
          refine ⟨by omega, hl, ?_⟩
          intro j hj hlj
          rcases Nat.lt_succ_iff_lt_or_eq.mp hj with h | h
          · have := hb.2.2 j h hlj; omega
          · subst h; exact ⟨Nat.le_refl _, fun _ => Nat.le_refl _⟩
        · rw [if_neg hp]
          refine ⟨by intro h; simp at h, ?_⟩
          intro i hi; simp at hi; subst hi
          refine ⟨by omega, hb.2.1, ?_⟩
          intro j hj hlj
          rcases Nat.lt_succ_iff_lt_or_eq.mp hj with h | h
          · exact hb.2.2 j h hlj
          · subst h; omega
    · rw [if_neg hl]
      refine ⟨?_, ?_⟩
      · intro h i hi
        rcases Nat.lt_succ_iff_lt_or_eq.mp hi with h' | h'
        · exact ih.1 h i h'
        · subst h'; simpa using hl
      · intro i hi
        have := ih.2 i hi
        refine ⟨by omega, this.2.1, ?_⟩
        intro j hj hlj
        rcases Nat.lt_succ_iff_lt_or_eq.mp hj with h' | h'
        · exact this.2.2 j h' hlj
        · subst h'; exact absurd hlj hl

/-- A rule that lights a lamp (R77). -/
theorem lights_iff (q : Rule) (n : Nat) : q.lights n = true ↔ q.life = .live ∧ q.live = .active ∧ q.a.map (·.lamp) = some n := by
  unfold Rule.lights
  cases ha : q.a <;> simp [and_assoc]

/-- The lamps settled leave the rules. -/
theorem settle_rules (s : State) : s.settleLamps.telltale.rules = s.telltale.rules := by
  obtain ⟨l, h⟩ := settleLamps_only s; rw [h]

/-- The lamps settled leave a rule. -/
theorem settle_rule (s : State) (i) : s.settleLamps.rule i = s.rule i := by
  unfold State.rule; rw [settle_rules]

/-- The lamps settled leave the alert block. -/
theorem settle_alert (s : State) : s.settleLamps.alert = s.alert := by
  obtain ⟨l, h⟩ := settleLamps_only s; rw [h]

/-- Outside WAKING and RUN no rule evaluates (R70). -/
theorem alone_idle (X : State) (i : Nat) (h1 : X.ign.power ≠ .waking) (h2 : X.ign.power ≠ .run) (hb : X.alert.backlog = []) : X.evalAlone i = X := by
  have : X.evalRule i = (X, []) := by
    unfold State.evalRule
    split
    · rfl
    · rw [if_neg (by simp [h1, h2])]
  unfold State.evalAlone
  rw [this]; exact send_nothing X hb

/-- In WAKING and RUN a rule that does not name slot 13 reacts once. -/
theorem alone_awake (X : State) (i : Nat) (hi : i < 64) (n : Nat) (hl : (X.rule i).liveSlot = some n) (hn : n ≠ 13)
   (hp : X.ign.power = .waking ∨ X.ign.power = .run) : (X.evalAlone i).rule i = ((X.rule i).react i X.clock (X.slot n)).1 := by
    have he : X.evalRule i = (X.putRule i ((X.rule i).react i X.clock (X.slot n)).1, ((X.rule i).react i X.clock (X.slot n)).2) := by
      unfold State.evalRule
      rw [hl]
      simp only []
      rw [if_pos hp]
    unfold State.evalAlone
    rw [he]
    simp only []
    have hr1 : (X.putRule i ((X.rule i).react i X.clock (X.slot n)).1).rule i = ((X.rule i).react i X.clock (X.slot n)).1 := State.rule_putRule_same _ _ _ (by omega)
    have hcs := (cascade_send (X.putRule i ((X.rule i).react i X.clock (X.slot n)).1) ((X.rule i).react i X.clock (X.slot n)).2).rules i (by rw [hr1, liveSlot_fixed (Rule.react_fixed _ _ _ _), hl]; simpa using hn)
    rw [hcs, hr1]

/-- The first evaluation of a rule that was INACTIVE with a FALSE condition (R75, R76). -/
theorem react_fresh (q : Rule) (c) (hc : q.c = some c) (i now : Nat) (k) (c1 : q.live = .inactive) (c2 : q.condition = false) (c4 : q.confirm = none) :
   (q.react i now k).1.condition = q.judge false k ∧ 
   (q.react i now k).1.live = (if (q.react i now k).1.condition = false then .inactive else if c.confirmTime = 0 then .active else .pending) ∧
   (q.react i now k).1.confirm = (if (q.react i now k).1.condition = true ∧ 0 < c.confirmTime then some (now + 100000 * c.confirmTime) else none) := by
    have c3 : q.confirmTime = 100000 * c.confirmTime := by simp [Rule.confirmTime, hc, ms]; omega
    unfold Rule.react
    simp only [c1, c2, c3]
    cases hjj : q.judge false k with
    | false => simp [c4]
    | true =>
      by_cases hz : c.confirmTime = 0
      · simp [hz, Rule.activate]
      · have : 0 < c.confirmTime := by omega
        have h1 : ¬ (100000 * c.confirmTime = 0) := by omega
        rw [if_neg h1]; simp [this, hz]

/-- A rule put twice. -/
theorem putRule_twice (s : State) (i : Nat) (q r : Rule) : (s.putRule i q).putRule i r = s.putRule i r := by
  have e : (s.telltale.rules.put i q).put i r = s.telltale.rules.put i r := Bank.ext_items _ _ (List.set_set ..)
  simp only [State.putRule, e]

/-- A rule enabled, written out (R70, R75, R77). -/
theorem enableRule_form (s : State) (i : Nat) (hi : i < 64) (a : RulePartA) (d : RulePartD) (q r : Rule)
    (hq : q = (s.rule i).enabled) (ha : q.a = some a) (hd : q.d = some d)
    (hr : r = if s.ign.power = .waking ∨ s.ign.power = .run then ruleAfter s.clock q (s.slot a.slot) else q) :
    s.enableRule i =
      ((s.putRule i r).send
        (match d.alert with
          | some (code, severity) => if r.live = .active then [.push code severity (.rule i)] else []
          | none => [])).settleLamps := by
  have same : (s.putRule i q).rule i = q := State.rule_putRule_same s i q hi
  have named : q.liveSlot = some a.slot := (liveSlot_iff q _).mpr ⟨by rw [hq]; rfl, a, ha, rfl⟩
  have fresh : q.live = .inactive ∧ q.condition = false := by rw [hq]; exact ⟨rfl, rfl⟩
  unfold State.enableRule State.evalAlone State.evalRule
  rw [← hq, same, named]
  simp only []
  by_cases hp : s.ign.power = .waking ∨ s.ign.power = .run
  · have hp' : (s.putRule i q).ign.power = .waking ∨ (s.putRule i q).ign.power = .run := hp
    rw [if_pos hp] at hr
    rw [if_pos hp', putRule_twice, ruleAfter_react]
    have e : ruleAfter (s.putRule i q).clock q ((s.putRule i q).slot a.slot) = r := hr.symm
    rw [e]
    congr 2
    rw [← ruleAfter_react s.clock i] at hr
    show (q.react i s.clock (s.slot a.slot)).2 = _
    rw [hr]
    unfold Rule.react Rule.pushes Rule.releases
    rw [fresh.1, fresh.2, hd]
    obtain ⟨al⟩ := d
    simp only []
    cases q.judge false (s.slot a.slot) <;> simp only []
    · cases al <;> rfl
    · split <;> cases al <;> rfl
  · have hp' : ¬ ((s.putRule i q).ign.power = .waking ∨ (s.putRule i q).ign.power = .run) := hp
    rw [if_neg hp] at hr
    rw [if_neg hp', hr, fresh.1]
    simp only []
    obtain ⟨al⟩ := d
    cases al <;> rfl

/-- Settling a lamp leaves what is lit. -/
theorem settleLamp_lit (s : State) (m n : Nat) : (s.settleLamp m).lampLit n = s.lampLit n := by
  unfold State.settleLamp; split <;> rfl

/-- One lamp settled (R86). -/
theorem settleLamp_lamp (s : State) (m n : Nat) (hm : m < 32) : (s.settleLamp m).lamp n = if n = m then { s.lamp n with checked := (s.lamp n).checked && s.lampLit n } else s.lamp n := by
  unfold State.settleLamp
  split
  · rename_i h
    split
    · rename_i e; subst e; rw [h]; simp
    · rfl
  · rename_i h
    unfold State.putLamp State.lamp
    split
    · rename_i e; subst e
      show Bank.get (Bank.put _ _ _) _ _ = _
      rw [Bank.get_put_same _ _ _ _ hm]
      simp at h; rw [h]; simp
    · rename_i e
      show Bank.get (Bank.put _ _ _) _ _ = _
      rw [Bank.get_put_other _ _ _ _ _ (fun x => e x.symm)]

/-- A lamp once all are settled (R86). -/
theorem settleLamps_lamp (s : State) (n : Nat) (hn : n < 32) : s.settleLamps.lamp n = { s.lamp n with checked := (s.lamp n).checked && s.settleLamps.lampLit n } ∧ s.settleLamps.lampLit n = s.lampLit n := by
  have key : ∀ (m : Nat), m ≤ 32 → ((List.range m).foldl State.settleLamp s).lampLit n = s.lampLit n ∧ 
     ((List.range m).foldl State.settleLamp s).lamp n = if n < m then { s.lamp n with checked := (s.lamp n).checked && s.lampLit n } else s.lamp n := by
    intro m
    induction m with
    | zero => intro _; exact ⟨rfl, by simp⟩
    | succ m ih =>
      intro hm
      have ih := ih (by omega)
      rw [List.range_succ, List.foldl_append, List.foldl_cons, List.foldl_nil]
      generalize (List.range m).foldl State.settleLamp s = u at *
      refine ⟨(settleLamp_lit u m n).trans ih.1, ?_⟩
      rw [settleLamp_lamp u m n (by omega), ih.1, ih.2]
      by_cases e : n = m
      · subst e; simp
      · rw [if_neg e]
        by_cases h : n < m
        · rw [if_pos h, if_pos (by omega)]
        · rw [if_neg h, if_neg (by omega)]
  have k := key 32 (by omega)
  unfold State.settleLamps
  refine ⟨?_, k.1⟩
  rw [k.1, k.2, if_pos hn]

end Sys2Proof.Machine
end

