-- ==== Sys2Proof/Laws/Needle.lean ====
section
/-! SUPPORT. What a step, a commit and a move do to one channel (R43, R53). -/

namespace Sys2Proof.Machine

/-- What follows a commit (R44). -/
theorem afterCommit_reaction (s : State) (c : Channel) (h : curveAscends c.live.curve = true) :
    CommitReaction s c (c.afterCommit s.table.slots s.clock) := by
  intro cut hcut
  have e : c.clamp = cut := hcut.symm
  have e2 : ({ c with restTimer := none, restMark := false } : Channel).clamp = { cut with restTimer := none, restMark := false } := by
    rw [hcut]; rfl
  have ha : curveAscends cut.live.curve = true := by rw [hcut]; exact h
  have e3 : c.afterCommit s.table.slots s.clock =
      (match c.state with
        | .tracking => ({ cut with restTimer := none, restMark := false } : Channel).evaluate s.table.slots s.clock false
        | .homing => if c.parkMark then cut else cut.evaluate s.table.slots s.clock false
        | _ => c) := by
    rw [← e2, ← e]
    unfold Channel.afterCommit
    cases c.state <;> rfl
  rw [e3]
  refine ⟨fun hs => ?_, fun hs hp => ?_, fun hs hp => ?_, fun h1 h2 => ?_⟩
  · rw [hs]; exact evaluate_evaluated s { cut with restTimer := none, restMark := false } false ha
  · rw [hs, hp]; exact evaluate_evaluated s cut false ha
  · rw [hs, hp]; rfl
  · cases hs : c.state <;> first | rfl | exact absurd hs h1 | exact absurd hs h2

/-- The live curve of a channel that keeps its ranges ascends (R41). -/
theorem recordsOk_ascends {s : State} (h : RecordsOk s) {c : Nat} (hc : c < 8) : curveAscends (s.channel c).live.curve = true := by
  have := (h c hc).1
  unfold LiveRecord.passes recordPasses at this
  simp only [Bool.and_eq_true] at this
  exact this.2.1.1.1

/-! ### Moves, commits and steps (R43, R53) -/

/-- A channel that keeps its state is replaced and nothing else. -/
theorem moveChannel_same (s : State) (c : Nat) (ch : Channel) (h : (s.channel c).state = ch.state) : s.moveChannel c ch = { s with gauges := s.gauges.put c ch } := by
  unfold State.moveChannel; simp only [h, if_true]; rfl

/-- An evaluation leaves the fixed part of a channel. -/
theorem evaluate_keeps (c : Channel) (slots now b) : (c.evaluate slots now b).fixed = c.fixed := Channel.evaluate_fixed _ _ _ _

/-- What follows a commit leaves the fixed part of a channel. -/
theorem afterCommit_fixed (c : Channel) (slots now) : (c.afterCommit slots now).fixed = c.fixed := by
  unfold Channel.afterCommit
  split
  · rw [evaluate_keeps]; rfl
  · split
    · rfl
    · rw [evaluate_keeps]; rfl
  all_goals rfl

/-- A pending target taken (R53). -/
theorem takePending_eq (c : Channel) : c.takePending = { c with target := c.pending.getD c.target, pending := none } := by
  unfold Channel.takePending
  cases hp : c.pending
  · cases c; simp_all
  · rfl

/-- The rows of the step table (R53). -/
theorem step_rows (c : Channel) (now : Nat) :
    (0 < c.takePending.ahead → c.step now =
      c.takePending.stepOnce.goOn now (min (min 7 (c.takePending.level + 1)) (c.takePending.ahead.toNat - 1))) ∧
    (c.takePending.ahead ≤ 0 → 0 < c.takePending.level → c.step now =
      c.takePending.stepOnce.goOn now (c.takePending.level - 1)) ∧
    (c.takePending.ahead < 0 → c.takePending.level = 0 → c.step now =
      ({ c.takePending with direction := c.takePending.direction.reversed }).stepOnce.goOn now
        (min 1 ((-c.takePending.ahead).toNat - 1))) ∧
    (c.takePending.ahead = 0 → c.takePending.level = 0 → c.step now = c.takePending.stopped) := by
  unfold Channel.step
  simp only []
  refine ⟨fun h => if_pos h, fun h k => ?_, fun h k => ?_, fun h k => ?_⟩
  · rw [if_neg (by omega), if_pos k]
  · rw [if_neg (by omega), if_neg (by omega), if_pos h]
  · rw [if_neg (by omega), if_neg (by omega), if_neg (by omega)]

/-- One microstep, with its new level (R53). -/
theorem goOn_step (c : Channel) (now level : Nat) (hd : c.direction ≠ .none) :
    (c.stepOnce.goOn now level).fixed = { c.fixed with position := if c.direction = .up then c.position + 1 else c.position - 1, driveIndex := if c.direction = .up then (c.driveIndex + 1) % 48 else (c.driveIndex + 47) % 48 } ∧
    (c.stepOnce.goOn now level).target = c.target ∧ (c.stepOnce.goOn now level).pending = c.pending ∧
    (c.stepOnce.goOn now level).level = level ∧ (c.stepOnce.goOn now level).direction = c.direction ∧
    (c.stepOnce.goOn now level).stepTimer = some (now + c.live.settings.intervals.get level 0) := by
  unfold Channel.stepOnce Channel.goOn
  cases h : c.direction
  · exact ⟨rfl, rfl, rfl, rfl, h, rfl⟩
  · exact ⟨rfl, rfl, rfl, rfl, h, rfl⟩
  · exact absurd h hd

/-- A step event: everything the step table gives (R53). -/
theorem step_spec (c0 : Channel) (now : Nat) (hd : c0.direction ≠ .none) :
      let ch := c0.step now
      ch.target = c0.pending.getD c0.target ∧ ch.pending = none ∧
      (¬ (c0.state = .parking ∧ c0.level = 0 ∧ c0.pending.getD c0.target = c0.position) → ch.state = c0.state) ∧
      ∀ ahead : Int,
        ahead = (if c0.direction = .up then (ch.target : Int) - c0.position
          else (c0.position : Int) - ch.target) →
        (0 < ahead → ch.direction = c0.direction ∧
          (ch.level : Int) = min (min 7 ((c0.level : Int) + 1)) (ahead - 1)) ∧
        (ahead ≤ 0 → 0 < c0.level →
          ch.direction = c0.direction ∧ ch.level = c0.level - 1) ∧
        (0 < ahead ∨ 0 < c0.level →
          ch.position = (if c0.direction = .up then c0.position + 1
            else c0.position - 1)) ∧
        (ahead < 0 → c0.level = 0 →
          ch.direction = (if c0.direction = .up then .down else .up) ∧
          ch.position = (if c0.direction = .up then c0.position - 1
            else c0.position + 1) ∧
          (ch.level : Int) = min 1 (-ahead - 1)) ∧
        (ahead = 0 → c0.level = 0 →
          ch.direction = .none ∧ ch.position = c0.position ∧ ch.level = 0 ∧ ch.stepTimer = none ∧
            ch.driveIndex = c0.driveIndex) ∧
        (ahead ≠ 0 ∨ 0 < c0.level →
          ch.stepTimer = some (now + c0.live.settings.intervals.get ch.level 0) ∧
          ch.driveIndex =
            (if ch.direction = .up then (c0.driveIndex + 1) % 48
             else (c0.driveIndex + 47) % 48)) := by
  obtain ⟨r1, r2, r3, r4⟩ := step_rows c0 now
  rw [takePending_eq] at r1 r2 r3 r4
  generalize c0.pending.getD c0.target = T at *
  have hA : ∀ a : Int, a = (if c0.direction = .up then (T : Int) - c0.position else (c0.position : Int) - T) → 
      ({ c0 with target := T, pending := none } : Channel).ahead = a := by
    intro a ha; unfold Channel.ahead
    cases hk : c0.direction <;> simp_all
  generalize hX : ({ c0 with target := T, pending := none } : Channel) = X at *
  have e1 : X.target = T := by rw [← hX]
  have e2 : X.pending = none := by rw [← hX]
  have e3 : X.state = c0.state := by rw [← hX]
  have e4 : X.direction = c0.direction := by rw [← hX]
  have e5 : X.position = c0.position := by rw [← hX]
  have e6 : X.level = c0.level := by rw [← hX]
  have e7 : X.driveIndex = c0.driveIndex := by rw [← hX]
  have e8 : X.live = c0.live := by rw [← hX]
  have hd' : X.direction ≠ .none := by rw [e4]; exact hd
  have A := hA _ rfl
  generalize hR : X.ahead = R at *
  have cases4 : 0 < R ∨ (R ≤ 0 ∧ 0 < X.level) ∨ (R < 0 ∧ X.level = 0) ∨ (R = 0 ∧ X.level = 0) := by omega
  have go : ∀ (Y : Channel) (level : Nat), Y.direction ≠ .none → 
      (Y.stepOnce.goOn now level).state = Y.state ∧ (Y.stepOnce.goOn now level).position = (if Y.direction = .up then Y.position + 1 else Y.position - 1) ∧
      (Y.stepOnce.goOn now level).driveIndex = (if Y.direction = .up then (Y.driveIndex + 1) % 48 else (Y.driveIndex + 47) % 48) := by
    intro Y level hY
    have g := (goOn_step Y now level hY).1
    have a := congrArg Channel.state g
    have b := congrArg Channel.position g
    have c := congrArg Channel.driveIndex g
    exact ⟨a, b, c⟩
  rcases cases4 with h | ⟨h, k⟩ | ⟨h, k⟩ | ⟨h, k⟩
  · rw [r1 h]
    have g := goOn_step X now (min (min 7 (X.level + 1)) (R.toNat - 1)) hd'
    have g' := go X (min (min 7 (X.level + 1)) (R.toNat - 1)) hd'
    generalize X.stepOnce.goOn now (min (min 7 (X.level + 1)) (R.toNat - 1)) = Z at *
    refine ⟨g.2.1.trans e1, g.2.2.1.trans e2, fun _ => g'.1.trans e3, ?_⟩
    intro a ha
    have : R = a := by rw [ha, g.2.1, e1]; exact A
    subst this
    refine ⟨fun _ => ⟨g.2.2.2.2.1.trans e4, by rw [g.2.2.2.1]; omega⟩, fun x => by omega, fun _ => by rw [g'.2.1, e4, e5], fun x => by omega, fun x => by omega, fun _ => ⟨by rw [g.2.2.2.2.2, e8, g.2.2.2.1], by rw [g'.2.2, g.2.2.2.2.1, e7]⟩⟩
  · rw [r2 h k]
    have g := goOn_step X now (X.level - 1) hd'
    have g' := go X (X.level - 1) hd'
    generalize X.stepOnce.goOn now (X.level - 1) = Z at *
    refine ⟨g.2.1.trans e1, g.2.2.1.trans e2, fun _ => g'.1.trans e3, ?_⟩
    intro a ha
    have : R = a := by rw [ha, g.2.1, e1]; exact A
    subst this
    refine ⟨fun _ => by omega, fun _ _ => ⟨g.2.2.2.2.1.trans e4, by rw [g.2.2.2.1]; omega⟩, fun _ => by rw [g'.2.1, e4, e5], fun x => by omega, fun x => by omega, fun _ => ⟨by rw [g.2.2.2.2.2, e8, g.2.2.2.1], by rw [g'.2.2, g.2.2.2.2.1, e7]⟩⟩
  · rw [r3 h k]
    have hr : X.direction.reversed ≠ .none := by revert hd'; cases X.direction <;> simp [Direction.reversed]
    have hr2 : X.direction.reversed = if c0.direction = .up then .down else .up := by rw [← e4]; revert hd'; cases X.direction <;> simp [Direction.reversed]
    have g := goOn_step { X with direction := X.direction.reversed } now (min 1 ((-R).toNat - 1)) hr
    have g' := go { X with direction := X.direction.reversed } (min 1 ((-R).toNat - 1)) hr
    generalize Channel.goOn (Channel.stepOnce { X with direction := X.direction.reversed }) now (min 1 ((-R).toNat - 1)) = Z at *
    refine ⟨g.2.1.trans e1, g.2.2.1.trans e2, fun _ => g'.1.trans e3, ?_⟩
    intro a ha
    have : R = a := by rw [ha, g.2.1]; exact (A.trans (by rw [← e1]))
    subst this
    refine ⟨fun _ => by omega, fun _ _ => by omega, fun x => by omega, fun _ _ => ⟨g.2.2.2.2.1.trans hr2, ?_, by rw [g.2.2.2.1]; omega⟩, fun x => by omega, fun _ => ⟨by rw [g.2.2.2.2.2, g.2.2.2.1]; show some (now + X.live.settings.intervals.get _ _) = _; rw [e8], by rw [g'.2.2, g.2.2.2.2.1]; show (if _ then (X.driveIndex + 1) % 48 else (X.driveIndex + 47) % 48) = _; rw [e7]⟩⟩
    rw [g'.2.1]
    show (if X.direction.reversed = .up then X.position + 1 else X.position - 1) = _
    rw [hr2, e5]
    by_cases hu : c0.direction = .up <;> simp [hu]
  · rw [r4 h k]
    have st : X.stopped.target = X.target ∧ X.stopped.pending = X.pending ∧ X.stopped.direction = .none ∧ X.stopped.position = X.position ∧ X.stopped.level = 0 ∧ X.stopped.stepTimer = none ∧ X.stopped.driveIndex = X.driveIndex ∧ X.stopped.state = (if X.state = .parking then .parked else X.state) := by
      unfold Channel.stopped
      exact ⟨rfl, rfl, rfl, rfl, rfl, rfl, rfl, rfl⟩
    generalize X.stopped = Z at *
    refine ⟨st.1.trans e1, st.2.1.trans e2, fun x => ?_, ?_⟩
    · rw [st.2.2.2.2.2.2.2, e3]
      split
      · rename_i hp
        exfalso; apply x; refine ⟨hp, by omega, ?_⟩
        revert A; rw [h]; split <;> omega
      · rfl
    · intro a ha
      have : R = a := by rw [ha, st.1, e1]; exact A
      subst this
      refine ⟨fun _ => by omega, fun _ _ => by omega, fun x => by omega, fun _ _ => by omega, fun _ _ => ⟨st.2.2.1, st.2.2.2.1.trans e5, st.2.2.2.2.1, st.2.2.2.2.2.1, st.2.2.2.2.2.2.1.trans e7⟩, fun _ => by omega⟩

end Sys2Proof.Machine
end

