-- ==== Sys2Proof/Laws/Params.lean ====
section
/-! SUPPORT. What follows the change of a parameter (R174), and the duty (R84). -/

namespace Sys2Proof.Machine

/-- A held value put reads back, and the others stay. -/
theorem held_setHeld (s : State) (id j : Nat) (v : Int) (h : id < 27) : (s.setHeld id v).held j = if j = id then v else s.held j := by
  unfold State.setHeld State.held
  simp only []
  by_cases hj : j = id
  · subst hj; rw [Bank.get_put_same _ _ _ _ h]; simp
  · rw [Bank.get_put_other _ _ _ _ _ (Ne.symm hj)]; simp [hj]

/-- What a change of P_CARD_SLOT_1 or P_CARD_SLOT_2 can do (R130). -/
theorem ripple_changeCardSlot (ch) (hch : ∀ n, onlyTacho n → ch n) (s : State) (d : Driver) : Ripple ch s (s.changeCardSlot d) := by
  unfold State.changeCardSlot
  simp only []
  have h1 : Ripple ch s (if (s.driver d).present then s.withdrawCard d else s) := by
    split
    · exact ripple_withdrawCard ch hch s d
    · exact Ripple.refl ch s
  generalize (if (s.driver d).present then s.withdrawCard d else s) = t at *
  split
  · exact h1
  · split
    · exact h1.trans (ripple_insertCard ch hch _ d)
    · exact h1

/-- What a change of the driving limit can do (R132). -/
theorem ripple_followLimit (ch) (hch : ∀ n, onlyTacho n → ch n) (s : State) (d : Driver) : Ripple ch s (s.followLimit d) := by
  unfold State.followLimit
  split
  · exact ripple_writeOther ch _ _ _ (hch _ (onlyTacho_left d)) (hch _ onlyTacho_top)
  · exact Ripple.refl ch s

/-- Everything that the change of a parameter can do. -/
theorem ripple_paramChanged (ch) (hch : ∀ n, onlyTacho n → ch n) (s : State) (id : Nat) :
    Ripple ch s (s.paramChanged id) (fun n => ch n ∨ ((id = 4 ∨ id = 5) ∧ s.param 4 = n)) := by
  have w : ∀ {t : State}, Ripple ch s t → Ripple ch s t (fun n => ch n ∨ ((id = 4 ∨ id = 5) ∧ s.param 4 = n)) :=
    fun h => h.wide fun _ h => .inl h
  unfold State.paramChanged
  split
  · exact ripple_updateDuty ch s _ fun _ h => .inr ⟨.inl rfl, h⟩
  · exact ripple_updateDuty ch s _ fun _ h => .inr ⟨.inr rfl, h⟩
  · exact w ((ripple_judgeMismatch ch s).trans (ripple_judgeWatch ch _))
  · exact w (ripple_changeCardSlot ch hch s _)
  · exact w (ripple_changeCardSlot ch hch s _)
  · exact w ((ripple_followLimit ch hch s _).trans (ripple_followLimit ch hch _ _))
  · exact w (Ripple.refl ch s)

/-- A parameter that no block follows at once changes nothing else. -/
theorem paramChanged_other (s : State) (id : Nat) (h : id ∉ [4,5,10,13,14,17]) : s.paramChanged id = s := by
  unfold State.paramChanged
  split <;> simp_all

/-- A mark in the dirty set leaves the telltale block. -/
theorem markDirty_duty (s : State) (k) : (s.markDirty k).telltale = s.telltale := by unfold State.markDirty; split <;> rfl

/-- A mark in the dirty set leaves the Signal Table. -/
theorem markDirty_table (s : State) (k) : (s.markDirty k).table = s.table := by unfold State.markDirty; split <;> rfl

/-- A mark in the dirty set leaves management. -/
theorem markDirty_mgmt (s : State) (k) : (s.markDirty k).mgmt = s.mgmt := by unfold State.markDirty; split <;> rfl

/-- After its update the duty is what the parameters and the dim slot give. -/
theorem updateDuty_duty (s : State) : s.updateDuty.telltale.duty = s.updateDuty.dutyNow := by
  unfold State.updateDuty
  split
  · rename_i h; exact h.symm
  · rw [markDirty_duty]
    simp only [State.dutyNow, State.paramSlot, State.paramNat, State.param, State.held, State.slot, markDirty_table, markDirty_mgmt]
    rfl

end Sys2Proof.Machine
end

