-- ==== Sys2Proof/Laws/Parking.lean ====
section
/-! SUPPORT. What PARKING entry and the return to RUN do to the alert block, the rules and the channels, said once (R58, R60, R88,
R105, R150, R189, R191). -/

namespace Sys2Proof.Machine

/-- In PARKING no rule evaluates (R75). -/
theorem gather_parked (s : State) (n : Nat) (h : s.ign.power = .parking) : s.gatherRules n = (s, []) := by
  unfold State.gatherRules
  split
  · have : ∀ (l : List Nat), l.foldl (gatherRule n) (s, []) = (s, []) := by
      intro l
      induction l with
      | nil => rfl
      | cons i l ih =>
        rw [List.foldl_cons]
        have : gatherRule n (s, []) i = (s, []) := by
          unfold gatherRule State.evalRule
          split
          · next hl =>
            rw [hl, h]; simp
          · rfl
        rw [this, ih]
    exact this _
  · rfl

/-- A slot written in PARKING reaches the alert block and the transmit queue with nothing. -/
theorem quiet_write (s : State) (n : Nat) (w : SlotWrite) (h : s.ign.power = .parking) (hb : s.alert.backlog = []) :
    (s.writePlain n w).alert = s.alert ∧ (s.writePlain n w).intake = s.intake := by
  unfold State.writePlain State.displayEvent
  obtain ⟨d, hd⟩ := markDirty_only ((s.writeRecord n w).tell n) (slotKinds n)
  have : ((s.writeRecord n w).tell n).alert = s.alert ∧ ((s.writeRecord n w).tell n).intake = s.intake := by
    unfold State.tell
    have hp : ((s.writeRecord n w).gaugeEvent n).ign.power = .parking := h
    simp only [gather_parked _ n hp]
    unfold State.sendGathered
    have e : (((s.writeRecord n w).gaugeEvent n).dimEvent n).alert = s.alert ∧
        (((s.writeRecord n w).gaugeEvent n).dimEvent n).intake = s.intake := quiet_dim _ _
    split
    · rw [send_nothing _ (by rw [e.1]; exact hb)]
      obtain ⟨l, hl⟩ := settleLamps_only (((s.writeRecord n w).gaugeEvent n).dimEvent n)
      rw [hl]; exact e
    · exact e
  rw [hd]
  exact this

/-- A summary slot set at PARKING entry reaches the alert block and the transmit queue with nothing. -/
theorem quiet_park (s : State) (d : Driver) (h : s.ign.power = .parking) (hb : s.alert.backlog = []) :
    (s.parkSummary d).alert = s.alert ∧ (s.parkSummary d).intake = s.intake := by
  have w : ∀ v, (s.writeSummary d v).alert = s.alert ∧ (s.writeSummary d v).intake = s.intake := by
    intro v
    unfold State.writeSummary State.writeOther
    split
    · exact ⟨rfl, rfl⟩
    · exact quiet_write s _ _ h hb
  unfold State.parkSummary
  split
  · exact w _
  · exact ⟨rfl, rfl⟩

/-- A summary slot set at PARKING entry (R150): a slot that reads 1 shows whether the driver's record is valid. -/
theorem parkSummary_spec (s : State) (d : Driver) :
    (s.parkSummary d).tacho = s.tacho ∧
      ((s.parkSummary d).slot (summarySlot d)).value =
        (if (s.slot (summarySlot d)).value = 1 then (if (s.driver d).summary = none then 0 else 2)
         else (s.slot (summarySlot d)).value) ∧
      ∀ e, e ≠ d → (s.parkSummary d).slot (summarySlot e) = s.slot (summarySlot e) := by
  have k := summarySlot_ok d
  unfold State.parkSummary State.writeSummary
  by_cases h : (s.slot (summarySlot d)).value = 1
  · rw [if_pos h, if_pos h]
    refine ⟨writeOther_tacho _ _ _, ?_, fun e he => ?_⟩
    · rw [writeOther_value _ _ _ k.1 k.2]
      cases (s.driver d).summary <;> rfl
    · have R := ripple_writeOther (fun n => n = summarySlot d ∨ n = 13) s (summarySlot d)
        (if (s.driver d).summary.isSome then 2 else 0) (.inl rfl) (.inr rfl)
      exact R.slots _ (fun hh => hh.elim (summarySlot_inj he) (summarySlot_ok e).2)
  · rw [if_neg h, if_neg h]
    exact ⟨rfl, rfl, fun _ _ => rfl⟩

/-- What an offer makes of the transmit queue (R9). -/
theorem offer_transmit (s : State) (f : TxFrame) :
    (s.offer f).intake.transmit =
      if s.intake.transmit.length < transmitRoom then s.intake.transmit ++ [f] else s.intake.transmit := by
  unfold State.offer
  split <;> rfl

/-- A parameter's value depends on the management block alone. -/
theorem param_mgmt {s t : State} (h : t.mgmt = s.mgmt) (n : Nat) : t.param n = s.param n := by
  unfold State.param State.held
  simp only [h]

/-- An abandonment as a whole (R143): a transfer in flight is stopped with its frame, or was not yet there to be stopped. -/
theorem abandonAny_spec (s : State) :
    ∃ t, s.abandonAny = t ∧ t.alert = s.alert ∧ t.ign = s.ign ∧ t.table = s.table ∧ t.tacho.transfer = .idle ∧
      (∀ d, t.driver d =
        { s.driver d with outcome := if stopsTransfer s d then .stopped else (s.driver d).outcome }) ∧
      t.tacho.minuteTimer = s.tacho.minuteTimer ∧
      (∀ d, stopsTransfer s d = true → t.intake.transmit = (s.offer (stopFrame s d)).intake.transmit) ∧
      ((∀ d, stopsTransfer s d = false) → t.intake.transmit = s.intake.transmit) := by
  refine ⟨_, rfl, ?_⟩
  unfold State.abandonAny
  have same : ∀ {u : State}, (∀ d, stopsTransfer s d = false) → u.tacho.d1 = s.tacho.d1 → u.tacho.d2 = s.tacho.d2 →
      ∀ d, u.driver d =
        { s.driver d with outcome := if stopsTransfer s d then .stopped else (s.driver d).outcome } := by
    intro u hn h1 h2 d
    rw [hn d, driver_tacho h1 h2]; rfl
  cases hd : s.tacho.transfer.driver with
  | none =>
    have hi : s.tacho.transfer = .idle := by
      revert hd; unfold Transfer.driver; cases s.tacho.transfer <;> simp
    have hn : ∀ d, stopsTransfer s d = false := fun d => by rw [stopsTransfer_iff, hd]; simp
    exact ⟨rfl, rfl, rfl, hi, same hn rfl rfl, rfl, fun d h => absurd h (by rw [hn d]; simp), fun _ => rfl⟩
  | some e =>
    simp only []
    unfold State.abandon
    by_cases hr : s.restartedNow = true
    · rw [if_pos hr]
      have hn : ∀ d, stopsTransfer s d = false := fun d => by rw [stopsTransfer_iff, hr]; simp
      exact ⟨rfl, rfl, rfl, rfl, same hn rfl rfl, rfl, fun d h => absurd h (by rw [hn d]; simp), fun _ => rfl⟩
    · rw [if_neg hr, tachoFrame_stop]
      have hs : ∀ d, stopsTransfer s d = decide (e = d) := fun d => by
        rw [stopsTransfer_iff, hd]; simp [hr]
      obtain ⟨f1, _, f3, f4, _, _, _⟩ := offer_frame s (stopFrame s e)
      refine ⟨?_, ?_, ?_, rfl, ?_, ?_, ?_, ?_⟩
      · cases e <;> exact f3
      · cases e <;> exact (ripple_offer (fun _ => True) _ _).ign
      · cases e <;> exact f4
      · intro d
        rw [hs d]
        have o : ∀ d, (s.offer (stopFrame s e)).driver d = s.driver d := fun d =>
          driver_tacho (by rw [f1]) (by rw [f1]) d
        show ((s.offer (stopFrame s e)).putDriver e { (s.offer (stopFrame s e)).driver e with outcome := .stopped }).driver d = _
        rw [driver_putDriver]
        by_cases he : d = e
        · subst he; rw [if_pos rfl, o]; simp
        · rw [if_neg he, o]
          have : ¬ e = d := fun h => he h.symm
          simp [this]
      · have := congrArg Tacho.minuteTimer f1
        cases e <;> exact this
      · intro d h
        rw [hs d] at h
        have : e = d := by simpa using h
        subst this
        cases e <;> rfl
      · intro h
        have := h e
        rw [hs e] at this; simp at this

/-- The tachograph block at PARKING entry (R150). -/
theorem parkTacho_spec (s : State) (h : s.ign.power = .parking) :
    s.parkTacho.tacho.minuteTimer = none ∧ s.parkTacho.tacho.readout = [] ∧ s.parkTacho.tacho.transfer = .idle ∧
      (∀ d, s.parkTacho.driver d =
        { s.driver d with outcome := if stopsTransfer s d then .stopped else (s.driver d).outcome }) ∧
      (∀ d, (s.parkTacho.slot (summarySlot d)).value =
        if (s.slot (summarySlot d)).value = 1 then (if (s.driver d).summary = none then 0 else 2)
        else (s.slot (summarySlot d)).value) ∧
      (s.alert.backlog = [] →
        s.parkTacho.alert = s.alert ∧
        (∀ d, stopsTransfer s d = true → s.parkTacho.intake.transmit = (s.offer (stopFrame s d)).intake.transmit) ∧
        ((∀ d, stopsTransfer s d = false) → s.parkTacho.intake.transmit = s.intake.transmit)) := by
  unfold State.parkTacho
  simp only []
  obtain ⟨t, ht, a1, a2, a3, a4, a5, a6, a7, a8⟩ := abandonAny_spec { s with tacho.minuteTimer := none }
  rw [ht]
  have sx : ∀ d, stopsTransfer { s with tacho.minuteTimer := none } d = stopsTransfer s d := fun _ => rfl
  have dx : ∀ d, ({ s with tacho.minuteTimer := none } : State).driver d = s.driver d := fun d => by cases d <;> rfl
  simp only [sx, dx] at a5 a7 a8
  have a9 : ∀ n, t.slot n = s.slot n := fun n => by simp only [State.slot, a3]
  obtain ⟨p1, p2, p3⟩ := parkSummary_spec { t with tacho.readout := [] } .one
  obtain ⟨q1, q2, q3⟩ := parkSummary_spec (State.parkSummary { t with tacho.readout := [] } .one) .two
  have g1 := (ripple_parkSummary (fun _ => True) (fun _ _ => trivial) { t with tacho.readout := [] } .one).ign
  have tt := q1.trans p1
  have d0 : ∀ d, ({ t with tacho.readout := [] } : State).driver d = t.driver d := fun d => by cases d <;> rfl
  have d1 : ∀ d, (State.parkSummary { t with tacho.readout := [] } .one).driver d = t.driver d := fun d => by
    rw [← d0]; exact driver_tacho (by rw [p1]) (by rw [p1]) d
  refine ⟨by rw [tt]; exact a6, by rw [tt], by rw [tt]; exact a4, fun d => ?_, fun d => ?_, fun hb => ?_⟩
  · rw [← a5, ← d1]; exact driver_tacho (by rw [q1]) (by rw [q1]) d
  · have sd : ∀ d, (t.driver d).summary = (s.driver d).summary := fun d => by rw [a5]
    cases d
    · rw [q3 .one (by decide), p2, d0, sd]
      show (if (t.slot _).value = 1 then _ else (t.slot _).value) = _
      rw [a9]
    · rw [q2, d1, sd, p3 .two (by decide)]
      show (if (t.slot _).value = 1 then _ else (t.slot _).value) = _
      rw [a9]
  · have hp : t.ign.power = .parking := by rw [a2]; exact h
    have hb1 : t.alert.backlog = [] := by rw [a1]; exact hb
    have e1 := quiet_park { t with tacho.readout := [] } .one hp hb1
    have e2 := quiet_park (State.parkSummary { t with tacho.readout := [] } .one) .two (by rw [g1]; exact hp)
      (by rw [e1.1]; exact hb1)
    refine ⟨e2.1.trans (e1.1.trans a1), fun d hd => ?_, fun hd => ?_⟩
    · rw [e2.2, e1.2]
      have := a7 d hd
      rw [offer_transmit] at this ⊢
      exact this
    · rw [e2.2, e1.2]; exact a8 hd

/-- PARKING entry comes down to the tachograph block's part of it, on a state whose chime is idle (R105, R150, R189). -/
theorem parking_last (s : State) :
    ∃ z : State, s.parkingEntry = (z.parkTacho.markDirty [.pageSelect]).compareIgn ∧
      z.alert = { s.alert with playing := none, chimeTimer := none, tone := false, toneTimer := none } ∧
      z.ign.power = .parking ∧ z.tacho = s.tacho ∧ z.table = s.table ∧ z.clock = s.clock ∧ z.intake = s.intake ∧
      z.mgmt = s.mgmt := by
  unfold State.parkingEntry
  simp only []
  obtain ⟨b, hb2⟩ := moveAll_only
    { s with
      ign.power := .parking, ign.hold := true, ign.secondTimer := none, ign.parkingTimer := s.after (ms 10000),
      ign.writeMark := true, ign.proveOutRunning := false,
      telltale.rules := s.telltale.rules.map Rule.park, telltale.proveOut := none } (fun c => c.park s.clock)
  rw [hb2]
  refine ⟨_, rfl, ?_⟩
  generalize hx : ({ s with
      ign.power := .parking, ign.hold := true, ign.secondTimer := none, ign.parkingTimer := s.after (ms 10000),
      ign.writeMark := true, ign.proveOutRunning := false, ign.reports := b,
      telltale.rules := s.telltale.rules.map Rule.park, telltale.proveOut := none,
      gauges := s.gauges.map (fun c => c.park s.clock) } : State) = x
  obtain ⟨l, hl⟩ := settleLamps_only x
  rw [hl]
  unfold State.storeOdometer
  generalize hz : State.chimeIdle { x with telltale.lamps := l } = z
  obtain ⟨w, t, m, hr, _, _⟩ := requestCal_frame { z with dist.storedOdo := z.dist.liveOdo }
  rw [hr, ← hz, ← hx]
  exact ⟨rfl, rfl, rfl, rfl, rfl, rfl, rfl⟩

/-- The alert block at PARKING entry: the chime stops, and the stack stands (R105). -/
theorem parking_alert (s : State) (hb : s.alert.backlog = []) :
    s.parkingEntry.alert = { s.alert with playing := none, chimeTimer := none, tone := false, toneTimer := none } := by
  obtain ⟨z, he, z1, z2, _⟩ := parking_last s
  obtain ⟨d, hd⟩ := markDirty_only z.parkTacho [.pageSelect]
  rw [he, hd]
  show z.parkTacho.alert = _
  rw [((parkTacho_spec z z2).2.2.2.2.2 (by rw [z1]; exact hb)).1, z1]

/-- The tachograph block at PARKING entry (R150), with the STOP frame of a transfer in flight (R143). -/
theorem parking_tacho (s : State) :
    s.parkingEntry.tacho.minuteTimer = none ∧ s.parkingEntry.tacho.readout = [] ∧
      s.parkingEntry.tacho.transfer = .idle ∧
      (∀ d, s.parkingEntry.driver d =
        { s.driver d with outcome := if stopsTransfer s d then .stopped else (s.driver d).outcome }) ∧
      (∀ d, (s.parkingEntry.slot (summarySlot d)).value =
        if (s.slot (summarySlot d)).value = 1 then (if (s.driver d).summary = none then 0 else 2)
        else (s.slot (summarySlot d)).value) ∧
      (s.alert.backlog = [] →
        (∀ d, stopsTransfer s d = true → s.parkingEntry.intake.transmit = (s.offer (stopFrame s d)).intake.transmit) ∧
        ((∀ d, stopsTransfer s d = false) → s.parkingEntry.intake.transmit = s.intake.transmit)) := by
  obtain ⟨z, he, z1, z2, z3, z4, z5, z6, z7⟩ := parking_last s
  obtain ⟨g, hg⟩ := markDirty_only z.parkTacho [.pageSelect]
  rw [he, hg]
  have sx : ∀ d, stopsTransfer z d = stopsTransfer s d := fun d => by unfold stopsTransfer; rw [z3, z5]
  have dx : ∀ d, z.driver d = s.driver d := fun d => driver_tacho (by rw [z3]) (by rw [z3]) d
  have lx : ∀ n, z.slot n = s.slot n := fun n => by simp only [State.slot, z4]
  have fx : ∀ d, (z.offer (stopFrame z d)).intake.transmit = (s.offer (stopFrame s d)).intake.transmit := fun d => by
    rw [offer_transmit, offer_transmit, z6]
    have : stopFrame z d = stopFrame s d := by
      unfold stopFrame State.tachoReqId State.paramNat
      rw [param_mgmt z7]
    rw [this]
  have T := parkTacho_spec z z2
  simp only [sx, dx, lx, fx, z6] at T
  obtain ⟨t1, t2, t3, t4, t5, t6⟩ := T
  refine ⟨t1, t2, t3, fun d => (t4 d).symm ▸ ?_, t5, fun hb => (t6 (by rw [z1]; exact hb)).2⟩
  cases d <;> rfl

/-- A motion that starts leaves the state alone. -/
theorem startMotion_state (c : Channel) (now : Nat) : (c.startMotion now).state = c.state := by
  unfold Channel.startMotion
  split
  · rfl
  · split <;> rfl

/-- A parked channel attends to no slot (R48). -/
theorem park_deaf (c : Channel) (now : Nat) : (c.park now).attends = false := by
  unfold Channel.park
  cases hk : c.state
  · simp [Channel.attends, hk]
  · simp [Channel.attends]
  · simp only []
    split
    · split
      · simp [Channel.attends]
      · simp [Channel.attends, startMotion_state]
    · simp [Channel.attends]
  all_goals simp [Channel.attends, hk]

/-- The rules that evaluate at the return to RUN leave all but the rules alone. -/
theorem resume_fold (l : List Nat) : ∀ (acc : State × List AlertAction), 
    (l.foldl resumeRule acc).1.table = acc.1.table ∧ (l.foldl resumeRule acc).1.clock = acc.1.clock ∧
      (l.foldl resumeRule acc).1.gauges = acc.1.gauges ∧
      (l.foldl resumeRule acc).1.alert = acc.1.alert ∧ (l.foldl resumeRule acc).1.ign = acc.1.ign ∧
      (l.foldl resumeRule acc).1.tacho = acc.1.tacho := by
  intro acc
  obtain ⟨b, hb⟩ := resumeFold_rules l acc
  rw [hb]; exact ⟨rfl, rfl, rfl, rfl, rfl, rfl⟩

/-- What rule `i` of `s` makes of its slot at the return to RUN (R88). -/
def resumed (s : State) (i : Nat) : Rule × List AlertAction :=
  match (s.rule i).liveSlot with
  | none => (s.rule i, [])
  | some n => (s.rule i).resume i s.clock (s.slot n)

/-- Each listed rule evaluates once, on what stood before, and what they send stands in their order. -/
theorem resume_rule (l : List Nat) : ∀ (acc : State × List AlertAction), (∀ i ∈ l, i < 64) → l.Nodup →
    (∀ i, i < 64 → (l.foldl resumeRule acc).1.rule i = if i ∈ l then (resumed acc.1 i).1 else acc.1.rule i) ∧
    (l.foldl resumeRule acc).2 = acc.2 ++ l.flatMap (fun i => (resumed acc.1 i).2) := by
  induction l with
  | nil => intro acc _ _; exact ⟨fun _ _ => by simp, by simp⟩
  | cons j l ih =>
    intro acc hl hd
    have hd' := List.nodup_cons.mp hd
    have hj := hl j (by simp)
    obtain ⟨a, b⟩ := ih (resumeRule acc j) (fun i hi => hl i (by simp [hi])) hd'.2
    have f1 : (resumeRule acc j).1.rule j = (resumed acc.1 j).1 := by
      unfold resumeRule resumed
      cases he : (acc.1.rule j).liveSlot with
      | none => rfl
      | some n => exact State.rule_putRule_same _ _ _ hj
    have f2 : ∀ i, i ≠ j → (resumeRule acc j).1.rule i = acc.1.rule i := by
      intro i hi
      unfold resumeRule
      split
      · rfl
      · exact State.rule_putRule_other _ _ _ _ (Ne.symm hi)
    have f3 : (resumeRule acc j).2 = acc.2 ++ (resumed acc.1 j).2 := by
      unfold resumeRule resumed
      cases he : (acc.1.rule j).liveSlot with
      | none => simp
      | some n => rfl
    have f4 : (resumeRule acc j).1.clock = acc.1.clock ∧ (resumeRule acc j).1.table = acc.1.table := by
      unfold resumeRule
      split <;> exact ⟨rfl, rfl⟩
    have f5 : ∀ i, i ≠ j → resumed (resumeRule acc j).1 i = resumed acc.1 i := by
      intro i hi
      unfold resumed
      rw [f2 i hi, f4.1]
      have : ∀ n, (resumeRule acc j).1.slot n = acc.1.slot n := fun n => by simp only [State.slot, f4.2]
      simp only [this]
    refine ⟨fun i hi => ?_, ?_⟩
    · rw [List.foldl_cons, a i hi]
      by_cases e : i = j
      · subst e; rw [if_neg hd'.1, if_pos (by simp), f1]
      · by_cases h : i ∈ l
        · rw [if_pos h, if_pos (by simp [h]), f5 i e]
        · rw [if_neg h, if_neg (by simp [h, e]), f2 i e]
    · rw [List.foldl_cons, b, f3, List.flatMap_cons, List.append_assoc]
      congr 2
      have : ∀ i ∈ l, (resumed (resumeRule acc j).1 i).2 = (resumed acc.1 i).2 := fun i hi => by
        rw [f5 i (fun e => hd'.1 (e ▸ hi))]
      rw [List.flatMap_def, List.flatMap_def, List.map_congr_left this]

/-- The rules and the channels that name none of slots 8, 9 and 13 stand. -/
structure Far (s t : State) : Prop where
  named : ∀ i, (t.rule i).liveSlot = (s.rule i).liveSlot
  rules : ∀ i, (∀ n ∈ [8, 9, 13], (s.rule i).liveSlot ≠ some n) → t.rule i = s.rule i
  channels : ∀ c, (∀ n ∈ [8, 9, 13], (s.channel c).consumes n = false) → t.channel c = s.channel c

theorem Cascade.far {s t : State} (h : Cascade s t) : Far s t :=
  ⟨h.named, fun i hi => h.rules i (hi 13 (by simp)), fun c hc => h.channels c (hc 13 (by simp))⟩

theorem Apart.far {n : Nat} {s t : State} (hn : n = 8 ∨ n = 9) (h : Apart n s t) : Far s t :=
  ⟨h.named, fun i hi => h.rules i (hi 13 (by simp)) (hi n (by rcases hn with e | e <;> simp [e])),
    fun c hc => h.channels c (hc 13 (by simp)) (hc n (by rcases hn with e | e <;> simp [e]))⟩

theorem Far.trans {s t u : State} (h : Far s t) (k : Far t u) : Far s u :=
  ⟨fun i => (k.named i).trans (h.named i),
    fun i hi => (k.rules i (fun n hn => by rw [h.named i]; exact hi n hn)).trans (h.rules i hi),
    fun c hc => (k.channels c (by rw [h.channels c hc]; exact hc)).trans (h.channels c hc)⟩

theorem Far.same {s t : State} (hr : t.telltale.rules = s.telltale.rules) (hg : t.gauges = s.gauges) : Far s t :=
  have h : ∀ i, t.rule i = s.rule i := fun i => by simp only [State.rule, hr]
  ⟨fun i => by rw [h i], fun i _ => h i, fun c _ => by simp only [State.channel, hg]⟩

theorem far_compareIgn (s : State) : Far s s.compareIgn := Far.same rfl rfl

theorem far_startTransfer (s : State) (e : Readout) (l : List Readout) : Far s (s.startTransfer e l) := by
  unfold State.startTransfer State.writeSummary
  refine Far.trans (Far.trans ?_ ((cascade_offer _ _).far)) ((apart_writeOther _ _ _).far (by cases e.driver <;> decide))
  exact Far.same rfl rfl

theorem far_tryStart (s : State) : Far s s.tryStart := by
  unfold State.tryStart
  split
  · split
    · exact far_startTransfer s _ _
    · exact Far.same rfl rfl
  · exact Far.same rfl rfl

/-- The return to RUN leaves the live record alone. -/
theorem unpark_live (c : Channel) (slots now) : (c.unpark slots now).live = c.live := by
  have f : ∀ (k : Channel) (b : Bool), (k.evaluate slots now b).live = k.live := fun k b => by
    have e := congrArg Channel.live (Channel.evaluate_fixed k slots now b); exact e
  unfold Channel.unpark
  split <;> [rw [f]; rw [f]; (split <;> [rw [f]; rfl]); rfl; rfl; rfl]

end Sys2Proof.Machine
end

