-- ==== Sys2Proof/Laws/PerInstr.lean ====
section
/-! SUPPORT. What is said of every command as syntax, one lemma for each: its operands name what the part has (R11, R12, R41, R67,
R193) exactly when it is well formed, and no word spells it (log 29). -/

namespace Sys2Proof.Laws.Shape

/-- The operands of a command name a frame slot, a channel, a rule or a lamp that the part has, or a frame the segment carries. -/
def OperandsExist (i : Instr) : Prop :=
  match i with
  | .validFrameReceived _ f =>
    f.identifier < (if f.extended = true then 2 ^ 29 else 2 ^ 11) ∧ f.dlc < 16 ∧
      f.data.length = (if f.remote = true then 0 else min f.dlc 8)
  | .slotExpiry n => 16 ≤ n ∧ n < 96
  | .stepEvent c => c < 8
  | .homingStep c => c < 8
  | .restDelayExpiry c => c < 8
  | .coilFaultReport c _ => c < 8
  | .confirmTimerExpiry r => r < 64
  | .lampTurnOnCheck l _ => l < 32
  | _ => True

/-- What is said of a command. -/
def Statement (i : Instr) : Prop :=
  (i.wf = true ↔ OperandsExist i) ∧ ∀ nbits w : Nat, decodeTableWord nbits w ≠ some i

/-- No word spells a command. -/
theorem noWord (i : Instr) (nbits w : Nat) : decodeTableWord nbits w ≠ some i := by
  intro h
  cases h

theorem powerOn : Statement .powerOn := ⟨iff_of_true rfl trivial, noWord _⟩
theorem supplyLoss : Statement .supplyLoss := ⟨iff_of_true rfl trivial, noWord _⟩
theorem ignChange (high : Bool) : Statement (.ignChange high) := ⟨iff_of_true rfl trivial, noWord _⟩
theorem ignTimerExpiry : Statement .ignTimerExpiry := ⟨iff_of_true rfl trivial, noWord _⟩
theorem parkingTimerExpiry : Statement .parkingTimerExpiry := ⟨iff_of_true rfl trivial, noWord _⟩
theorem secondTimerExpiry : Statement .secondTimerExpiry := ⟨iff_of_true rfl trivial, noWord _⟩
theorem validFrameReceived (port : Port) (frame : BusFrame) : Statement (.validFrameReceived port frame) := by
  refine ⟨?_, noWord _⟩
  simp only [Instr.wf, BusFrame.wf, OperandsExist, Bool.and_eq_true, decide_eq_true_eq, and_assoc]
theorem rxErrorDetected (port : Port) : Statement (.rxErrorDetected port) := ⟨iff_of_true rfl trivial, noWord _⟩
theorem txErrorDetected (port : Port) : Statement (.txErrorDetected port) := ⟨iff_of_true rfl trivial, noWord _⟩
theorem busOffRecoveryExpiry (port : Port) : Statement (.busOffRecoveryExpiry port) :=
  ⟨iff_of_true rfl trivial, noWord _⟩
theorem silenceTimerExpiry (port : Port) : Statement (.silenceTimerExpiry port) := ⟨iff_of_true rfl trivial, noWord _⟩
theorem txFrameComplete : Statement .txFrameComplete := ⟨iff_of_true rfl trivial, noWord _⟩
theorem routedFrame : Statement .routedFrame := ⟨iff_of_true rfl trivial, noWord _⟩
theorem unroutedFrame : Statement .unroutedFrame := ⟨iff_of_true rfl trivial, noWord _⟩
theorem foreignMgmt : Statement .foreignMgmt := ⟨iff_of_true rfl trivial, noWord _⟩
theorem badRequest : Statement .badRequest := ⟨iff_of_true rfl trivial, noWord _⟩
theorem readEvents : Statement .readEvents := ⟨iff_of_true rfl trivial, noWord _⟩
theorem setNoticeMask : Statement .setNoticeMask := ⟨iff_of_true rfl trivial, noWord _⟩
theorem readCounters : Statement .readCounters := ⟨iff_of_true rfl trivial, noWord _⟩
theorem setParam : Statement .setParam := ⟨iff_of_true rfl trivial, noWord _⟩
theorem getParam : Statement .getParam := ⟨iff_of_true rfl trivial, noWord _⟩
theorem restart : Statement .restart := ⟨iff_of_true rfl trivial, noWord _⟩
theorem restartExecute : Statement .restartExecute := ⟨iff_of_true rfl trivial, noWord _⟩
theorem configSave : Statement .configSave := ⟨iff_of_true rfl trivial, noWord _⟩
theorem configSaveEnd (equal : Bool) : Statement (.configSaveEnd equal) := ⟨iff_of_true rfl trivial, noWord _⟩
theorem configErase : Statement .configErase := ⟨iff_of_true rfl trivial, noWord _⟩
theorem routeOpen : Statement .routeOpen := ⟨iff_of_true rfl trivial, noWord _⟩
theorem extA : Statement .extA := ⟨iff_of_true rfl trivial, noWord _⟩
theorem extB : Statement .extB := ⟨iff_of_true rfl trivial, noWord _⟩
theorem extC : Statement .extC := ⟨iff_of_true rfl trivial, noWord _⟩
theorem routeDelete : Statement .routeDelete := ⟨iff_of_true rfl trivial, noWord _⟩
theorem routeRead : Statement .routeRead := ⟨iff_of_true rfl trivial, noWord _⟩
theorem slotExpiry (slot : Nat) : Statement (.slotExpiry slot) := by
  refine ⟨?_, noWord _⟩
  simp only [Instr.wf, OperandsExist, Bool.and_eq_true, decide_eq_true_eq]
theorem readSlot : Statement .readSlot := ⟨iff_of_true rfl trivial, noWord _⟩
theorem gaugeField : Statement .gaugeField := ⟨iff_of_true rfl trivial, noWord _⟩
theorem gaugeCommit : Statement .gaugeCommit := ⟨iff_of_true rfl trivial, noWord _⟩
theorem gaugeRead : Statement .gaugeRead := ⟨iff_of_true rfl trivial, noWord _⟩
theorem stepEvent (channel : Nat) : Statement (.stepEvent channel) := ⟨decide_eq_true_iff, noWord _⟩
theorem homingStep (channel : Nat) : Statement (.homingStep channel) := ⟨decide_eq_true_iff, noWord _⟩
theorem restDelayExpiry (channel : Nat) : Statement (.restDelayExpiry channel) := ⟨decide_eq_true_iff, noWord _⟩
theorem coilFaultReport (channel : Nat) (cause : CoilFault) : Statement (.coilFaultReport channel cause) :=
  ⟨decide_eq_true_iff, noWord _⟩
theorem ruleA : Statement .ruleA := ⟨iff_of_true rfl trivial, noWord _⟩
theorem ruleB : Statement .ruleB := ⟨iff_of_true rfl trivial, noWord _⟩
theorem ruleC : Statement .ruleC := ⟨iff_of_true rfl trivial, noWord _⟩
theorem ruleD : Statement .ruleD := ⟨iff_of_true rfl trivial, noWord _⟩
theorem ruleEnable : Statement .ruleEnable := ⟨iff_of_true rfl trivial, noWord _⟩
theorem ruleClear : Statement .ruleClear := ⟨iff_of_true rfl trivial, noWord _⟩
theorem ruleRead : Statement .ruleRead := ⟨iff_of_true rfl trivial, noWord _⟩
theorem lampRead : Statement .lampRead := ⟨iff_of_true rfl trivial, noWord _⟩
theorem confirmTimerExpiry (rule : Nat) : Statement (.confirmTimerExpiry rule) := ⟨decide_eq_true_iff, noWord _⟩
theorem phaseEvent : Statement .phaseEvent := ⟨iff_of_true rfl trivial, noWord _⟩
theorem proveOutEnd : Statement .proveOutEnd := ⟨iff_of_true rfl trivial, noWord _⟩
theorem lampTurnOnCheck (lamp : Nat) (current : Bool) : Statement (.lampTurnOnCheck lamp current) :=
  ⟨decide_eq_true_iff, noWord _⟩
theorem ackPress : Statement .ackPress := ⟨iff_of_true rfl trivial, noWord _⟩
theorem alertAck : Statement .alertAck := ⟨iff_of_true rfl trivial, noWord _⟩
theorem alertRead : Statement .alertRead := ⟨iff_of_true rfl trivial, noWord _⟩
theorem chimeIntervalEnd : Statement .chimeIntervalEnd := ⟨iff_of_true rfl trivial, noWord _⟩
theorem toneCounterExpiry : Statement .toneCounterExpiry := ⟨iff_of_true rfl trivial, noWord _⟩
theorem pinRawChange (pin : Pin) (high : Bool) : Statement (.pinRawChange pin high) :=
  ⟨iff_of_true rfl trivial, noWord _⟩
theorem filterStabilityExpiry (pin : Pin) : Statement (.filterStabilityExpiry pin) :=
  ⟨iff_of_true rfl trivial, noWord _⟩
theorem zeroTimerExpiry : Statement .zeroTimerExpiry := ⟨iff_of_true rfl trivial, noWord _⟩
theorem setKfactor : Statement .setKfactor := ⟨iff_of_true rfl trivial, noWord _⟩
theorem setOdometer : Statement .setOdometer := ⟨iff_of_true rfl trivial, noWord _⟩
theorem sealOdometer : Statement .sealOdometer := ⟨iff_of_true rfl trivial, noWord _⟩
theorem readCalHistory : Statement .readCalHistory := ⟨iff_of_true rfl trivial, noWord _⟩
theorem distanceRead : Statement .distanceRead := ⟨iff_of_true rfl trivial, noWord _⟩
theorem calWriteComplete : Statement .calWriteComplete := ⟨iff_of_true rfl trivial, noWord _⟩
theorem minuteTimerExpiry : Statement .minuteTimerExpiry := ⟨iff_of_true rfl trivial, noWord _⟩
theorem cardRead : Statement .cardRead := ⟨iff_of_true rfl trivial, noWord _⟩
theorem xferOpen : Statement .xferOpen := ⟨iff_of_true rfl trivial, noWord _⟩
theorem xferData : Statement .xferData := ⟨iff_of_true rfl trivial, noWord _⟩
theorem xferClose : Statement .xferClose := ⟨iff_of_true rfl trivial, noWord _⟩
theorem xferAbort : Statement .xferAbort := ⟨iff_of_true rfl trivial, noWord _⟩
theorem xferStray : Statement .xferStray := ⟨iff_of_true rfl trivial, noWord _⟩
theorem transferTimerExpiry : Statement .transferTimerExpiry := ⟨iff_of_true rfl trivial, noWord _⟩
theorem tachoRead : Statement .tachoRead := ⟨iff_of_true rfl trivial, noWord _⟩
theorem mismatchTimerExpiry : Statement .mismatchTimerExpiry := ⟨iff_of_true rfl trivial, noWord _⟩
theorem silenceWatchExpiry : Statement .silenceWatchExpiry := ⟨iff_of_true rfl trivial, noWord _⟩
theorem readyRise : Statement .readyRise := ⟨iff_of_true rfl trivial, noWord _⟩
theorem readyTimerExpiry : Statement .readyTimerExpiry := ⟨iff_of_true rfl trivial, noWord _⟩
theorem retryTimerExpiry : Statement .retryTimerExpiry := ⟨iff_of_true rfl trivial, noWord _⟩
theorem displayTransferStart : Statement .displayTransferStart := ⟨iff_of_true rfl trivial, noWord _⟩
theorem displayTransferComplete : Statement .displayTransferComplete := ⟨iff_of_true rfl trivial, noWord _⟩
theorem pageShortPress : Statement .pageShortPress := ⟨iff_of_true rfl trivial, noWord _⟩
theorem pageLongPress : Statement .pageLongPress := ⟨iff_of_true rfl trivial, noWord _⟩
theorem displayRead : Statement .displayRead := ⟨iff_of_true rfl trivial, noWord _⟩
theorem readyFall : Statement .readyFall := ⟨iff_of_true rfl trivial, noWord _⟩
theorem ackInputChange (pressed : Bool) : Statement (.ackInputChange pressed) := ⟨iff_of_true rfl trivial, noWord _⟩
theorem pageInputChange (pressed : Bool) : Statement (.pageInputChange pressed) := ⟨iff_of_true rfl trivial, noWord _⟩

end Sys2Proof.Laws.Shape
end

