-- ==== Sys2Proof/Laws/Told.lean ====
section
/-! SUPPORT. What the gauges, the rules, the dimming and the alert block make of one update event, exactly (R31, R48, R75, R77, R84). -/

namespace Sys2Proof.Machine

/-- The consumers take an event of slot `n`. -/
theorem tell_told (b : State) (n : Nat) : SlotTold b n (b.tell n) := by
  have R := ripple_tell (· = 13) b n rfl
  obtain ⟨⟨q, e⟩, sends, rules⟩ := gatherRules_spec (b.gaugeEvent n) n
  have G := ((ripple_gaugeEvent (· = 13) b n).trans (ripple_gatherRules (· = 13) (b.gaugeEvent n) n))
  have D := ripple_dimEvent (· = 13) ((b.gaugeEvent n).gatherRules n).1 n
  have T := G.trans D
  have only : ∃ d p, ((b.gaugeEvent n).gatherRules n).1.dimEvent n =
      { ((b.gaugeEvent n).gatherRules n).1 with telltale.duty := d, display := p } := by
    unfold State.dimEvent
    split
    · exact updateDuty_only _
    · exact ⟨_, _, rfl⟩
  have chan : ∀ c, (((b.gaugeEvent n).gatherRules n).1.dimEvent n).channel c = (b.gaugeEvent n).channel c := fun c => by
    obtain ⟨d, p, h⟩ := only
    rw [h, e]; rfl
  have rule : ∀ i, (((b.gaugeEvent n).gatherRules n).1.dimEvent n).rule i = ((b.gaugeEvent n).gatherRules n).1.rule i := fun i => by
    obtain ⟨d, p, h⟩ := only
    rw [h]; rfl
  have named : ∀ i, (((b.gaugeEvent n).gatherRules n).1.dimEvent n |>.rule i).liveSlot = (b.rule i).liveSlot := fun i => by
    have f := T.rules i
    have hl := congrArg Rule.life f
    have ha := congrArg Rule.a f
    simp only [Rule.fixed] at hl ha
    unfold Rule.liveSlot
    rw [hl, ha]
  have same : ∀ i, ruleSends (b.gaugeEvent n) n i = ruleSends b n i := fun _ => rfl
  refine ⟨((b.gaugeEvent n).gatherRules n).1.dimEvent n, ?_, fun c hc ha hf => ?_, fun c hc hf => ?_, fun i hi => ⟨fun a hp hl ha hn => ?_,
    fun h => ?_⟩, fun hp => ?_, fun hp => ?_, T.told, fun h => ?_, fun i a hi hl ha hn => ?_, R⟩
  · obtain ⟨d, p, h⟩ := only
    rw [h, e]; rfl
  · rw [chan, gaugeEvent_channel, if_pos hc]
    exact (onEvent_follows b (b.channel c) n ha).1 hf
  · rw [chan, gaugeEvent_channel, if_pos hc]
    exact onEvent_apart b (b.channel c) n hf
  · rw [rule]
    exact (rules i).1 hp ((liveSlot_iff _ _).mpr ⟨hl, a, ha, hn⟩)
  · rw [rule]
    refine (rules i).2 fun x => ?_
    obtain ⟨hl, a, ha, hn⟩ := (liveSlot_iff _ _).mp x.2
    rcases h with h | h | h
    · exact h x.1
    · exact h hl
    · exact h a ha hn
  · have d := dutyIs_dimEvent ((b.gaugeEvent n).gatherRules n).1 n ((G.param 4).trans hp)
    refine dutyIs_move d (fun id => (T.param id).symm) fun m _ => ?_
    obtain ⟨x, p, h⟩ := only
    rw [h, e]; rfl
  · have o : ((b.gaugeEvent n).gatherRules n).1.dimEvent n = ((b.gaugeEvent n).gatherRules n).1 := by
      unfold State.dimEvent
      rw [if_neg fun x => hp ((G.param 4).symm.trans ((paramSlot_iff _ 4 n).mp x))]
    rw [o, e]
    exact ⟨rfl, rfl⟩
  · unfold State.tell State.sendGathered
    simp only []
    rw [if_neg]
    intro hw
    obtain ⟨i, hi, hn⟩ := (watched_iff _ _).mp hw
    rw [named i] at hn
    obtain ⟨hl, a, ha, hs⟩ := (liveSlot_iff _ _).mp hn
    exact h i a hi hl ha hs
  · unfold State.tell State.sendGathered
    simp only []
    rw [if_pos ((watched_iff _ _).mpr ⟨i, hi, by rw [named i]; exact (liveSlot_iff _ _).mpr ⟨hl, a, ha, hn⟩⟩), sends]
    rfl

/-! ### A frame slot changed, with all that follows (R26 to R31) -/

/-- The rules' part of an event stands after what the alert block does with it: the alert block writes slot 13 alone. -/
theorem slotTold_rule {b t : State} {n i : Nat} (h : SlotTold b n t) (h13 : n ≠ 13) (hp : RulesRun b)
    (hn : (b.rule i).liveSlot = some n) : t.rule i = ruleAfter b.clock (b.rule i) (b.slot n) := by
  obtain ⟨hl, a, ha, hs⟩ := (liveSlot_iff _ _).mp hn
  have hi := liveSlot_place hn
  obtain ⟨u, _, _, _, rules, _, _, _, _, sends, _⟩ := h
  have e := (rules i hi).1 a hp hl ha hs
  have R := (ripple_send (· = 13) u ((List.range 64).flatMap (ruleSends b n)) rfl).trans (ripple_settleLamps _ _)
  rw [sends i a hi hl ha hs, R.spared i fun x hx => ?_]
  · exact e
  · rw [e] at hx
    have ea : (ruleAfter b.clock (b.rule i) (b.slot n)).a = (b.rule i).a := by
      have e := congrArg Rule.a (ruleAfter_fixed b.clock (b.rule i) (b.slot n))
      exact e
    rw [ea, ha] at hx
    cases hx
    rw [hs]; exact h13

/-- A LIVE rule that names a frame slot has evaluated its new record once it has changed (R75, R78). -/
theorem changeSlot_rule (s : State) (n : Nat) (c : Cause) (r : SlotRecord) (i : Nat) (h : 16 ≤ n ∧ n < 96) (hp : RulesRun s)
    (hn : (s.rule i).liveSlot = some n) : (s.changeSlot n c r).rule i = ruleAfter s.clock (s.rule i) r := by
  have e := slotTold_rule (tell_told (s.putSlot n r) n) (i := i) (by omega) hp hn
  rw [State.slot_putSlot_same s n r h.2] at e
  obtain ⟨_, a, ha, hs⟩ := (liveSlot_iff _ _).mp hn
  have R := (ripple_tachoEvent onlyTacho (fun _ h => h) (State.tell (s.putSlot n r) n) (eventOf n c (s.slot n) r)).trans
    (ripple_displayEvent onlyTacho _ n)
  have sp := R.spared i fun x hx => by
    have f : (((s.putSlot n r).tell n).rule i).a = (s.rule i).a := by
      have e := congrArg Rule.a ((ripple_tell (· = 13) (s.putSlot n r) n rfl).rules i)
      exact e
    rw [f, ha] at hx
    cases hx
    unfold onlyTacho; omega
  exact sp.trans e

/-- A frame slot that no tachograph field names, changed: its consumers take the event, and that is all (R31). -/
theorem changeSlot_told (s : State) (n : Nat) (c : Cause) (r : SlotRecord) (h : 16 ≤ n)
    (hp : ∀ id ∈ [10, 13, 14, 15, 16], s.param id ≠ n) :
    ∃ u, SlotTold (s.putSlot n r) n u ∧ LinkTold u (s.changeSlot n c r) ∧
      s.changeSlot n c r = { u with display := (s.changeSlot n c r).display } := by
  have R := ripple_tell (· = 13) (s.putSlot n r) n rfl
  have k : ∀ id ∈ [10, 13, 14, 15, 16], ((s.putSlot n r).tell n).paramSlot id ≠ some n := fun id hid e => by
    have := (paramSlot_iff _ _ _).mp e
    rw [R.param id] at this
    exact hp id hid this
  have T : ((s.putSlot n r).tell n).tachoEvent (eventOf n c (s.slot n) r) = (s.putSlot n r).tell n := by
    generalize (s.putSlot n r).tell n = x at *
    have es : (eventOf n c (s.slot n) r).slot = n := rfl
    generalize eventOf n c (s.slot n) r = v at *
    have s1 : x.speedEvent v.slot = x := by
      unfold State.speedEvent
      rw [es, if_neg (k 10 (by simp)), if_neg (by omega)]
    have c1 : ∀ d, x.cardEvent d v = x := fun d => by
      unfold State.cardEvent
      rw [es, if_neg (by cases d <;> exact k _ (by simp [cardParam]))]
    have c2 : ∀ d, x.contEvent d v = x := fun d => by
      unfold State.contEvent
      rw [es, if_neg]
      rintro ⟨h, _⟩
      cases d <;> exact k _ (by simp [contParam]) h
    unfold State.tachoEvent
    rw [s1, c1, c1, c2, c2]
  have e : s.changeSlot n c r = ((s.putSlot n r).tell n).displayEvent n := by
    unfold State.changeSlot State.announce
    rw [show (eventOf n c (s.slot n) r).slot = n from rfl, T]
  refine ⟨(s.putSlot n r).tell n, tell_told _ _, ?_, ?_⟩
  · rw [e]; exact told_markDirty _ _
  · rw [e]
    obtain ⟨d, h⟩ := markDirty_only ((s.putSlot n r).tell n) (slotKinds n)
    have h : ((s.putSlot n r).tell n).displayEvent n = _ := h
    rw [h]

/-- A slot that changes marks its record (R153). -/
theorem changeSlot_marks (s : State) (n : Nat) (c : Cause) (r : SlotRecord) (h : s.display.link ≠ .off) (k : RecordKind)
    (hk : Marked n k) : (s.changeSlot n c r).display.dirty.has k = true := by
  have e : s.changeSlot n c r = (((s.putSlot n r).tell n).tachoEvent (eventOf n c (s.slot n) r)).displayEvent n := rfl
  have R1 := (ripple_tell (fun _ => True) (s.putSlot n r) n trivial).told.on
  have R2 := (ripple_tachoEvent (fun _ => True) (fun _ _ => trivial) ((s.putSlot n r).tell n) (eventOf n c (s.slot n) r)).told.on
  rw [e]
  exact displayEvent_marks _ n (fun x => h (R1.mp (R2.mp x))) k hk

/-- A write of slot 0 marks DISTANCE_PAGE (R153). -/
theorem writeSpeed_marks (s : State) (w : SlotWrite) (h : s.display.link ≠ .off) :
    (s.writeSpeed w).display.dirty.has .distancePage = true := by
  unfold State.writeSpeed
  exact changeSlot_marks s 0 .write _ h _ (.inl ⟨rfl, .inl rfl⟩)

/-- A slot written by its own block marks its record (R153). -/
theorem writePlain_marks (s : State) (n : Nat) (w : SlotWrite) (h : s.display.link ≠ .off) (k : RecordKind) (hk : Marked n k) :
    (s.writePlain n w).display.dirty.has k = true := by
  have R := ripple_tell (fun _ => True) (s.writeRecord n w) n trivial
  exact displayEvent_marks _ n (fun e => h (R.told.on.mp e)) k hk

/-- Frame slots changed one after another: each LIVE rule that names one of them has evaluated its record. -/
theorem rulesFollow_fold {α : Type} (f : State → α → State) (key : α → Nat)
    (hr : ∀ s a, Ripple (fun m => m = key a ∨ onlyTacho m) s (f s a))
    (he : ∀ s a i, 16 ≤ key a ∧ key a < 96 → RulesRun s → (s.rule i).liveSlot = some (key a) →
      (f s a).rule i = ruleAfter s.clock (s.rule i) ((f s a).slot (key a))) :
    ∀ (l : List α) (s : State), (l.map key).Nodup → (∀ n ∈ l.map key, 16 ≤ n ∧ n < 96) → RulesFollow (l.map key) s (l.foldl f s)
  | [], s, _, _ => fun i a _ _ _ h => by simp at h
  | x :: l, s, hd, hk => fun i a hp hl ha hm => by
    have all : ∀ (l : List α) (s : State), Ripple (fun m => m ∈ l.map key ∨ onlyTacho m) s (l.foldl f s) := by
      intro l
      induction l with
      | nil => exact fun s => Ripple.refl _ s
      | cons y l ih =>
        intro s
        refine ((hr s y).mono fun n hn => ?_).trans ((ih (f s y)).mono fun n hn => ?_)
        · rcases hn with rfl | hn
          · exact .inl (by simp)
          · exact .inr hn
        · rcases hn with hn | hn
          · exact .inl (by simp only [List.map_cons, List.mem_cons]; exact .inr hn)
          · exact .inr hn
    rw [List.map_cons, List.nodup_cons] at hd
    rw [List.map_cons, List.mem_cons] at hm
    have H := hr s x
    have kx := hk (key x) (by simp)
    rw [List.foldl_cons]
    by_cases e : a.slot = key x
    · have own := he s x i kx hp ((liveSlot_iff _ _).mpr ⟨hl, a, ha, e⟩)
      have no : ¬ (key x ∈ l.map key ∨ onlyTacho (key x)) := by
        rintro (h | h)
        · exact hd.1 h
        · unfold onlyTacho at h; omega
      have K := all l (f s x)
      rw [K.spared i fun b hb => by rw [H.partA i, ha] at hb; cases hb; rw [e]; exact no, own, e, K.slots _ no]
    · have m := hm.resolve_left e
      have ka := hk a.slot (by rw [List.map_cons, List.mem_cons]; exact .inr m)
      have sp := H.spared i fun b hb => by
        rw [ha] at hb; cases hb
        rintro (h | h)
        · exact e h
        · unfold onlyTacho at h; omega
      have ih := rulesFollow_fold f key hr he l (f s x) hd.2 (fun n hn => hk n (by rw [List.map_cons, List.mem_cons]; exact .inr hn)) i a
        (by unfold RulesRun; rw [H.ign]; exact hp) (by rw [sp]; exact hl) (by rw [sp]; exact ha) m
      rw [ih, sp, H.clock]

end Sys2Proof.Machine
end

