-- ==== Sys2Proof/Laws/Routing.lean ====
section
/-! SUPPORT. What a frame, an extraction and a deletion do to the ports, the slots and the build (R1 to R4, R14, R18 to R22). -/

namespace Sys2Proof.Machine

/-! ### Ports -/

/-- A port replaced leaves the other. -/
theorem port_other {p q : Port} (s : State) (b : PortBlock) (h : p ≠ q) : (s.setPort p b).port q = s.port q := by
  cases p <;> cases q <;> first | rfl | exact absurd rfl h

/-- A port replaced leaves the intake block. -/
theorem setPort_queue (s : State) (p b) : (s.setPort p b).intake = s.intake := by cases p <;> rfl

/-- The OK slot of a port exists and is not slot 13. -/
theorem okSlot_lt (p : Port) : okSlot p < 96 ∧ okSlot p ≠ 13 := by cases p <;> decide

/-- A port that is on and not in BUS_OFF takes frames. -/
theorem working_on (b : PortBlock) (h1 : b.on = true) (h2 : b.state ≠ .busOff) : b.working = true := by simp [PortBlock.working, h1, h2]

/-- A port that is off or in BUS_OFF takes none. -/
theorem working_off (b : PortBlock) (h : b.on = false ∨ b.state = .busOff) : b.working = false := by
  rcases h with h | h <;> simp [PortBlock.working, h]

/-- The state that the error counts give a port (R2). -/
theorem judge_eq (b : PortBlock) : b.judge = { b with state := if b.txErrors < 128 ∧ b.rxErrors < 128 then .active else .passive } := by
  unfold PortBlock.judge; simp

/-- The port once a valid frame has been heard, before its slot (R2, R4). -/
def heard (s : State) (p : Port) : PortBlock :=
  { (s.port p).received1 p with silence := s.after (ms (s.paramNat 2)), awaiting := false, lost := false }

/-- Everything that hearing a frame can do. -/
theorem hear_ripple (s : State) (p : Port) :
    Ripple (fun n => (s.port p).awaiting = true ∧ (n = okSlot p ∨ n = 13)) (s.setPort p (heard s p)) (s.hearFrame p) := by
  unfold State.hearFrame
  simp only []
  split
  · next ha =>
    have R := ripple_writePlain (fun n => (s.port p).awaiting = true ∧ (n = okSlot p ∨ n = 13)) (s.setPort p (heard s p)) (okSlot p) (.fresh 1) ⟨ha, .inl rfl⟩ ⟨ha, .inr rfl⟩
    split
    · exact R.trans (ripple_release _ _ _ _ ⟨ha, .inr rfl⟩)
    · exact R
  · exact Ripple.refl _ _

/-- A frame heard after a turn-on or an expiry writes the OK slot (R4). -/
theorem hear_shows (s : State) (p : Port) (ha : (s.port p).awaiting = true) : Shows (s.hearFrame p) (okSlot p) 1 := by
  unfold State.hearFrame
  simp only [ha, if_true]
  have S := writePlain_shows (s.setPort p (heard s p)) (okSlot p) 1 (okSlot_lt p).1 (okSlot_lt p).2
  split
  · have R := ripple_release (· = 13) ((s.setPort p (heard s p)).writePlain (okSlot p) (.fresh 1)) 0xF002 .port rfl
    unfold Shows at *
    have e := R.slots _ (okSlot_lt p).2
    exact ⟨(congrArg SlotRecord.state e).trans S.1, (congrArg SlotRecord.value e).trans S.2⟩
  · exact S

/-- A change of the counts of a port commutes with a ripple. -/
theorem ripple_portCounts {ch s t} (h : Ripple ch s t) (p : Port) (f : PortBlock → PortBlock)
   (hf : ∀ b, ({ f { b with txDrop := 0 } with txDrop := 0 } : PortBlock) = { f b with txDrop := 0 }) :
   Ripple ch (s.setPort p (f (s.port p))) (t.setPort p (f (t.port p))) := by
  cases p
  · have e := h.portT
    have o : (t.setPort .tractor (f (t.port .tractor))).outside = (s.setPort .tractor (f (s.port .tractor))).outside := by
      have e2 := congrArg (fun u : State => ({ u with portT := { f s.portT with txDrop := 0 } } : State)) h.outside
      have e3 : ({ f t.portT with txDrop := 0 } : PortBlock) = { f s.portT with txDrop := 0 } := by
        rw [← hf t.portT, ← hf s.portT, e]
      show ({ t.outside with portT := { f t.portT with txDrop := 0 } } : State) = { s.outside with portT := { f s.portT with txDrop := 0 } }
      rw [e3]; exact e2
    exact { h with outside := o, told := { h.told with } }
  · have o : (t.setPort .trailer (f (t.port .trailer))).outside = (s.setPort .trailer (f (s.port .trailer))).outside := by
      have e2 := congrArg (fun u : State => ({ u with portL := f s.portL } : State)) h.outside
      show ({ t.outside with portL := f t.portL } : State) = { s.outside with portL := f s.portL }
      rw [h.portL]; exact e2
    exact { h with outside := o, told := { h.told with } }

/-- The intake queue replaced on both sides of a ripple. -/
theorem ripple_queue {ch s t} (h : Ripple ch s t) (q : List FrameRecord) : Ripple ch { s with intake.queue := q } { t with intake.queue := q } := by
  have o : ({ t with intake.queue := q } : State).outside = ({ s with intake.queue := q } : State).outside := by
    have e2 := congrArg (fun u : State => ({ u with intake.queue := q } : State)) h.outside
    exact e2
  exact { h with outside := o, told := { h.told with } }

/-- The build slot replaced on both sides of a ripple. -/
theorem ripple_build {ch s t} (h : Ripple ch s t) (b : Option Build) : Ripple ch { s with intake.build := b } { t with intake.build := b } := by
  have o : ({ t with intake.build := b } : State).outside = ({ s with intake.build := b } : State).outside := by
    have e2 := congrArg (fun u : State => ({ u with intake.build := b } : State)) h.outside
    exact e2
  exact { h with outside := o, told := { h.told with } }

/-! ### Extraction and reset of slots -/

/-- What one extractor can do. -/
theorem extract_step (s : State) (route : Route) (d : List Byte) (x : Extractor) :
    Ripple (fun n => n = x.a.slot ∨ onlyTacho n) s (extractInto route d s x) := by
  unfold extractInto State.writeFrame
  exact ripple_changeSlot _ (fun n h => .inr h) s _ _ _ (.inl rfl)

/-- One extractor writes its own slot. -/
theorem extract_own (s : State) (route : Route) (d : List Byte) (x : Extractor) (hs : 16 ≤ x.a.slot ∧ x.a.slot < 96) :
    (extractInto route d s x).slot x.a.slot = (s.slot x.a.slot).written (extract x d) (some (route.timeout, route.key)) s.clock := by
  have R := ripple_announce onlyTacho (fun _ h => h) (s.putSlot x.a.slot ((s.slot x.a.slot).written (extract x d) (some (route.timeout, route.key)) s.clock)) (eventOf x.a.slot .write (s.slot x.a.slot) ((s.slot x.a.slot).written (extract x d) (some (route.timeout, route.key)) s.clock))
  have hn : ¬ onlyTacho x.a.slot := by unfold onlyTacho; omega
  exact (R.slots _ hn).trans (State.slot_putSlot_same s _ _ hs.2)

/-- A LIVE rule that names the slot of an extractor has evaluated what it wrote (R75, R78). -/
theorem extract_rule (s : State) (route : Route) (d : List Byte) (x : Extractor) (i : Nat) (hk : 16 ≤ x.a.slot ∧ x.a.slot < 96)
    (hp : RulesRun s) (hn : (s.rule i).liveSlot = some x.a.slot) :
    (extractInto route d s x).rule i = ruleAfter s.clock (s.rule i) ((extractInto route d s x).slot x.a.slot) := by
  rw [extract_own s route d x hk]
  unfold extractInto State.writeFrame
  exact changeSlot_rule s x.a.slot .write _ i hk hp hn

/-- One extractor, seen among more. -/
theorem extract_mono1 (route : Route) (d : List Byte) (y : Extractor) (ys : List Extractor) (s : State) :
    Ripple (fun n => n ∈ (y :: ys).map (fun e => e.a.slot) ∨ onlyTacho n) s (extractInto route d s y) := by
  refine Ripple.mono (extract_step s route d y) ?_
  intro n h; rcases h with h | h
  · left; rw [h]; exact List.mem_cons_self
  · exact .inr h

/-- The later extractors, seen among more. -/
theorem extract_mono2 {s t : State} (y : Extractor) (ys : List Extractor) (R : Ripple (fun n => n ∈ ys.map (fun e => e.a.slot) ∨ onlyTacho n) s t) :
    Ripple (fun n => n ∈ (y :: ys).map (fun e => e.a.slot) ∨ onlyTacho n) s t := by
  refine Ripple.mono R ?_
  intro n h; rcases h with h | h
  · left; rw [List.map_cons]; exact List.mem_cons_of_mem _ h
  · exact .inr h

/-- The extractors of an entry, with the slot each has written (R15). -/
theorem extract_all (route : Route) (d : List Byte) (xs : List Extractor) : ∀ s : State, (xs.map (fun e => e.a.slot)).Nodup → (∀ x ∈ xs, 16 ≤ x.a.slot ∧ x.a.slot < 96) →
    Ripple (fun n => n ∈ xs.map (fun e => e.a.slot) ∨ onlyTacho n) s (xs.foldl (extractInto route d) s) ∧
    ∀ x ∈ xs, (xs.foldl (extractInto route d) s).slot x.a.slot = (s.slot x.a.slot).written (extract x d) (some (route.timeout, route.key)) s.clock := by
  induction xs with
  | nil => intro s _ _; exact ⟨Ripple.refl _ s, fun x hx => by simp at hx⟩
  | cons y ys ih =>
    intro s hnd hr
    rw [List.map_cons, List.nodup_cons] at hnd
    obtain ⟨R, F⟩ := ih (extractInto route d s y) hnd.2 (fun x hx => hr x (List.mem_cons_of_mem _ hx))
    have S := extract_step s route d y
    have A := extract_mono1 route d y ys s
    have B := extract_mono2 y ys R
    rw [List.foldl_cons]
    refine ⟨A.trans B, ?_⟩
    · intro x hx
      rcases List.mem_cons.mp hx with hxy | hx
      · subst hxy
        have hs := hr x List.mem_cons_self
        have hno : ¬ (x.a.slot ∈ ys.map (fun e => e.a.slot) ∨ onlyTacho x.a.slot) := by
          rintro (h | h)
          · exact hnd.1 h
          · unfold onlyTacho at h; omega
        have a := R.slots x.a.slot hno
        have b := extract_own s route d x hs
        exact a.trans b
      · have hs := hr x (List.mem_cons_of_mem _ hx)
        have hne : ¬ (x.a.slot = y.a.slot ∨ onlyTacho x.a.slot) := by
          rintro (h | h)
          · apply hnd.1; rw [← h]; exact List.mem_map.mpr ⟨x, hx, rfl⟩
          · unfold onlyTacho at h; omega
        have a := F x hx
        rw [S.slots x.a.slot hne, S.clock] at a
        exact a

/-- What the extractors of an entry can do, whatever slots they name. -/
theorem extract_ripple (route : Route) (d : List Byte) (xs : List Extractor) : ∀ s : State, 
    Ripple (fun n => n ∈ xs.map (fun e => e.a.slot) ∨ onlyTacho n) s (xs.foldl (extractInto route d) s) := by
  induction xs with
  | nil => intro s; exact Ripple.refl _ s
  | cons y ys ih =>
    intro s
    have A := extract_mono1 route d y ys s
    have B := extract_mono2 y ys (ih (extractInto route d s y))
    rw [List.foldl_cons]
    exact A.trans B

/-- What the reset of a slot can do. -/
theorem reset_step (s : State) (n : Nat) : Ripple (fun m => m = n ∨ onlyTacho m) s (s.resetSlot n) := by
  unfold State.resetSlot
  exact ripple_changeSlot _ (fun n h => .inr h) s _ _ _ (.inl rfl)

/-- A slot reset (R28). -/
theorem reset_own (s : State) (n : Nat) (h : 16 ≤ n ∧ n < 96) : (s.resetSlot n).slot n = SlotRecord.frameNever := by
  unfold State.resetSlot State.changeSlot
  have R := ripple_announce onlyTacho (fun _ h => h) (s.putSlot n SlotRecord.frameNever) (eventOf n .reset (s.slot n) SlotRecord.frameNever)
  have hn : ¬ onlyTacho n := by unfold onlyTacho; omega
  exact (R.slots _ hn).trans (State.slot_putSlot_same s _ _ h.2)

/-- A LIVE rule that names a slot reset has evaluated its record (R75, R78). -/
theorem reset_rule (s : State) (n i : Nat) (h : 16 ≤ n ∧ n < 96) (hp : RulesRun s) (hn : (s.rule i).liveSlot = some n) :
    (s.resetSlot n).rule i = ruleAfter s.clock (s.rule i) ((s.resetSlot n).slot n) := by
  rw [reset_own s n h]
  unfold State.resetSlot
  exact changeSlot_rule s n .reset _ i h hp hn

/-- The slots of a deleted entry (R22). -/
theorem reset_all (l : List Nat) : ∀ s : State,
    Ripple (fun m => m ∈ l ∨ onlyTacho m) s (l.foldl State.resetSlot s) ∧ 
    ((∀ n ∈ l, 16 ≤ n ∧ n < 96) → ∀ n, (n ∈ l ∨ (s.slot n = SlotRecord.frameNever ∧ ¬ onlyTacho n)) → (l.foldl State.resetSlot s).slot n = SlotRecord.frameNever) := by
  induction l with
  | nil => intro s; exact ⟨Ripple.refl _ s, fun _ n h => by rcases h with h | h; cases h; exact h.1⟩
  | cons m l ih =>
    intro s
    obtain ⟨R, F⟩ := ih (s.resetSlot m)
    have S := reset_step s m
    have A : Ripple (fun k => k ∈ m :: l ∨ onlyTacho k) s (s.resetSlot m) := by
      refine Ripple.mono S ?_
      intro k h; rcases h with h | h
      · left; rw [h]; exact List.mem_cons_self
      · exact .inr h
    have B : Ripple (fun k => k ∈ m :: l ∨ onlyTacho k) (s.resetSlot m) (l.foldl State.resetSlot (s.resetSlot m)) := by
      refine Ripple.mono R ?_
      intro k h; rcases h with h | h
      · left; exact List.mem_cons_of_mem _ h
      · exact .inr h
    rw [List.foldl_cons]
    refine ⟨A.trans B, ?_⟩
    intro hr n hn
    have hm := hr m List.mem_cons_self
    apply F (fun k hk => hr k (List.mem_cons_of_mem _ hk))
    rcases hn with hn | hn
    · rcases List.mem_cons.mp hn with rfl | hn
      · right; exact ⟨reset_own s n hm, by unfold onlyTacho; omega⟩
      · exact .inl hn
    · right
      refine ⟨?_, hn.2⟩
      by_cases e : n = m
      · subst e; exact reset_own s n hm
      · rw [S.slots n (by rintro (h | h); exact e h; exact hn.2 h)]; exact hn.1

end Sys2Proof.Machine
end

