-- ==== Sys2Proof/Tests/Slice0.lean ====
section
/-! SUPPORT. Tests of the model: an ill-formed term for each check, the spec's worked figures, and for every obligation with
hypotheses a concrete state and operands that meet them together. -/

set_option maxRecDepth 100000

open Sys2Proof Sys2Proof.Machine

namespace Sys2Proof.Tests

/-! ### Well-formed commands -/

/-- A data frame of that identifier format, identifier and data. -/
def frame (extended : Bool) (identifier : Nat) (data : List Byte) : BusFrame :=
  { extended := extended, remote := false, identifier := identifier, dlc := data.length, data := data }

theorem test_wf_good :
    (Instr.validFrameReceived .trailer (frame true (2 ^ 29 - 1) [1, 2])).wf = true ∧ (Instr.slotExpiry 95).wf = true ∧
      (Instr.stepEvent 7).wf = true ∧ (Instr.confirmTimerExpiry 63).wf = true ∧
      (Instr.lampTurnOnCheck 31 true).wf = true := by decide

theorem test_wf_identifier_too_wide :
    (Instr.validFrameReceived .tractor (frame true (2 ^ 29) [])).wf = false ∧
      (Instr.validFrameReceived .tractor (frame false (2 ^ 11) [])).wf = false := by decide

theorem test_wf_data_length :
    (BusFrame.wf { extended := true, remote := false, identifier := 0, dlc := 16, data := [0, 0, 0, 0, 0, 0, 0, 0] }) = false ∧
      (BusFrame.wf { extended := true, remote := false, identifier := 0, dlc := 2, data := [0] }) = false ∧
      (BusFrame.wf { extended := true, remote := true, identifier := 0, dlc := 1, data := [0] }) = false := by decide

theorem test_wf_slot : (Instr.slotExpiry 15).wf = false ∧ (Instr.slotExpiry 96).wf = false := by decide

theorem test_wf_channel :
    (Instr.stepEvent 8).wf = false ∧ (Instr.homingStep 8).wf = false ∧ (Instr.restDelayExpiry 8).wf = false ∧
      (Instr.coilFaultReport 8 .openA).wf = false := by decide

theorem test_wf_rule_and_lamp :
    (Instr.confirmTimerExpiry 64).wf = false ∧ (Instr.lampTurnOnCheck 32 false).wf = false := by decide

/-- The table gives bits to no row, so a word spells no command. -/
theorem test_no_word (nbits w : Nat) (s : State) :
    decodeTableWord nbits w = none ∧ s.withFetchWord nbits w = s := ⟨rfl, rfl⟩

/-! ### The spec's worked figures -/

/-- The three extractors of section 1.3's example. -/
def speedWord : Extractor :=
  { a := { start := 0, width := 16, order := .lowFirst, signed := false, coded := true, slot := 20 },
    b := { multiplier := 5, divisor := 1 }, offset := 0 }
def twoBits : Extractor :=
  { a := { start := 16, width := 2, order := .lowFirst, signed := false, coded := true, slot := 21 },
    b := { multiplier := 1, divisor := 1 }, offset := 0 }
def signedWord : Extractor :=
  { a := { start := 24, width := 16, order := .highFirst, signed := true, coded := false, slot := 22 },
    b := { multiplier := 1, divisor := 3 }, offset := 0 }

theorem test_extraction_first_frame :
    extract speedWord [0x2C, 0x01, 0x01, 0xFF, 0x38, 0, 0, 0] = .fresh 1500 ∧
      extract twoBits [0x2C, 0x01, 0x01, 0xFF, 0x38, 0, 0, 0] = .fresh 1 ∧
      extract signedWord [0x2C, 0x01, 0x01, 0xFF, 0x38, 0, 0, 0] = .fresh (-66) := by decide

theorem test_extraction_second_frame :
    extract speedWord [0xFE, 0xFF, 0x03, 0x00, 0x64, 0, 0, 0] = .error ∧
      extract twoBits [0xFE, 0xFF, 0x03, 0x00, 0x64, 0, 0, 0] = .notAvailable ∧
      extract signedWord [0xFE, 0xFF, 0x03, 0x00, 0x64, 0, 0, 0] = .fresh 33 := by decide

/-- The check value of CRC-16 with polynomial 0x1021 and start 0xFFFF over the characters 1 to 9 (R140). -/
theorem test_crc16 : crc16 [0x31, 0x32, 0x33, 0x34, 0x35, 0x36, 0x37, 0x38, 0x39] = 0x29B1 := by decide

/-- The speed of the ring (R110), capped at 25000. -/
theorem test_ring_speed :
    ringSpeed [5000] 8000 = 9000 ∧ ringSpeed [5000, 5100] 8000 = 8910 ∧
      ringSpeed [20, 20, 20, 20, 20, 20, 20, 20] 8000 = 25000 := by decide

/-- The speedometer's curve of section 3.3. -/
def speedometer : List CurvePoint := [⟨0, 0⟩, ⟨2000, 1200⟩, ⟨8000, 3000⟩, ⟨12000, 3600⟩]

theorem test_curve :
    curvePosition speedometer 5000 = 2100 ∧ curvePosition speedometer 8333 = 3049 ∧
      curvePosition speedometer 25000 = 3600 ∧ curvePosition speedometer (-5) = 0 := by decide

/-- Rule 7 of section 4.2's hysteresis example. -/
def coolant : Rule :=
  { life := .live, live := .inactive,
    a := some { lamp := 3, slot := 20, test := .above, pattern := .steady, priority := 5 }, b := some 1050,
    c := some { hysteresis := 30, staleAction := .keep, errorAction := true, confirmTime := 0 },
    d := some { alert := none }, condition := false, confirm := none, releaseOwed := false }

/-- A slot written by a route at the moment 0. -/
def slotOf (state : SlotState) (value : Int) : SlotRecord :=
  { value := value, state := state, stamp := 0, timeout := some 300, writer := .route ⟨.trailer, 0x0C2A4401⟩ }

theorem test_hysteresis :
    coolant.judge false (slotOf .fresh 1040) = false ∧ coolant.judge false (slotOf .fresh 1051) = true ∧
      coolant.judge true (slotOf .fresh 1030) = true ∧ coolant.judge true (slotOf .stale 1030) = true ∧
      coolant.judge true (slotOf .fresh 1021) = true ∧ coolant.judge true (slotOf .fresh 1020) = false ∧
      coolant.judge false (slotOf .fresh 1045) = false ∧ coolant.judge false (slotOf .error 1045) = true := by decide

/-- A record of port T on MGMT_REQ_ID: the code and its arguments, padded with 0 to eight bytes. -/
def request (code : Nat) (args : List Nat) : FrameRecord :=
  { port := .tractor, identifier := 0x1B7A0010,
    data := ((code :: args ++ [0, 0, 0, 0, 0, 0, 0]).take 8).map (BitVec.ofNat 8) }

/-- The state with that request alone in the intake queue. -/
def ask (s : State) (code : Nat) (args : List Nat) : State := { s with intake.queue := [request code args] }

/-- The part in a power state, with its ports and its display link on outside SLEEP. -/
def inPower (p : PowerState) : State :=
  { State.reset with
    ign.power := p, ign.level := true, ign.hold := decide (p = .parking), pins.ign := true, portT.on := decide (p ≠ .sleep),
    portL.on := decide (p ≠ .sleep), display.link := if p = .sleep then .off else .waiting }

/-- The part in RUN. -/
def running : State := inPower .run

/-- Section 6.5's k-factor change: the history's entry, the k-factor, the accumulator and the stored odometer. -/
theorem test_set_kfactor :
    (match exec .setKfactor
        (ask { running with dist.liveOdo := 1234567, dist.storedOdo := 1234100, dist.accumulator := 5000 } 0x38
          [0, 0xB8, 0x1F]) with
      | .next t =>
        decide (t.dist.history = [⟨8000, 8120, 1234567⟩] ∧ t.dist.kFactor = 8120 ∧ t.dist.accumulator = 0 ∧
          t.dist.storedOdo = 1234567 ∧ t.intake.queue = [] ∧
          t.intake.transmit = [⟨0x1B7A0011, [0xB8, 0, 0, 1, 1, 0, 0, 0]⟩])
      | _ => false) = true := by decide

/-- The arguments of section 1.6's requests, at the bytes that R193 gives them. -/
theorem test_route_arguments :
    openedBuild (request 0x10 [9, 0x01, 0x44, 0x2A, 0xCC, 0x1E, 0xE0]) =
        { key := ⟨.trailer, 0x0C2A4401⟩, length := 8, timeout := 300, parts := List.replicate 3 ⟨none, none, none⟩ } ∧
      partA (request 0x11 [9, 2, 24, 16, 3, 22]) = signedWord.a ∧ partB (request 0x12 [9, 2, 1, 0, 3, 0]) = signedWord.b ∧
      partA (request 0x11 [9, 0, 0, 16, 4, 20]) = speedWord.a ∧ partB (request 0x12 [9, 0, 5, 0, 1, 0]) = speedWord.b := by
  decide

/-- Section 1.6's last EXT_C: the build slot is empty, the entry ACTIVE, the answer INSTALLED. -/
theorem test_last_part_installs :
    (match exec .extC
        (ask { running with
            intake.build := some
              { key := ⟨.trailer, 0x0C2A4401⟩, length := 8, timeout := 300,
                parts := [⟨some speedWord.a, some speedWord.b, some 0⟩, ⟨some twoBits.a, some twoBits.b, some 0⟩,
                  ⟨some signedWord.a, some signedWord.b, none⟩] } } 0x13 [9, 2]) with
      | .next t =>
        decide (t.intake.build = none ∧
          t.intake.routes.map (·.route) =
            [{ key := ⟨.trailer, 0x0C2A4401⟩, length := 8, timeout := 300,
               extractors := [speedWord, twoBits, signedWord] }] ∧
          t.intake.transmit.map (fun f => f.data.take 3) = [[0x93, 9, 1]])
      | _ => false) = true := by decide

/-! ### A state and operands that meet the hypotheses of each statement -/

theorem witness_EmptyQueueStep :
    (running.pending = [] ∧ running.alert.backlog = [] ∧ running.dueNow = none ∧ running.saveOverdue = false) ∧
      ({ running with ign.timer := some 0 } : State).dueNow = some .ignTimerExpiry := by decide

/-- A route on port L whose first extractor writes slot 20. -/
def speedRoute : RouteEntry :=
  { route := { key := ⟨.trailer, 0x0C2A4401⟩, length := 8, timeout := 300, extractors := [speedWord, twoBits, signedWord] },
    hits := 0, rejects := 0 }

/-- A state of RUN with something in every block that an invariant speaks of, and READY's rise at the front of the queue. -/
def busy : State :=
  { running with
    pending := [.readyRise], intake.routes := [speedRoute],
    intake.build := some { key := ⟨.tractor, 5⟩, length := 8, timeout := 10, parts := [⟨some { speedWord.a with slot := 30 }, none, none⟩] },
    alert.stack := [⟨0xF101, .caution, .speed, true, 0, 0⟩], telltale.rules := running.telltale.rules.put 7 coolant,
    tacho.readout := [⟨.one, 1⟩], tacho.transfer := .requested .two 1, dist.accumulator := 7999, dist.storedOdo := 4,
    dist.liveOdo := 5 }

/-- The step that every invariant's witness takes. -/
theorem busy_steps : ∃ t, step busy = .next t := ⟨_, rfl⟩

theorem witness_QueuesKept : QueuesOk busy ∧ ∃ t, step busy = .next t := ⟨by unfold QueuesOk; decide, busy_steps⟩

theorem witness_AlertsKept : AlertsOk busy ∧ ∃ t, step busy = .next t :=
  ⟨by unfold AlertsOk StackOk; decide, busy_steps⟩

theorem witness_RoutesKept : RoutesOk busy ∧ ∃ t, step busy = .next t :=
  ⟨⟨by decide, by decide, by unfold EntryOk PartAOk PartBOk PartCOk; decide,
    fun b h => by cases h; unfold EntryOk PartAOk PartBOk PartCOk; decide⟩, busy_steps⟩

theorem witness_SlotsKept : SlotsOk busy ∧ ∃ t, step busy = .next t := ⟨by unfold SlotsOk; decide, busy_steps⟩

theorem witness_DistanceKept : DistanceOk busy.dist ∧ ∃ t, step busy = .next t :=
  ⟨by unfold DistanceOk; decide, busy_steps⟩

theorem witness_ReadoutKept : ReadoutOk busy.tacho ∧ ∃ t, step busy = .next t :=
  ⟨by unfold ReadoutOk; decide, busy_steps⟩

theorem witness_CodesKept : CodesOk busy ∧ ∃ t, step busy = .next t := by
  have none_held : ∀ i, i < 64 → busy.heldCode i = none := by decide
  exact ⟨fun i j code hi _ h _ => (Option.some_ne_none code (h.symm.trans (none_held i hi))).elim, busy_steps⟩

theorem witness_PowerKept : PowerOk busy ∧ ∃ t, step busy = .next t := ⟨by unfold PowerOk; decide, busy_steps⟩

theorem witness_LinkKept : LinkOk busy ∧ ∃ t, step busy = .next t := ⟨by unfold LinkOk; decide, busy_steps⟩

theorem witness_ParamsKept : ParamsOk busy.mgmt ∧ ∃ t, step busy = .next t :=
  ⟨by unfold ParamsOk; decide, busy_steps⟩

theorem witness_RecordsKept : RecordsOk busy ∧ ∃ t, step busy = .next t :=
  ⟨by unfold RecordsOk; decide, busy_steps⟩

theorem witness_ResponseLayout : ([1, 2, 3, 4] : List Byte).length ≤ 4 := by decide

/-- The part in RUN with that notice mask and that many frames in the transmit queue. -/
def masked (mask : BitVec 12) (frames : Nat) : State :=
  { running with mgmt.mask := mask, intake.transmit := List.replicate frames ⟨0, []⟩ }

theorem witness_EventRequests :
    Asked 0x01 (ask running 0x01 [9]) (request 0x01 [9]) [] ∧
      Asked 0x02 (ask running 0x02 [9, 0xFF, 0x0F]) (request 0x02 [9, 0xFF, 0x0F]) [] ∧
      (request 0x02 [9, 0xFF, 0x0F]).word 2 = 4095 ∧ (request 0x02 [9, 0, 0x10]).word 2 = 4096 ∧
      (∀ mask ∈ [(0 : BitVec 12), 0x800],
        ¬ Flagged (masked mask 7) .buildAbandoned ∧ EventFlag.buildAbandoned.inWord mask = decide (mask = 0x800)) ∧
      Flagged { masked 0 7 with mgmt.flags := 0x800 } .buildAbandoned := by
  unfold Asked AtHead Flagged; decide

/-- A masked flag in RUN behind another flag: the notice's eight bytes; dropped where the queue is full; none for a flag that was set. -/
theorem test_notice :
    let sent := fun (n : Nat) =>
      let t := ({ masked 0x802 n with mgmt.flags := 0x002 } : State).raise .buildAbandoned
      (t.mgmt.flags, (t.intake.transmit.drop 7).map (·.data), t.portT.txDrop)
    sent 7 = (0x802, [[0xFF, 0, 2, 8, 2, 8, 1, 0]], 0) ∧ sent 8 = (0x802, [[]], 1) ∧
      (({ masked 0x802 7 with mgmt.flags := 0x800 } : State).raise .buildAbandoned).intake.transmit.length = 7 := by decide

theorem witness_ManagementReads :
    (∀ n ∈ [0, 8, 9], Asked 0x03 (ask running 0x03 [9, n]) (request 0x03 [9, n]) []) ∧
      ∀ id ∈ [0, 26, 27], Asked 0x05 (ask running 0x05 [9, id, 1]) (request 0x05 [9, id, 1]) [] := by
  unfold Asked AtHead; decide

/-- The state with that slot record in place. -/
def withSlot (s : State) (n : Nat) (k : SlotRecord) : State := { s with table.slots := s.table.slots.put n k }

/-- The state with that parameter at that value, held and in effect. -/
def withParam (s : State) (id : Nat) (v : Int) : State :=
  { s with mgmt.held := s.mgmt.held.put id v, mgmt.inEffect := s.mgmt.inEffect.put id v }

/-- SET_PARAM of the parameters that a block follows at once, of one that none does, of an id and of values that are refused; the new
card slot showing 1, and showing nothing. -/
theorem witness_SetParam :
    (∀ q ∈ [[9, 4, 20], [9, 2, 100], [9, 10, 21], [9, 13, 20], [9, 17, 60], [9, 27, 0], [9, 4, 101]],
        Asked 0x04 (ask running 0x04 q) (request 0x04 q) [] ∧ ¬ Saving (ask running 0x04 q)) ∧
      (request 0x04 [9, 27, 0]).byte 2 = 27 ∧ paramInRange 4 101 = false ∧
      paramRelates running.mgmt.held 18 5 = false ∧
      (cardParam .one = 13 ∧ Shows (withSlot running 20 (slotOf .fresh 1)) 20 1 ∧ ¬ Shows running 20 1 ∧
        ReadoutOk running.tacho) ∧
      (∀ q ∈ [[9, 4, 20], [9, 2, 100], [9, 10, 21], [9, 13, 20], [9, 17, 60]],
        (request 0x04 q).byte 2 ≤ 26 ∧
          paramInRange ((request 0x04 q).byte 2) ((request 0x04 q).signedLong 3) = true ∧
          paramRelates running.mgmt.held ((request 0x04 q).byte 2) ((request 0x04 q).signedLong 3) = true) := by
  unfold Asked AtHead Saving Shows ReadoutOk; decide

/-- A restart pending behind its response. -/
def restarting (high : Bool) : State :=
  { running with mgmt.restart := some { ahead := 1, limit := 250000 }, pins.ign := high }

theorem witness_Restart :
    (Asked 0x06 (ask running 0x06 [9]) (request 0x06 [9]) [] ∧ ¬ Saving (ask running 0x06 [9])) ∧
      (∀ high, (restarting high).mgmt.restart = some { ahead := 1, limit := 250000 } ∧
        (restarting high).store.write = .idle ∧ (restarting high).pins.ign = high) ∧
      ({ restarting true with store.write := .writing ⟨8000, [], false, 0⟩ } : State).store.write ≠ .idle := by
  unfold Asked AtHead Saving; decide

theorem witness_ConfigRequests :
    ∀ code ∈ [0x08, 0x09], Asked code (ask running code [9]) (request code [9]) [] ∧ ¬ Saving (ask running code [9]) := by
  unfold Asked AtHead Saving; decide

/-- A channel that moves, its step event due at 800. -/
def moving (state : ChannelState) (direction : Direction) (level position target : Nat) : Channel :=
  { State.reset.channel 0 with
    state := state, direction := direction, level := level, position := position, target := target,
    stepTimer := some 800 }

/-- The state with that channel 7. -/
def withNeedle (s : State) (c : Channel) : State := { s with gauges := s.gauges.put 7 c }

/-- The state with that rule 63. -/
def withRule (s : State) (q : Rule) : State := { s with telltale.rules := s.telltale.rules.put 63 q }

/-- The coolant rule in EDITING, and with an alert code. -/
def editing : Rule := { coolant with life := .editing }
def alarm (live : RuleLive) : Rule := { coolant with live := live, d := some { alert := some (0xEFFF, .stop) } }

/-- A channel in HOMING with that many steps left. -/
def homing (left : Nat) (park : Bool) : Channel :=
  { moving .homing .down 4 left 0 with homingLeft := left, parkMark := park, restTimer := some 900 }

/-- The image that a save of the part right after reset would write. -/
def emptyImage : ConfigImage :=
  { routes := [], gauges := State.reset.gauges.map (·.live), rules := [], params := State.reset.mgmt.held }

/-- A calibration write in flight. -/
def writing (s : State) (w : CalWrite) : State := { s with store.write := w, store.writeTimer := some 5000 }

/-- PARKING in which every channel has parked. -/
def parkedUp : State := { inPower .parking with ign.reports := Bank.fill 8 .parked, ign.writeMark := true }

/-- A save in flight there, with that report. -/
def savingIn (s : State) (report mark : Bool) : State :=
  { s with store.save := some emptyImage, store.report := report, ign.writeMark := mark }

theorem witness_StoreWrites :
    (∀ report, (savingIn running report false).store.save = some emptyImage ∧ StaysUp (savingIn running report false) ∧
        (savingIn running report false).store.report = report) ∧
      (∀ mark, (savingIn parkedUp true mark).store.save = some emptyImage ∧ ¬ StaysUp (savingIn parkedUp true mark) ∧
        (savingIn parkedUp true mark).ign.writeMark = mark) ∧
      (∀ w ∈ [CalWrite.writing ⟨8000, [], false, 0⟩, .writingPending ⟨8000, [], false, 0⟩],
        (writing running w).store.writeTimer = some 5000 ∧ StaysUp (writing running w) ∧
          (writing running w).store.write = w) ∧
      (∀ mark,
        let s := { writing parkedUp (.writing ⟨8000, [], false, 0⟩) with ign.saveMark := mark }
        s.store.writeTimer = some 5000 ∧ s.store.write = .writing ⟨8000, [], false, 0⟩ ∧ ¬ StaysUp s ∧
          s.ign.saveMark = mark) := by
  unfold StaysUp; decide

theorem witness_RequestsHeldBack :
    (Instr.routedFrame ∈ headCommands ∧ Instr.displayRead ∈ headCommands ∧ (restarting true).mgmt.restart ≠ none) ∧
      ∀ q ∈ busyRequests,
        Asked q.1 (ask { running with store.save := some emptyImage } q.1 [9]) (request q.1 [9]) [] ∧
          Saving (ask { running with store.save := some emptyImage } q.1 [9]) := by
  unfold Asked AtHead Saving; decide

theorem witness_SupplyEvents :
    running.powered = true ∧ ({ State.reset with powered := false } : State).powered = false := by decide

theorem witness_IgnitionEvents :
    (running.powered = true ∧ running.pins.ign ≠ false ∧ State.reset.powered = true ∧ State.reset.pins.ign ≠ true) ∧
      ({ running with powered := false } : State).powered = false ∧
      ({ State.reset with ign.timer := some 100000, pins.ign := true } : State).ign.timer = some 100000 ∧
      ({ State.reset with ign.timer := some 100000, pins.ign := true } : State).ign.power = .sleep ∧
      (∀ p ∈ [PowerState.waking, .run, .parking], ∀ high,
        ({ inPower p with ign.timer := some 500000, pins.ign := high } : State).ign.timer = some 500000 ∧
          ({ inPower p with ign.timer := some 500000, pins.ign := high } : State).pins.ign = high) := by decide

/-- The clauses of the blocks at PARKING entry and at the return to RUN: the five channels of R58, the three of R60, an owed release
that stands, and one that is taken back. -/
theorem witness_IgnitionEvents_blocks :
    (∀ c ∈ [moving .tracking .none 0 0 0, moving .tracking .none 0 5 5, moving .tracking .up 1 5 9, homing 9 false, moving .fault .none 0 5 5],
        ((withNeedle running c).channel 7) = c) ∧
      (∀ c ∈ [moving .parking .down 2 10 0, moving .parked .none 0 0 0, homing 9 true],
        let s := withNeedle (inPower .parking) { c with live.settings.source := 20, live.settings.fallback := none }
        RecordsOk s ∧ (∀ n ∈ [8, 9, 13], (s.channel 7).live.settings.source ≠ n ∧ (s.channel 7).live.settings.fallback ≠ some n) ∧
          (s.channel 7).state ≠ .tracking) ∧
      (∀ owed, ∀ v ∈ [(1050 : Int), 1051],
        let s := withSlot (withRule (inPower .parking) { alarm .inactive with releaseOwed := owed }) 20 (slotOf .fresh v)
        (s.rule 63).life = .live ∧ (s.rule 63).live = .inactive ∧ (s.rule 63).condition = false ∧
          (s.rule 63).confirm = none ∧ (s.rule 63).releaseOwed = owed ∧ s.tacho.readout = [] ∧ s.alert.backlog = [] ∧
          (∀ i, i < 64 → (s.rule i).life = .live → i = 63) ∧ (s.rule 63).a ≠ none ∧ (s.rule 63).c ≠ none) := by
  unfold RecordsOk; decide

/-- A transfer of driver 1 whose retry started at moment 5, and the part's clock. -/
def retried (clock : Nat) : State :=
  { running with
    clock := clock, tacho.d1 := { running.tacho.d1 with state := .estimating, outcome := .timeout },
    tacho.transfer := .requested .one 2, tacho.transferTimer := some 1000005, tacho.restarted := some 5 }

/-- The card clauses of PARKING entry: a transfer that is stopped, and one that started at the moment of the expiry (R143, log 34). -/
theorem witness_IgnitionEvents_card :
    stopsTransfer (retried 6) .one = true ∧ (∀ d ∈ [Driver.one, .two], stopsTransfer (retried 5) d = false) ∧
      (∀ clock, (retried clock).alert.backlog = [] ∧ (retried clock).ign.power = .run) :=
  ⟨by decide, by decide, fun _ => ⟨rfl, rfl⟩⟩

theorem witness_PowerTimers :
    ({ running with ign.secondTimer := some 1000000 } : State).ign.secondTimer = some 1000000 ∧
      ({ parkedUp with ign.parkingTimer := some 10000000 } : State).ign.parkingTimer = some 10000000 := by decide

/-- The part with port T as given. -/
def withPort (f : PortBlock → PortBlock) : State := { running with portT := f running.portT }

theorem witness_PortFrames :
    (∀ p ∈ [Port.tractor, .trailer], (running.port p).on = true ∧ (running.port p).state ≠ .busOff) ∧ (State.reset.port .tractor).on = false ∧
      (withPort (fun p => { p with state := .busOff })).portT.state = .busOff ∧
      (withPort (fun p => { p with awaiting := true, lost := true })).portT.awaiting = true ∧
      (withPort (fun p => { p with awaiting := true, lost := true })).portT.lost = true ∧
      32 ≤ ({ running with intake.queue := List.replicate 32 (request 1 []) } : State).intake.queue.length ∧
      ({ running with intake.transmit := [⟨0, []⟩] } : State).intake.transmit = ⟨0, []⟩ :: [] := by decide

theorem witness_PortErrors :
    (∀ p ∈ [Port.tractor, .trailer], (running.port p).on = true ∧ (running.port p).state ≠ .busOff ∧ (running.port p).txErrors + 8 < 256) ∧
      ((withPort (fun p => { p with txErrors := 248 })).port .tractor).txErrors + 8 = 256 ∧
      ((withPort (fun p => { p with state := .busOff, recovery := some 5 })).port .tractor).recovery = some 5 ∧
      ((withPort (fun p => { p with silence := some 5 })).port .tractor).silence = some 5 ∧
      (State.reset.port .trailer).on = false := by decide

/-- A record of port L. -/
def trailerRecord (identifier : Nat) (data : List Byte) : FrameRecord :=
  { port := .trailer, identifier := identifier, data := data }

/-- The state with that record at the head of its queue. -/
def heads (s : State) (r : FrameRecord) : State := { s with intake.queue := [r] }

theorem witness_RoutedFrame :
    ∀ data ∈ [[0x2C, 0x01, 0x01, 0xFF, 0x38, 0, 0, 0], [0x2C]],
      AtHead (heads busy (trailerRecord 0x0C2A4401 data)) (trailerRecord 0x0C2A4401 data) [] ∧
        busy.isMgmt (trailerRecord 0x0C2A4401 data) = false ∧ busy.isForeign (trailerRecord 0x0C2A4401 data) = false ∧
        busy.isXfer (trailerRecord 0x0C2A4401 data) = false ∧
        findRoute busy.intake.routes (trailerRecord 0x0C2A4401 data).key = some speedRoute ∧
        speedRoute.route.slots.Nodup ∧ (∀ n ∈ speedRoute.route.slots, 16 ≤ n ∧ n < 96) := by
  unfold AtHead; decide

/-- An unsigned byte for slot 20, and the one entry of its route. -/
def byteSlot : Extractor :=
  { a := { start := 0, width := 8, order := .lowFirst, signed := false, coded := false, slot := 20 },
    b := { multiplier := 1, divisor := 1 }, offset := 0 }
def byteRoute : RouteEntry :=
  { route := { key := ⟨.trailer, 0x200⟩, length := 1, timeout := 10, extractors := [byteSlot] }, hits := 0, rejects := 0 }

theorem byte_extracts (v : Byte) (w : Int) (h : rawValue byteSlot.a (rawField byteSlot.a [v]) = w) (lo : 0 ≤ w) (hi : w < 256) :
    Extracts byteSlot [v] (.fresh w) := by
  refine ⟨fun h => (nomatch h), fun h => (nomatch h), fun _ x hx => ?_⟩
  have e : x = w := by rw [hx, h]; simp [byteSlot]
  subst e
  exact ⟨fun _ _ => rfl, fun h => by omega⟩

/-- The state with that byte at the head of its queue, on its way to slot 20. -/
def landing (s : State) (v : Byte) : State := heads { s with intake.routes := [byteRoute] } (trailerRecord 0x200 [v])

/-- The first write of slot 20 from the route, of the three values that the card and the other fields tell apart. -/
theorem landing_lands :
    (∀ v ∈ [(0 : Byte), 1, 45],
      Hits (landing running v) (trailerRecord 0x200 [v]) [] byteRoute ∧ [v].length = byteRoute.route.length) ∧
      Extracts byteSlot [0] (.fresh 0) ∧ Extracts byteSlot [1] (.fresh 1) ∧ Extracts byteSlot [45] (.fresh 45) := by
  refine ⟨by unfold Hits AtHead; decide, ?_, ?_, ?_⟩ <;>
    exact byte_extracts _ _ (by decide) (by decide) (by decide)

/-- A needle that follows slot 20, as the state and the motion are given. -/
def following (c : Channel) : Channel := { c with live.settings.source := 20 }

/-- The gauge clause: no rule, no dimming and no tachograph field names slot 20, and channel 7 follows it. -/
theorem witness_RoutedFrame_gauges :
    let s := landing (withNeedle running (following (moving .tracking .none 0 100 100))) 45
    Lands s (trailerRecord 0x200 [45]) [] byteRoute byteSlot (.fresh 45) ∧ s.watched 20 = false ∧
      (∀ id ∈ [4, 10, 13, 14, 15, 16], s.param id ≠ 20) ∧ RecordsOk s ∧ Follows (s.channel 7) 20 ∧
      ¬ Follows (s.channel 6) 20 :=
  ⟨⟨by unfold Hits AtHead; decide, by decide, by decide, by decide, by decide, landing_lands.2.2.2⟩, by decide, by decide,
    by unfold RecordsOk; decide, by unfold Follows; decide, by unfold Follows; decide⟩

/-- A LIVE rule with an alert that has its condition: ACTIVE, or PENDING on its confirm time. -/
def holding (live : RuleLive) : Rule := { alarm live with condition := true, confirm := if live = .pending then some 9 else none }

/-- The rule clauses: a rule that holds its condition falls back at the new record, one without it becomes ACTIVE or PENDING, and the
alert block takes what they send. A slot that expires, and the slots of a route deleted, have such a rule as well. -/
theorem witness_RoutedFrame_rules :
    (∀ q ∈ [holding .active, holding .pending, { alarm .inactive with b := some 40 }],
      let s := landing (withRule running q) 45
      Hits s (trailerRecord 0x200 [45]) [] byteRoute ∧ RulesRun s ∧ (s.rule 63).life = .live ∧ s.watched 20 = true ∧
        20 ∈ byteRoute.route.slots) ∧
      (let s := landing running 45
       (ruleAfter 0 (holding .active) (slotOf .fresh 45)).live = .inactive ∧
        (ruleAfter 0 (holding .pending) (slotOf .fresh 45)).live = .inactive ∧
        (ruleAfter 0 { alarm .inactive with b := some 40 } (slotOf .fresh 45)).live = .active ∧
        ruleSends (withSlot (withRule s (holding .active)) 20 (slotOf .fresh 45)) 20 63 = [.release 0xEFFF (.rule 63)] ∧
        ruleSends (withSlot (withRule s (holding .pending)) 20 (slotOf .fresh 45)) 20 63 = [] ∧
        ruleSends (withSlot (withRule s { alarm .inactive with b := some 40 }) 20 (slotOf .fresh 45)) 20 63 =
          [.push 0xEFFF .stop (.rule 63)]) ∧
      (let s := withSlot (withRule running (holding .active)) 20 (slotOf .fresh 2000)
       RulesRun s ∧ (s.rule 63).life = .live ∧ (s.slot 20).timeout = some 300 ∧ (s.slot 20).state = .fresh) ∧
      (RulesRun busy ∧ (busy.rule 7).life = .live ∧ (∃ a, (busy.rule 7).a = some a ∧ a.slot ∈ speedRoute.route.slots)) := by
  refine ⟨by unfold Hits AtHead RulesRun; decide, by decide, by unfold RulesRun; decide, by unfold RulesRun; decide, by decide, ?_⟩
  exact ⟨_, rfl, by decide⟩

/-- The display link takes marks, and events of the distance and driver slots have one to set. -/
theorem witness_marks :
    running.display.link ≠ .off ∧ Marked 0 .distancePage ∧ (∀ d, Marked (contSlot d) (pageOf d) ∧ Marked (leftSlot d) (pageOf d)) ∧
      running.display.dirty.distancePage = false := by
  refine ⟨by decide, .inl (by decide), fun d => ?_, by decide⟩
  cases d <;> (unfold Marked; decide)

theorem witness_DiscardedRecords :
    (AtHead (heads running (trailerRecord 5 [])) (trailerRecord 5 []) [] ∧ running.isMgmt (trailerRecord 5 []) = false ∧
        running.isForeign (trailerRecord 5 []) = false ∧ running.isXfer (trailerRecord 5 []) = false ∧
        findRoute running.intake.routes (trailerRecord 5 []).key = none) ∧
      (trailerRecord 0x1B7A0010 []).identifier = running.mgmtReqId ∧
      (∀ r ∈ [request 0x00 [], ⟨.tractor, 0x1B7A0010, [1]⟩],
        AtHead (heads running r) r [] ∧ r.port = .tractor ∧ r.identifier = running.mgmtReqId ∧
          (r.data.length ≠ 8 ∨ r.byte 0 ∉ requestCodes)) ∧
      (∀ data ∈ [([] : List Byte), [0x11], [0x51, 0, 0], [0x11, 25]],
        AtHead (heads running ⟨.tractor, running.tachoXferId, data⟩) ⟨.tractor, running.tachoXferId, data⟩ []) ∧
      running.tachoXferId ≠ running.mgmtReqId := by
  unfold AtHead; decide

/-- The three kinds of a stray frame: one that is no transfer frame, one with none in flight, one that names another driver. -/
theorem witness_DiscardedRecords_stray :
    (∀ data ∈ [([] : List Byte), [0x11], [0x51, 0, 0], [0x13, 25], [0x21, 0, 1, 2, 3, 4, 5]],
      readXfer ⟨.tractor, running.tachoXferId, data⟩ = none) ∧
      (readXfer ⟨.tractor, running.tachoXferId, [0x11, 25]⟩ = some (.opening .one 25) ∧
        StrayTo .idle (.opening .one 25) ∧ ¬ StrayTo (.requested .two 1) (.opening .one 25)) ∧
      (readXfer ⟨.tractor, running.tachoXferId, [0x41]⟩ = some (.aborting .one) ∧
        StrayTo (.requested .two 1) (.aborting .one)) ∧ ¬ StrayTo (.requested .one 1) (.aborting .one) := by
  refine ⟨by decide, ⟨by decide, .inl rfl, ?_⟩, ⟨by decide, .inr ⟨by decide, .inr fun _ _ h => nomatch h⟩⟩, ?_⟩
  · rintro (h | ⟨_, h | h⟩)
    · exact nomatch h
    · exact h .two 1 rfl
    · exact h .one 25 rfl
  · rintro (h | ⟨h, _⟩)
    · exact nomatch h
    · exact h rfl

theorem witness_RawField :
    signedWord.a.order = .highFirst ∧ signedWord.a.start % 8 = 0 ∧ signedWord.a.width % 8 = 0 ∧
      signedWord.a.start + signedWord.a.width ≤ 8 * 5 ∧ speedWord.a.order = .lowFirst ∧ 1 ≤ signedWord.a.width ∧
      65535 < 2 ^ signedWord.a.width := by decide

/-- ROUTE_OPEN into an empty and a held build slot; the three parts with and without a build, and one that completes it. -/
theorem witness_RouteBuild :
    (∀ s ∈ [running, busy], Asked 0x10 (ask s 0x10 [9, 7, 0, 0, 0, 100, 0x80]) (request 0x10 [9, 7, 0, 0, 0, 100, 0x80]) [] ∧
        ¬ Saving (ask s 0x10 [9, 7, 0, 0, 0, 100, 0x80])) ∧
      running.intake.build = none ∧ busy.intake.build ≠ none ∧
      (∀ code ∈ [0x11, 0x12, 0x13], ∀ s ∈ [running, busy], Asked code (ask s code [9, 0]) (request code [9, 0]) [] ∧
        ¬ Saving (ask s code [9, 0])) := by
  unfold Asked AtHead Saving; decide

/-- ROUTE_DELETE of a key with its spare bits set, of one that is nowhere, of the build's and of an ACTIVE one. -/
theorem witness_RouteDelete :
    (∀ key ∈ [[0, 0, 0, 0x20], [7, 0, 0, 0], [5, 0, 0, 0], [0x01, 0x44, 0x2A, 0x8C]],
        Asked 0x14 (ask busy 0x14 (9 :: key)) (request 0x14 (9 :: key)) [] ∧ ¬ Saving (ask busy 0x14 (9 :: key))) ∧
      keySpare ((request 0x14 [9, 0, 0, 0, 0x20]).long 2) ≠ 0 ∧
      (∀ key ∈ [[7, 0, 0, 0], [5, 0, 0, 0]],
        keySpare ((request 0x14 (9 :: key)).long 2) = 0 ∧
          findRoute busy.intake.routes (keyOfWord ((request 0x14 (9 :: key)).long 2)) = none) ∧
      busy.intake.build.map (·.key) = some (keyOfWord ((request 0x14 [9, 5, 0, 0, 0]).long 2)) ∧
      keySpare ((request 0x14 [9, 0x01, 0x44, 0x2A, 0x8C]).long 2) = 0 ∧
      findRoute busy.intake.routes (keyOfWord ((request 0x14 [9, 0x01, 0x44, 0x2A, 0x8C]).long 2)) = some speedRoute := by
  unfold Asked AtHead Saving; decide

theorem witness_TableReads :
    (∀ q ∈ [[9, 0, 0], [9, 0, 1], [9, 1, 0], [9, 0, 2]], Asked 0x15 (ask busy 0x15 q) (request 0x15 q) []) ∧
      ∀ q ∈ [[9, 0, 0], [9, 95, 3], [9, 96, 0], [9, 0, 4]], Asked 0x18 (ask busy 0x18 q) (request 0x18 q) [] := by
  unfold Asked AtHead; decide

theorem witness_SlotExpires :
    (∀ n ∈ [16, 95], ∀ k ∈ [SlotState.fresh, .notAvailable, .error],
        n < 96 ∧ 16 ≤ n ∧ (withSlot running n (slotOf k 5)).table.frozenAt = none ∧
          ((withSlot running n (slotOf k 5)).slot n).timeout = some 300 ∧
          ((withSlot running n (slotOf k 5)).slot n).state ≠ .never ∧
          ((withSlot running n (slotOf k 5)).slot n).state ≠ .stale) ∧
      (running.slot 16).timeout = none ∧ ((withSlot running 16 (slotOf .stale 5)).slot 16).state = .stale := by decide

theorem witness_SlotExpires_gauges :
    let s := withSlot (withNeedle running (following (moving .tracking .none 0 100 100))) 20 (slotOf .fresh 5)
    s.watched 20 = false ∧ (∀ id ∈ [4, 10, 13, 14, 15, 16], s.param id ≠ 20) ∧ RecordsOk s ∧ Follows (s.channel 7) 20 ∧
      ¬ Follows (s.channel 6) 20 ∧ (s.slot 20).timeout = some 300 := by
  unfold RecordsOk Follows; decide

theorem witness_GaugeWrites :
    (∀ q ∈ [[9, 7, 31], [9, 8, 0], [9, 0, 32]], Asked 0x20 (ask running 0x20 q) (request 0x20 q) []) ∧
      (∀ q ∈ [[9, 7, 2], [9, 7, 8], [9, 7, 1], [9, 8, 2]],
        Asked 0x21 (ask running 0x21 q) (request 0x21 q) [] ∧ ¬ Saving (ask running 0x21 q)) ∧
      (running.channel 7).staged.passes 2 = true ∧
      (running.channel 7).farthest ≤ (running.channel 7).staged.settings.fullScale := by
  unfold Asked AtHead Saving; decide

theorem witness_GaugeRead :
    (∀ q ∈ [[9, 8, 0], [9, 7, 5], [9, 7, 3, 32], [9, 7, 4, 7], [9, 7, 0], [9, 7, 1], [9, 7, 2], [9, 7, 3, 31], [9, 7, 4, 31]],
      Asked 0x22 (ask running 0x22 q) (request 0x22 q) []) := by
  unfold Asked AtHead; decide

/-- The five rows of the step table, in the state and in PARKING, and the stop of a PARKING needle. -/
theorem witness_StepEvent :
    (∀ c ∈ [moving .tracking .up 3 100 110, moving .tracking .down 3 100 99, moving .tracking .up 3 100 100,
        moving .tracking .up 0 100 98, moving .tracking .down 0 100 100],
      ((withNeedle running c).channel 7).stepTimer = some 800 ∧ ((withNeedle running c).channel 7).direction ≠ .none ∧
        ((withNeedle running c).channel 7).state = .tracking) ∧
      (∀ c ∈ [moving .parking .down 2 10 0, moving .parking .down 0 10 0],
        ((withNeedle parkedUp c).channel 7).state = .parking ∧
          (0 < ((withNeedle parkedUp c).channel 7).level ∨
            ((withNeedle parkedUp c).channel 7).pending.getD ((withNeedle parkedUp c).channel 7).target ≠
              ((withNeedle parkedUp c).channel 7).position)) ∧
      (∀ c ∈ [moving .parking .down 0 0 0, { moving .parking .up 0 0 9 with pending := some 0 }], ∀ mark,
        let s := { withNeedle parkedUp c with ign.saveMark := mark, ign.writeMark := false }
        (s.channel 7).stepTimer = some 800 ∧ (s.channel 7).direction ≠ .none ∧ (s.channel 7).state = .parking ∧
          (s.channel 7).level = 0 ∧ (s.channel 7).pending.getD (s.channel 7).target = (s.channel 7).position ∧
          (SleepReady { s.reach 800 with ign.reports := s.ign.reports.put 7 .parked } ↔ mark = false)) := by
  unfold SleepReady StaysUp; decide

/-- The part in that power state, where every channel but channel 7 has made that report. -/
def almost (p : PowerState) (report : ChannelReport) : State :=
  { inPower p with ign.reports := (Bank.fill 8 report).put 7 .none }

theorem witness_ChannelEvents :
    (((withNeedle running (homing 2 false)).channel 7).state = .homing ∧
        ((withNeedle running (homing 2 false)).channel 7).stepTimer = some 800 ∧
        1 < ((withNeedle running (homing 2 false)).channel 7).homingLeft) ∧
      ((withNeedle running (homing 2 false)).channel 7).restTimer = some 900 ∧
      (¬ CanReport (running.channel 7) .overA ∧
        ∀ index, index < 48 → ∀ cause ∈ [CoilFault.openA, .openB, .overA, .overB],
          CanReport ((withNeedle running { moving .tracking .up 3 100 110 with driveIndex := index }).channel 7) cause ↔
            ¬ (index % 24 = 0 ∧ cause = .openA ∨ index % 24 = 12 ∧ cause = .openB)) := by
  unfold CanReport; decide

/-- The last homing step and the last fault report, on which RUN or SLEEP follows or does not. -/
theorem witness_ChannelEvents_judged :
    (∀ park held : Bool, ∀ next ∈ [none, some 9],
        let s := { withNeedle (almost (if park then .parking else .waking) (if park then .parked else .tracking))
            { homing 1 park with pending := next } with
          ign.proveOutRunning := held, ign.writeMark := held }
        (s.channel 7).state = .homing ∧ (s.channel 7).stepTimer = some 800 ∧ (s.channel 7).homingLeft = 1 ∧
          (s.channel 7).parkMark = park ∧
          (RunReady { s with ign.reports := s.ign.reports.put 7 .tracking } ↔ park = false ∧ held = false) ∧
          (SleepReady { s with ign.reports := s.ign.reports.put 7 .parked } ↔ park = true ∧ held = false)) ∧
      (RunReady { almost .waking .tracking with ign.reports := (almost .waking .tracking).ign.reports.put 7 .fault } ∧
        SleepReady { almost .parking .parked with ign.reports := (almost .parking .parked).ign.reports.put 7 .fault } ∧
        ¬ RunReady running ∧ ¬ SleepReady running) := by
  unfold RunReady SleepReady StaysUp; decide

/-- Each part with a rule that may take it, a LIVE rule, an index above 63 and an argument out of range; a code held elsewhere. -/
theorem witness_RuleParts :
    (∀ q ∈ [(0x28, [9, 63, 31, 95, 4, 2, 15]), (0x28, [9, 63, 32, 95, 4, 2, 15]), (0x28, [9, 64]), (0x29, [9, 63]),
        (0x2A, [9, 63, 30, 0, 2, 1, 255]), (0x2A, [9, 63, 30, 0, 3]), (0x2B, [9, 63, 0, 0, 0]), (0x2B, [9, 63, 0xFF, 0xEF, 3]),
        (0x2B, [9, 63, 1, 0, 1]), (0x2B, [9, 63, 1, 0, 4])],
      Asked q.1 (ask running q.1 q.2) (request q.1 q.2) []) ∧
      (running.rule 63).life ≠ .live ∧ ((withRule running coolant).rule 63).life = .live ∧
      (request 0x28 [9, 63, 32]).byte 3 = 32 ∧ (request 0x28 [9, 64]).byte 2 = 64 ∧
      RuleTest.code .anyBit = (request 0x28 [9, 63, 31, 95, 4, 2, 15]).byte 5 ∧
      LampPattern.code .fast = (request 0x28 [9, 63, 31, 95, 4, 2, 15]).byte 6 ∧
      StaleAction.code .keep = (request 0x2A [9, 63, 30, 0, 2, 1, 255]).byte 5 ∧
      (request 0x2B [9, 63, 0xFF, 0xEF, 3]).word 3 = 0xEFFF ∧ Severity.rank .stop = (request 0x2B [9, 63, 0xFF, 0xEF, 3]).byte 5 ∧
      (let s := withRule running (alarm .inactive)
       (s.rule 63).life ≠ .free ∧ (s.rule 63).d = some { alert := some (0xEFFF, .stop) }) ∧
      (∀ j, j < 64 → j ≠ 63 → (running.rule j).life = .free) := by
  unfold Asked AtHead; decide

/-- RULE_ENABLE of index 64, of a FREE rule, of one with a part absent and of a complete one, in RUN and in PARKING. -/
theorem witness_RuleLifecycle :
    (∀ code ∈ [0x2C, 0x2D], ∀ i ∈ [63, 64],
        Asked code (ask running code [9, i]) (request code [9, i]) [] ∧ ¬ Saving (ask running code [9, i])) ∧
      (running.rule 63).life ≠ .editing ∧ ((withRule running { editing with b := none }).rule 63).life = .editing ∧
      (∀ p ∈ [PowerState.run, .parking],
        ((withRule (inPower p) editing).rule 63).life = .editing ∧
          ((withRule (inPower p) editing).rule 63).a =
            some { lamp := 3, slot := 20, test := .above, pattern := .steady, priority := 5 } ∧
          ((withRule (inPower p) editing).rule 63).b = some 1050 ∧
          ((withRule (inPower p) editing).rule 63).c =
            some { hysteresis := 30, staleAction := .keep, errorAction := true, confirmTime := 0 } ∧
          ((withRule (inPower p) editing).rule 63).d = some { alert := none } ∧
          (withRule (inPower p) editing).alert.backlog = [] ∧ (withRule (inPower p) editing).ign.power = p) ∧
      (let s := withRule running (alarm .active)
       s.alert.backlog = [] ∧ s.ign.power ≠ .sleep ∧ (s.rule 63).life = .live ∧ (s.rule 63).live = .active ∧
         (s.rule 63).d = some { alert := some (0xEFFF, .stop) }) := by
  unfold Asked AtHead Saving; decide

theorem witness_RuleRead_LampRead :
    (∀ q ∈ [[9, 63, 0], [9, 63, 1], [9, 63, 2], [9, 63, 3], [9, 63, 4], [9, 64, 0], [9, 63, 5]],
        Asked 0x2E (ask running 0x2E q) (request 0x2E q) []) ∧
      ∀ q ∈ [[9, 31, 0], [9, 32, 0], [9, 255, 1], [9, 0, 2]], Asked 0x2F (ask running 0x2F q) (request 0x2F q) [] := by
  unfold Asked AtHead; decide

theorem witness_RuleCondition :
    coolant.a = some { lamp := 3, slot := 20, test := .above, pattern := .steady, priority := 5 } ∧
      coolant.b = some 1050 ∧
      coolant.c = some { hysteresis := 30, staleAction := .keep, errorAction := true, confirmTime := 0 } ∧
      (slotOf .fresh 1051).state = .fresh ∧ (slotOf .error 0).state = .error ∧ (slotOf .never 0).state = .never ∧
      (slotOf .stale 0).state = .stale ∧ (slotOf .notAvailable 0).state = .notAvailable := by decide

theorem witness_LampResolution :
    (withRule running (alarm .active)).deciding 3 = some 63 ∧
      (let s := withSlot (withParam running 4 95) 95 (slotOf .fresh 1)
       s.param 4 = (95 : Nat) ∧ s.param 4 ≠ (94 : Nat) ∧ s.telltale.duty ≠ s.dutyNow ∧ s.display.link ≠ .off) := by decide

theorem witness_LampEvents :
    (∀ d ∈ [none, some (0xEFFF, Severity.stop)],
        (63 : Nat) < 64 ∧ ((withRule running { editing with confirm := some 5, d := some { alert := d } }).rule 63).confirm = some 5 ∧
          (withRule running { editing with confirm := some 5, d := some { alert := d } }).alert.backlog = []) ∧
      ({ running with telltale.phaseTimer := some 31250 } : State).telltale.phaseTimer = some 31250 ∧
      (∀ report ∈ [ChannelReport.tracking, .none],
        ({ inPower .waking with telltale.proveOut := some 5, ign.reports := Bank.fill 8 report } : State).telltale.proveOut =
          some 5 ∧
        (RunReady { inPower .waking with ign.reports := Bank.fill 8 report } ↔ report = .tracking)) ∧
      ((withRule running (alarm .active)).lampLit 3 = true ∧ ((withRule running (alarm .active)).lamp 3).checked = false) ∧
      running.lampLit 31 = false := by
  unfold RunReady; decide

/-- An entry of the Alert Stack, and the state of RUN with that stack. -/
def alertOf (code : Nat) (severity : Severity) (held : Bool) : AlertEntry :=
  { code := code, severity := severity, origin := .rule 0, held := held, repeats := 0, raisedAt := 0 }
def withStack (stack : List AlertEntry) : State := { running with alert.stack := stack }

/-- The chime at the entry to RUN follows the top entry; an unheld STOP entry asks for CAUTION, an empty stack for none (R104). -/
theorem test_run_entry_chime :
    let plays := fun stack =>
      ({ inPower .waking with alert.stack := stack } : State).runEntry.alert.playing.map (fun q => q.pattern)
    plays [alertOf 1 .stop true] = some .stop ∧ plays [alertOf 1 .stop false] = some .caution ∧
      plays [alertOf 1 .info true, alertOf 2 .stop true] = some .info ∧ plays [] = none := by decide

/-- Sixteen entries: fifteen of CAUTION over one of INFO. -/
def fullStack : List AlertEntry := (List.range 15).map (fun n => alertOf (n + 1) .caution true) ++ [alertOf 99 .info true]

/-- A push that finds its code, room, a full stack of higher severities and a full stack with an entry to give up; a release of an
INFO entry and of a held one; a STOP entry that plays. -/
theorem witness_AlertStack :
    (running.alert.backlog = [] ∧ running.watched 13 = false) ∧ (inPower .parking).ign.power ≠ .waking ∧
      (withStack [alertOf 1 .info true, alertOf 2 .stop true]).alert.stack = [alertOf 1 .info true] ++ alertOf 2 .stop true :: [] ∧
      (∀ f ∈ [alertOf 1 .info true], f.code ≠ 2) ∧ ([] : List AlertEntry).length < 16 ∧ fullStack.length = 16 ∧
      (∀ f ∈ fullStack.take 15 ++ [alertOf 99 .caution true], Severity.rank .info < f.severity.rank) ∧
      fullStack = fullStack.take 15 ++ alertOf 99 .info true :: [] ∧ (∀ f ∈ fullStack, f.code ≠ 77) ∧
      (∀ f ∈ fullStack, Severity.rank .info ≤ f.severity.rank) ∧
      ((withStack []).push 77 .stop (.rule 0)).alert.stack ≠ (withStack []).alert.stack ∧
      (((withStack []).push 77 .stop (.rule 0)).alert.playing).map (·.pattern) = some .stop ∧
      ((withStack [alertOf 77 .stop true]).release 77 (.rule 0)).alert.stack ≠ (withStack [alertOf 77 .stop true]).alert.stack ∧
      (withStack []).display.link ≠ .off := by decide

/-- A chime that plays. -/
def chiming (p : ChimePattern) (interval : Nat) : State :=
  { running with
    alert.playing := some { pattern := p, interval := interval, began := 0 }, alert.chimeTimer := some 5,
    alert.toneTimer := some 5 }

theorem witness_Chime :
    (State.reset.ign.power ≠ .run ∧ running.ign.power = .run ∧ running.alert.playing = none ∧
        (chiming .stop 0).alert.playing = some ⟨.stop, 0, 0⟩ ∧ ChimePattern.rank .caution < ChimePattern.rank .stop) ∧
      ∀ q ∈ [(ChimePattern.info, 0), (.refuse, 0), (.caution, 0), (.caution, 1), (.caution, 2), (.stop, 0), (.stop, 1)],
        (chiming q.1 q.2).alert.chimeTimer = some 5 ∧ (chiming q.1 q.2).alert.toneTimer = some 5 ∧
          (chiming q.1 q.2).alert.playing = some ⟨q.1, q.2, 0⟩ := by decide

/-- The ACK button as given, in RUN. -/
def acking (pressed armed : Bool) (release : Timer) : State :=
  { running with pins.ack := pressed, alert.ackArmed := armed, alert.ackRelease := release }

theorem witness_Acknowledgement :
    (State.reset.pins.ack ≠ true ∧ State.reset.ign.power = .sleep) ∧
      ((acking false true none).pins.ack ≠ true ∧ (acking false true none).alert.ackArmed = true) ∧
      ((acking false false (some 0)).alert.ackRelease = some 0 ∧ 0 ≤ (acking false false (some 0)).clock) ∧
      ((acking false false (some 1)).alert.ackArmed = false ∧ (acking false false (some 1)).alert.ackRelease = some 1 ∧
        (acking false false (some 1)).clock < 1) ∧
      (∀ armed, (acking true armed none).pins.ack ≠ false ∧ (acking true armed none).alert.ackArmed = armed) ∧
      (∀ p ∈ [PowerState.run, .parking],
        ({ inPower p with alert.ackHold := some 5 } : State).alert.ackHold = some 5 ∧
          Asked 0x30 (ask (inPower p) 0x30 [9]) (request 0x30 [9]) []) ∧
      (∀ e ∈ [alertOf 1 .stop true, alertOf 1 .stop false, alertOf 1 .info true],
        ({ withStack [e] with alert.ackHold := some 5 } : State).alert.ackHold = some 5 ∧
          Asked 0x30 (ask (withStack [e]) 0x30 [9]) (request 0x30 [9]) [] ∧ (withStack [e]).ign.power = .run ∧
          (withStack [e]).alert.stack = e :: [] ∧ (withStack [e]).alert.backlog = [] ∧
          (withStack [e]).watched 13 = false) := by
  unfold Asked AtHead; decide

theorem witness_AlertRead :
    ∀ q ∈ [[9, 0, 0], [9, 0, 1], [9, 0, 2], [9, 15, 0], [9, 16, 0], [9, 16, 3], [9, 0, 4]],
      Asked 0x31 (ask busy 0x31 q) (request 0x31 q) [] := by
  unfold Asked AtHead; decide

theorem witness_CalRequests :
    (∀ q ∈ [[9, 0xCF, 7], [9, 0xD0, 7], [9, 0, 0xFA], [9, 1, 0xFA], [9, 0x40, 0x1F]],
        Asked 0x38 (ask running 0x38 q) (request 0x38 q) []) ∧
      (request 0x38 [9, 0xCF, 7]).word 2 = 1999 ∧ (request 0x38 [9, 0, 0xFA]).word 2 = 64000 ∧
      (request 0x38 [9, 0x40, 0x1F]).word 2 = running.dist.kFactor ∧
      (∀ sealed,
        Asked 0x39 (ask { running with dist.sealed := sealed } 0x39 [9, 255, 255, 255, 255])
            (request 0x39 [9, 255, 255, 255, 255]) [] ∧
          Asked 0x3A (ask { running with dist.sealed := sealed } 0x3A [9]) (request 0x3A [9]) []) ∧
      (running.slot 2).value = ((request 0x39 [9, 99]).long 2 / 100 : Nat) := by
  unfold Asked AtHead; decide

theorem witness_DistanceReads :
    (∀ q ∈ [[9, 7, 0], [9, 7, 1], [9, 8, 0], [9, 0, 2]], Asked 0x3B (ask running 0x3B q) (request 0x3B q) []) ∧
      ∀ q ∈ [[9, 0], [9, 1], [9, 2], [9, 3], [9, 4]], Asked 0x3C (ask running 0x3C q) (request 0x3C q) [] := by
  unfold Asked AtHead; decide

/-- The sensor's inputs and filtered levels as given, in RUN. -/
def sensing (raw filtered : Bool) (timer : Timer) : State :=
  { running with
    pins.spa := raw, pins.spb := raw, dist.spaLevel := filtered, dist.spbLevel := filtered, dist.spaTimer := timer,
    dist.spbTimer := timer }

theorem witness_FilterEvents :
    (∀ high, (sensing high high none).pins.spa = high ∧ (sensing high high none).pins.spb = high) ∧
      State.reset.ign.power = .sleep ∧ (running.powered = true ∧ running.ign.power ≠ .sleep) ∧
      ((sensing false false none).pins.spa ≠ true ∧ (sensing false false none).dist.spaLevel ≠ true) ∧
      ((sensing true false (some 5)).pins.spb ≠ false ∧ (sensing true false (some 5)).dist.spbLevel = false) ∧
      (∀ mark,
        ({ running with dist.zeroTimer := some 5, table.silentMark := mark } : State).dist.zeroTimer = some 5 ∧
          ({ running with dist.zeroTimer := some 5, table.silentMark := mark } : State).table.silentMark = mark) := by decide

theorem witness_AcceptedEdges :
    (∀ high, (sensing high (!high) (some 5)).dist.spaTimer = some 5 ∧ (sensing high (!high) (some 5)).pins.spa = high) ∧
      ({ sensing true false (some 4000001) with dist.lastPulse := some 0 } : State).dist.lastPulse = some 0 ∧
      ((sensing true false (some 5)).dist.spbTimer = some 5 ∧
        (∀ mark, ({ sensing true false (some 5) with table.phaseBMark := mark } : State).table.phaseBMark = mark) ∧
        (sensing true false (some 5)).param 7 = 0 ∧
        ({ sensing true false (some 5) with mgmt.inEffect := running.mgmt.inEffect.put 7 1,
                                            mgmt.held := running.mgmt.held.put 7 1 } : State).param 7 ≠ 0) := by decide

/-- The clauses of the alerts, of the kilometre and of the slots of a pulse, and of the release at an edge of SPB. -/
theorem witness_AcceptedEdges_alerts :
    (∀ silent, ∀ count ∈ [5, 63], ∀ odo ∈ [0, 999],
        let s := { sensing true true (some 5) with
                   table.silentMark := silent, dist.phaseB := count, dist.liveOdo := odo, dist.accumulator := 8000 }
        s.dist.spaTimer = some 5 ∧ s.pins.spa = true ∧ OnlyThePulse s ∧ s.table.silentMark = silent ∧
          ((s.param 7 = 0 ∧ s.dist.phaseB = 63) ↔ count = 63) ∧
          (s.reach 5).pulse.dist.liveOdo = odo + 1 ∧ ((s.reach 5).pulse.dist.storedOdo ≠ s.dist.storedOdo ↔ odo = 999) ∧
          ((s.reach 5).pulse.dist.reverse = s.dist.reverse ↔ false)) ∧
      running.watched 12 = false := by
  unfold OnlyThePulse; decide

/-- The record of driver 1 as given, and its activity in slot 95. -/
def driving (state : DriverState) (stretch : Nat) (activity : Int) : State :=
  withSlot
    { running with
      tacho.d1 := { running.tacho.d1 with state := state, stretch := stretch }, tacho.minuteTimer := some 60000000,
      mgmt.held := running.mgmt.held.put (activityParam .one) 95, mgmt.inEffect := running.mgmt.inEffect.put (activityParam .one) 95 }
    95 (slotOf .fresh activity)

theorem witness_MinuteEvents :
    (∀ v ∈ [(0 : Int), 2, 3],
        (driving .estimating 44 v).tacho.minuteTimer = some 60000000 ∧
          (∀ d ∈ [Driver.one, .two], ∀ n, n < 16 → (driving .estimating 44 v).paramSlot (activityParam d) ≠ some n) ∧
          ((driving .estimating 44 v).driver .one).state ≠ .noDriver ∧
          ((driving .estimating 44 v).activity .one).map (fun n => (n : Int)) = some v) ∧
      (driving .confirmed 0 9).activity .one = none ∧ ((driving .noDriver 0 0).driver .one).state = .noDriver := by decide

/-- The clauses of the card slot and of the continuous-driving slot, on slot 20. -/
theorem witness_MinuteEvents_fields :
    (∀ d, ∀ v ∈ [(0 : Byte), 1, 45],
      let s := landing (withParam running (cardParam d) 20) v
      Hits s (trailerRecord 0x200 [v]) [] byteRoute ∧ OnlyField s (cardParam d) 20 ∧ ReadoutOk s.tacho ∧
        (s.slot 20).state = .never) ∧
      ∀ d, ∀ v ∈ [(0 : Byte), 45],
        let s := landing (withParam (driving .estimating 44 0) (contParam d) 20) v
        Hits s (trailerRecord 0x200 [v]) [] byteRoute ∧ OnlyField s (contParam d) 20 ∧ 45 ≤ 1439 ∧
          (s.driver .one).state ≠ .noDriver ∧ (s.driver .two).state = .noDriver := by
  refine ⟨fun d => ?_, fun d => ?_⟩ <;> (cases d <;> (unfold Hits AtHead OnlyField; try unfold ReadoutOk) <;> decide)

/-- The mismatch timer on that side, with slot 3 as given. -/
def timing (side : MismatchSide) (k : SlotState) (v : Int) : State :=
  withSlot { running with tacho.side := side, tacho.mismatchTimer := some 5, tacho.watch := some 5 } 3 (slotOf k v)

theorem witness_SpeedWatches :
    (∀ q ∈ [(MismatchSide.none, SlotState.never, (0 : Int)), (.outside, .fresh, 1), (.inside, .fresh, 0),
        (.outside, .never, 0), (.outside, .fresh, 0), (.inside, .never, 0), (.inside, .fresh, 1)],
      (timing q.1 q.2.1 q.2.2).tacho.mismatchTimer = some 5 ∧ (timing q.1 q.2.1 q.2.2).tacho.side = q.1 ∧
        ((timing q.1 q.2.1 q.2.2).slot 3).state = q.2.1 ∧ ((timing q.1 q.2.1 q.2.2).slot 3).value = q.2.2) ∧
      (timing .none .never 0).tacho.watch = some 5 ∧ (timing .none .never 0).table.silentMark = false ∧
      (let s := landing (withParam running 10 20) 45
       Hits s (trailerRecord 0x200 [45]) [] byteRoute ∧ OnlyField s 10 20) ∧
      (let s := { running with dist.zeroTimer := some 5 }
       s.dist.zeroTimer = some 5 ∧ s.table.silentMark = false ∧ ∀ id ∈ [10, 13, 14, 15, 16], s.param id ≠ 0) := by
  unfold Hits AtHead OnlyField; decide

/-- The clause of the alert block at the silence watch's expiry. -/
theorem witness_SpeedWatches_alert : OnlyThePulse (timing .none .never 0) := by unfold OnlyThePulse; decide

/-- A frame of the tachograph on TACHO_XFER_ID, and a transfer of driver 1. -/
def xfer (data : List Byte) : FrameRecord := { port := .tractor, identifier := running.tachoXferId, data := data }
def transferring (t : Transfer) : State :=
  { running with tacho.transfer := t, tacho.transferTimer := some 5, tacho.readout := [⟨.two, 1⟩] }

/-- A summary of the smallest length, 25: card number, 2026-01-31, no driving times, no name. -/
def smallest : List Byte :=
  [1] ++ List.replicate 16 0x41 ++ [0xEA, 0x07, 1, 31, 0, 0, 0, 0]

/-- The receptions: with one DATA short of `smallest`, with all of it, and with a payload that does not parse. -/
def receiving (count : Nat) (payload : List Byte) : Transfer := .receiving .one 1 25 5 count payload

theorem witness_TransferFrames :
    (∀ f ∈ [[0x11, 25], [0x11, 49], [0x11, 24], [0x11, 50], [0x12, 25], [0x21, 0, 1, 2, 3, 4, 5, 6], [0x31, 0, 0], [0x41]],
        AtHead (heads (transferring (.requested .one 1)) (xfer f)) (xfer f) [] ∧
          (heads (transferring (.requested .one 1)) (xfer f)).isXfer (xfer f) = true) ∧
      (ReadoutOk (transferring (.requested .one 1)).tacho ∧ ReadoutOk (transferring (receiving 4 [])).tacho) ∧
      readXfer (xfer [0x11, 25]) = some (.opening .one 25) ∧ readXfer (xfer [0x11, 24]) = some (.opening .one 24) ∧
      readXfer (xfer [0x11, 50]) = some (.opening .one 50) ∧ readXfer (xfer [0x12, 25]) = some (.opening .two 25) ∧
      readXfer (xfer [0x21, 4, 1, 2, 3, 4, 5, 6]) = some (.data .one 4 [1, 2, 3, 4, 5, 6]) ∧
      readXfer (xfer [0x31, 0x29, 0xB1]) = some (.closing .one 0x29B1) ∧ readXfer (xfer [0x41]) = some (.aborting .one) ∧
      (transferring (receiving 4 [])).tacho.transfer = .receiving .one 1 25 5 4 [] ∧
      (transferring (receiving 5 smallest)).tacho.transferTimer = some 5 := by
  unfold AtHead ReadoutOk; decide

/-- A CLOSE of a whole payload: with another CRC, of one that does not parse, and of one that does. -/
theorem witness_TransferFrames_close :
    crc16 smallest ≠ 0 ∧ parseSummary 25 [1] = none ∧ readXfer (xfer [0x31, 0xFF, 0xFF]) = some (.closing .one (crc16 [])) ∧
      parseSummary 25 [] = none ∧
      readXfer (xfer [0x31, (crc16 smallest).extractLsb' 8 8, (crc16 smallest).extractLsb' 0 8]) =
        some (.closing .one (crc16 smallest)) ∧
      parseSummary 25 smallest =
        some { card := List.replicate 16 0x41, year := 2026, month := 1, day := 31, contDrive := 0, daily := none,
               weekly := none, name := [] } := by decide

/-- The layout of the smallest payload (R195). -/
theorem witness_TransferFrames_payload :
    smallest.length = 25 ∧
      SummaryLayout 25 smallest
        { card := List.replicate 16 0x41, year := 2026, month := 1, day := 31, contDrive := 0, daily := none, weekly := none,
          name := [] } := by
  refine ⟨by decide, 0, by decide, by decide, by decide, by decide, by decide, by decide, by decide, by decide, by decide,
    by decide, by decide, by decide, by decide, fun _ h => absurd h (by simp), fun _ h => absurd h (by simp)⟩

/-- A failed transfer: the second attempt's, and the first attempt's of a driver who is present and of one who is not. -/
theorem witness_TransferFrames_fails :
    (∀ k ∈ [1, 2], (transferring (.requested .one k)).tacho.transfer = .requested .one k) ∧
      ((transferring (.requested .one 1)).driver .one).state = .noDriver ∧
      ((driving .estimating 0 0).driver .one).state ≠ .noDriver ∧ (transferring (.requested .one 1)).ign.power = .run := by
  decide

theorem witness_TachoRequests :
    (∀ q ∈ [[9, 0], [9, 1], [9, 2], [9, 3]], Asked 0x40 (ask running 0x40 q) (request 0x40 q) []) ∧
      (∀ q ∈ [[9, 0, 0], [9, 1, 0], [9, 1, 1], [9, 1, 2], [9, 1, 3], [9, 1, 4], [9, 2, 5], [9, 2, 6], [9, 2, 7, 3], [9, 2, 8, 4],
          [9, 2, 9], [9, 2, 7, 4], [9, 2, 8, 5]],
        Asked 0x41 (ask running 0x41 q) (request 0x41 q) []) ∧
      (request 0x40 [9, 2]).byte 2 = Driver.number .two ∧ (running.driver .two).state = .noDriver ∧
      (let s := driving .confirmed 0 0
       (s.driver .one).state ≠ .noDriver ∧ s.tacho.readout = [] ∧ s.tacho.transfer = .idle ∧ s.ign.power = .run) ∧
      (∃ e ∈ busy.tacho.readout, e.driver = .one) ∧ busy.tacho.transfer.driver = some .two ∧
      busy.tacho.transfer ≠ .idle := by
  unfold Asked AtHead; decide

/-- The display link as given: READY, its state, one timer of each kind due at 5 and the dirty set. -/
def linked (ready : Bool) (link : LinkState) (dirty : DirtySet) : State :=
  { running with
    pins.ready := ready, display.link := link, display.dirty := dirty, display.readyTimer := some 5,
    display.retryTimer := some 5, display.startTimer := some 5, display.doneTimer := some 5 }

theorem witness_DisplayLink :
    (linked false .waiting DirtySet.clean).display.link = .waiting ∧
      (linked false .idle DirtySet.clean).display.link ≠ .waiting ∧
      (∀ ready,
        (linked ready .fault DirtySet.clean).display.readyTimer = some 5 ∧
          (linked ready .fault DirtySet.clean).display.retryTimer = some 5 ∧
          (linked ready .sending DirtySet.clean).display.doneTimer = some 5) ∧
      ∀ q ∈ [(RecordKind.topAlert, 0), (.pageSelect, 0), (.driverPage1, 0), (.driverPage2, 1), (.distancePage, 2), (.alertList, 3)],
        ∀ ready,
          let s := { linked ready .sending (DirtySet.clean.mark q.1) with display.page := q.2, alert.stack := fullStack }
          s.display.startTimer = some 5 ∧ s.display.due = some q.1 ∧ s.pins.ready = ready ∧ s.alert.stack.length ≤ 16 := by
  decide

/-- The PAGE button as given, in RUN, 50 ms after a press at 0. -/
def paging (pressed armed : Bool) (press : Option Nat) (release : Timer) : State :=
  { running with
    clock := 50000, pins.page := pressed, display.pageArmed := armed, display.pagePress := press,
    display.pageRelease := release, display.page := 1 }

theorem witness_DisplayInputs :
    (∀ q ∈ [[9, 0], [9, 1], [9, 2]], Asked 0x48 (ask running 0x48 q) (request 0x48 q) []) ∧
      (State.reset.pins.page ≠ true ∧ State.reset.ign.power = .sleep) ∧
      ((paging false true none none).pins.page ≠ true ∧ (paging false true none none).display.pagePress = none ∧
        (paging false true none none).display.pageArmed = true) ∧
      ((paging false false none (some 50000)).display.pageRelease = some 50000 ∧
        50000 ≤ (paging false false none (some 50000)).clock) ∧
      ((paging false false none (some 50001)).display.pageArmed = false ∧
        (paging false false none (some 50001)).clock < 50001) ∧
      (∀ began ∈ [0, 1], (paging true true (some began) none).display.pagePress = some began ∧
        (paging true true (some began) none).pins.page ≠ false) ∧
      (∀ armed, (paging true armed none none).display.pagePress = none) ∧
      ((paging false true (some 0) (some 999999)).display.pagePress = some 0 ∧
        (paging false true (some 0) (some 999999)).display.pageRelease = some 999999 ∧ 999999 < 0 + 1000000) ∧
      ((paging true true (some 0) none).display.pagePress = some 0 ∧
        (paging true true (some 0) none).display.pageRelease = none ∧
        (paging true true (some 0) none).display.page + 1 = Driver.number .two) := by
  unfold Asked AtHead; decide

/-! ### Orders and edges that a first reading can miss -/

/-- A rule on slot 13 with that code, true on the value 0 alone. -/
def onTop (code : Nat) : Rule :=
  { coolant with
    a := some { lamp := 3, slot := 13, test := .equal, pattern := .steady, priority := 5 }, b := some 0,
    c := some { hysteresis := 0, staleAction := .toFalse, errorAction := false, confirmTime := 0 },
    d := some { alert := some (code, .stop) } }

/-- Both rules take slot 13's first write before either push reaches the alert block (R31, R78): both pushes arrive. -/
theorem test_slot13_order :
    let s := { inPower .waking with telltale.rules := (running.telltale.rules.put 0 (onTop 1)).put 1 (onTop 2) }
    ((s.writePlain 13 (.fresh 0)).alert.stack.map (·.code), ((s.writePlain 13 (.fresh 0)).slot 13).value) = ([2, 1], 3) := by
  decide

/-- An owed release that stands brings its rule back ACTIVE without a push, whatever the others push before it (R88). -/
theorem test_return_order :
    let s := withSlot
      { inPower .parking with
        telltale.rules := (running.telltale.rules.put 0 (alarm .inactive)).put 1
          { onTop 2 with b := some 7, releaseOwed := true,
                         a := some { lamp := 3, slot := 13, test := .notEqual, pattern := .steady, priority := 5 } } }
      20 (slotOf .fresh 1051)
    let t := (s.writeRecord 13 (.fresh 0)).returnToRun
    (t.alert.stack.map (·.code), (t.rule 1).live, (t.rule 1).releaseOwed) = ([0xEFFF], .active, false) := by decide

/-- An abandonment that falls together with the timer's expiry (R143, log 34). Behind it: no STOP, and TIMEOUT stands. Before it: STOP and
STOPPED, and the timer does not expire. At a later moment the retry is in flight: STOP and STOPPED. -/
theorem test_abandon_at_expiry :
    let s := { running with tacho.d1 := { running.tacho.d1 with state := .estimating }, tacho.transfer := .requested .one 1,
                            tacho.transferTimer := some 5 }
    let gone := fun t : State => (t.tacho.transfer, t.tacho.transferTimer, t.tacho.d1.outcome, t.intake.transmit.length)
    gone (s.reach 5).transferTimeout.abandonAny = (.idle, none, .timeout, 1) ∧
      gone (s.reach 5).abandonAny = (.idle, none, .stopped, 1) ∧
      gone ((s.reach 5).transferTimeout.reach 6).abandonAny = (.idle, none, .stopped, 2) := by decide

/-- The other driver's transfer that starts behind an expiry is in flight: the withdrawal of its card at that moment, and PARKING entry,
send STOP and record STOPPED (R133, R143, log 34); the driver who timed out keeps TIMEOUT. -/
theorem test_other_driver_at_expiry :
    let s := { running with tacho.d1 := { running.tacho.d1 with state := .estimating },
                            tacho.d2 := { running.tacho.d2 with state := .estimating }, tacho.readout := [⟨.two, 1⟩],
                            tacho.transfer := .requested .one 1, tacho.transferTimer := some 5 }
    let t := (s.reach 5).transferTimeout
    let sent := fun u : State => (u.intake.transmit.map (·.data), u.tacho.d1.outcome, u.tacho.d2.outcome)
    (t.tacho.transfer, t.tacho.restarted) = (.requested .two 1, none) ∧
      sent (t.withdrawCard .two) = ([[0x82], [0x92], [0x81]], .timeout, .stopped) ∧
      sent t.abandonAny = ([[0x82], [0x92]], .timeout, .stopped) := by decide

/-- PARKING entry of a moving needle: the target is 0 at once, and a commit before the next step leaves it 0 (R44, R58, R59). -/
theorem test_parking_target :
    let c := (moving .tracking .up 3 100 110).park 0
    (c.state, c.target, c.pending) = (.parking, 0, some 0) ∧
      ((c.afterCommit running.table.slots 0).target, (c.afterCommit running.table.slots 0).pending) = (0, some 0) := by decide

/-- WAKING entry with a bad configuration store: the alert of R183 alone. -/
theorem test_bad_load :
    (match exec .ignTimerExpiry { State.reset with ign.timer := some 100000, pins.ign := true, store.config := .bad } with
     | .next t => decide (t.alert.stack.map (fun e => (e.code, e.severity, e.held)) = [(0xF001, .stop, true)] ∧
         (t.slot 13).value = 3)
     | _ => false) = true := by decide

/-- A coil with duty 0 gives no OPEN report (R64), and a fault clears the rest mark (R50). -/
theorem test_coil_reports :
    let s := withNeedle running { moving .tracking .up 3 100 110 with driveIndex := 24, restMark := true }
    exec (.coilFaultReport 7 .openA) s = .next s ∧
      (match exec (.coilFaultReport 7 .openB) s with
       | .next t => decide ((t.channel 7).state = .fault ∧ (t.channel 7).restMark = false)
       | _ => false) = true := ⟨by rfl, by decide⟩

end Sys2Proof.Tests
end

section
/-! SUPPORT. What a step can do to the power state, the ports' switches and the intake block (chapter 1, R186 to R192): the operations
that leave them as they are, and an induction over the steps for what is said of them. -/

namespace Sys2Proof.Machine

/-! ### Operations that leave the route table and the power state as they are -/

/-- `t` has the power state, HOLD, the ports' switches, the ACTIVE entries and the build slot of `s`; its intake queue has not grown, and
its transmit queue has room where that of `s` has. -/
structure Quiet (s t : State) : Prop where
  power : t.ign.power = s.ign.power
  hold : t.ign.hold = s.ign.hold
  onT : t.portT.on = s.portT.on
  onL : t.portL.on = s.portL.on
  routes : t.intake.routes = s.intake.routes
  build : t.intake.build = s.intake.build
  queue : t.intake.queue.length ≤ s.intake.queue.length
  room : s.intake.transmit.length ≤ transmitRoom → t.intake.transmit.length ≤ transmitRoom

theorem Quiet.trans {s t u : State} (h : Quiet s t) (k : Quiet t u) : Quiet s u where
  power := k.power.trans h.power
  hold := k.hold.trans h.hold
  onT := k.onT.trans h.onT
  onL := k.onL.trans h.onL
  routes := k.routes.trans h.routes
  build := k.build.trans h.build
  queue := k.queue.trans h.queue
  room hs := k.room (h.room hs)

/-- The fields that a change of other blocks leaves. -/
def State.guarded (s : State) : Intake × PowerState × Bool × Bool × Bool :=
  (s.intake, s.ign.power, s.ign.hold, s.portT.on, s.portL.on)

theorem Quiet.of_fields {s t : State} (hi : t.intake = s.intake) (hp : t.ign.power = s.ign.power)
    (hh : t.ign.hold = s.ign.hold) (hT : t.portT.on = s.portT.on) (hL : t.portL.on = s.portL.on) : Quiet s t :=
  ⟨hp, hh, hT, hL, by rw [hi], by rw [hi], by rw [hi], by rw [hi]; exact id⟩

/-- A change of other blocks alone. -/
theorem Quiet.of_eq {s t : State} (h : t.guarded = s.guarded) : Quiet s t := by
  simp only [State.guarded, Prod.mk.injEq] at h
  obtain ⟨hi, hp, hh, hT, hL⟩ := h
  exact .of_fields hi hp hh hT hL

theorem Quiet.after {s t u : State} (h : Quiet t u) (ht : t.guarded = s.guarded) : Quiet s u := (Quiet.of_eq ht).trans h

theorem Quiet.refl (s : State) : Quiet s s := Quiet.of_eq rfl

theorem Ripple.quiet {ch ev : Nat → Prop} {s t : State} (h : Ripple ch s t ev) : Quiet s t where
  power := by rw [h.ign]
  hold := by rw [h.ign]
  onT := by have e := congrArg PortBlock.on h.portT; exact e
  onL := by rw [h.portL]
  routes := h.routes
  build := h.build
  queue := by rw [h.queue]
  room := h.room

theorem Travel.quiet {ch : Nat → Prop} {s t : State} (h : Travel ch s t) : Quiet s t :=
  (Quiet.of_eq rfl : Quiet s (s.travelAs t)).trans (Ripple.quiet h)

/-- The record at the head has left the intake queue. -/
theorem quiet_dequeue {s : State} {r : FrameRecord} {rest : List FrameRecord} (h : s.intake.queue = r :: rest) :
    Quiet s { s with intake.queue := rest } :=
  ⟨rfl, rfl, rfl, rfl, rfl, rfl, by rw [h]; exact Nat.le_succ _, id⟩

theorem quiet_offer (s : State) (f : TxFrame) : Quiet s (s.offer f) := (ripple_offer (fun _ => True) s f).quiet

theorem quiet_raise (s : State) (f : EventFlag) : Quiet s (s.raise f) := (ripple_raise (fun _ => True) s f).quiet

theorem quiet_send (s : State) (l : List AlertAction) : Quiet s (s.send l) :=
  (ripple_send (fun _ => True) s l trivial).quiet

theorem quiet_push (s : State) (code : Nat) (v : Severity) (o : Origin) : Quiet s (s.push code v o) := quiet_send s _

theorem quiet_release (s : State) (code : Nat) (o : Origin) : Quiet s (s.release code o) := quiet_send s _

theorem quiet_settleLamps (s : State) : Quiet s s.settleLamps := (ripple_settleLamps (fun _ => True) s).quiet

theorem quiet_writePlain (s : State) (n : Nat) (w : SlotWrite) : Quiet s (s.writePlain n w) :=
  (ripple_writePlain (fun _ => True) s n w trivial trivial).quiet

theorem quiet_markDirty (s : State) (k : List RecordKind) : Quiet s (s.markDirty k) :=
  (ripple_markDirty (fun _ => True) s k).quiet

theorem quiet_acknowledge (s : State) : Quiet s s.acknowledge := (ripple_acknowledge (fun _ => True) s trivial).quiet

theorem quiet_minuteEvent (s : State) (d : Driver) : Quiet s (s.minuteEvent d) :=
  (ripple_minuteEvent (fun _ => True) (fun _ _ => trivial) s d).quiet

theorem quiet_tryStart (s : State) : Quiet s s.tryStart :=
  (ripple_tryStart (fun _ => True) (fun _ _ => trivial) s).quiet

theorem quiet_changeSlot (s : State) (n : Nat) (c : Cause) (r : SlotRecord) : Quiet s (s.changeSlot n c r) :=
  (ripple_changeSlot (fun _ => True) (fun _ _ => trivial) s n c r trivial).quiet

theorem quiet_evalRule (s : State) (i : Nat) : Quiet s (s.evalRule i).1 :=
  (ripple_evalRule (fun _ => True) s i (fun _ => True) (fun _ _ => trivial) (fun _ _ => trivial)).quiet

theorem quiet_requestCal (s : State) : Quiet s s.requestCal := (requestCal_travel (fun _ => True) s).2.2.quiet

theorem quiet_reportFault (s : State) (c : Nat) : Quiet s (s.reportFault c) :=
  ((quiet_writePlain _ _ _).trans (quiet_raise _ _)).trans (quiet_push _ _ _ _)

theorem quiet_reportValid (s : State) : Quiet s s.reportValid := by
  unfold State.reportValid
  split
  · exact Quiet.refl s
  · have hr : Quiet s { s with store.report := true } := Quiet.of_eq rfl
    exact (hr.trans (quiet_release _ _ _)).trans (quiet_settleLamps _)

/-- A port changed but for its switch. -/
theorem quiet_setPort (s : State) (p : Port) (b : PortBlock) (h : b.on = (s.port p).on) : Quiet s (s.setPort p b) := by
  cases p
  · exact Quiet.of_fields rfl rfl rfl h rfl
  · exact Quiet.of_fields rfl rfl rfl rfl h

theorem quiet_calWritten (s : State) : Quiet s s.calWritten := by
  unfold State.calWritten
  split <;> exact Quiet.of_eq rfl

theorem quiet_moveAll (s : State) (f : Channel → Channel) : Quiet s (s.moveAll f) := by
  obtain ⟨reports, h⟩ := moveAll_only s f
  rw [h]
  exact Quiet.of_eq rfl

theorem quiet_resumeRules (s : State) : Quiet s s.resumeRules := by
  obtain ⟨rules, h⟩ := resumeFold_rules (List.range 64) (s, [])
  refine Quiet.trans (t := ((List.range 64).foldl resumeRule (s, [])).1) ?_ (quiet_send _ _)
  rw [h]
  exact Quiet.of_eq rfl

theorem quiet_compareIgn (s : State) : Quiet s s.compareIgn := Quiet.of_eq rfl

/-! ### The changes of power state, each as a change of what is said here and a quiet rest -/

theorem runEntry_quiet (s : State) : Quiet { s with ign.power := .run } s.runEntry :=
  (ripple_runEntry (fun _ => True) s trivial trivial).quiet.after rfl

/-- The state as SLEEP entry leaves its power state, its ports and its intake block (R6, R10, R17, R190). -/
def State.asleep (s : State) : State :=
  { s with
    ign.power := .sleep, ign.hold := false, portT := s.portT.turnOff, portL := s.portL.turnOff,
    intake := { s.intake with queue := [], transmit := [], build := none } }

theorem sleepEntry_quiet (s : State) : Quiet s.asleep s.sleepEntry := by
  obtain ⟨hp, hh, -, -, -, -, hT, hL, hq, ht, hb, hr, -⟩ := sleepEntry_spec s
  exact ⟨hp, hh, hT, hL, hr, hb, by rw [hq]; exact Nat.zero_le _, fun _ => by rw [ht]; exact Nat.zero_le _⟩

theorem parkingEntry_quiet (s : State) : Quiet { s with ign.power := .parking, ign.hold := true } s.parkingEntry := by
  obtain ⟨p, q, he, R, -, hp, hh, -, -, -, -, -, -, -, -, hT, hL, hi, -⟩ := parkingEntry_spec s
  rw [he]
  have hs : Quiet { s with ign.power := .parking, ign.hold := true } p := Quiet.of_fields hi hp hh (by rw [hT]) (by rw [hL])
  exact (hs.trans R.quiet).trans (quiet_compareIgn q)

theorem returnToRun_quiet (s : State) : Quiet { s with ign.power := .run, ign.hold := false } s.returnToRun := by
  refine Quiet.trans ?_ ((((quiet_resumeRules _).trans (quiet_settleLamps _)).trans
    ((quiet_tryStart _).trans (quiet_markDirty _ _))).trans (quiet_compareIgn _))
  exact (quiet_moveAll _ _).after rfl

/-- The entries that a load installs (R183). -/
def loadedRoutes (routes : List Route) : List RouteEntry := routes.map (fun r => { route := r, hits := 0, rejects := 0 })

/-- A load installs the entries of an image that passes (R183). -/
theorem loadConfig_routes (s : State) :
    ∃ image : ConfigImage, image.passes = true ∧ s.loadConfig.intake.routes = loadedRoutes image.routes := by
  unfold State.loadConfig
  split
  · next image h =>
    refine ⟨image, ?_, rfl⟩
    unfold goodConfig at h
    split at h
    · cases h
    · cases h
    · split at h
      · cases h; assumption
      · cases h
  · exact ⟨ConfigImage.empty, by decide, rfl⟩

/-- The state as WAKING entry leaves its power state, its ports and its intake block, where a load gives the entries of `routes` (R6, R10, R188). -/
def State.woken (s : State) (routes : List Route) : State :=
  { s with
    ign.power := .waking, portT.on := true, portL.on := true,
    intake := { queue := [], transmit := [], routes := loadedRoutes routes, build := none } }

theorem skipProveOut_quiet (s : State) (h : s.ign.reports = Bank.fill 8 .none) : Quiet s s.skipProveOut := by
  rcases skipProveOut_unreported s h with e | e <;> rw [e]
  · exact Quiet.refl s
  · exact (quiet_settleLamps _).after rfl

theorem wakingEntry_quiet (s : State) :
    ∃ image : ConfigImage, image.passes = true ∧ Quiet (s.woken image.routes) s.wakingEntry := by
  obtain ⟨b, u, hb, R, he⟩ := wakingEntry_form s
  obtain ⟨b', hb', hp, hh, -, hr, -, -, -, -, -, -, hq, hn, -, -, -, hT, hL, -⟩ := wakePrelude s
  obtain rfl : b = b' := hb.trans hb'.symm
  obtain ⟨image, hi, hroutes⟩ := loadConfig_routes ({ s with ign := s.ign.wake } : State).settleWrite.wakeManagement
  refine ⟨image, hi, ?_⟩
  have hw : Quiet (s.woken image.routes) b :=
    ⟨hp, hh, hT, hL, by rw [hb]; exact hroutes, hn, by rw [hq]; exact Nat.zero_le _,
      fun _ => by rw [hb]; exact Nat.zero_le _⟩
  have hu : u.ign.reports = Bank.fill 8 .none := by rw [R.ign, hr]
  rw [he]
  exact (((hw.trans R.quiet).trans (skipProveOut_quiet u hu)).trans (quiet_settleLamps _)).trans (quiet_compareIgn _)

end Sys2Proof.Machine
end

section
/-! SUPPORT. An induction over the steps: what the quiet operations, the changes of power state and the intake block's own operations keep,
every step keeps. -/

namespace Sys2Proof.Machine

/-- The build `b'` is the build `b` of the build slot with one part stored that its request has judged (R19, R20). -/
inductive PartStored (s : State) (b : Build) : Build → Prop where
  | a (i : Nat) (p : ExtractorA) (hi : i < b.parts.length) (hp : p.passes b.length = true)
      (hs : p.slot ∉ s.routedSlots ++ b.otherSlots i) :
      PartStored s b (b.setParts i { b.partsAt i with a := some p })
  | b (i : Nat) (p : ExtractorB) (hi : i < b.parts.length) (hp : p.passes = true) :
      PartStored s b (b.setParts i { b.partsAt i with b := some p })
  | c (i : Nat) (r : FrameRecord) (j : Nat) (hi : i < b.parts.length) :
      PartStored s b (b.setParts i { b.partsAt i with c := some (r.signedLong j) })

/-- A build can be opened for that request (R18). -/
def Openable (s : State) (r : FrameRecord) : Prop :=
  timeoutPasses (openedBuild r).timeout = true ∧ findRoute s.intake.routes (openedBuild r).key = none ∧
    s.intake.routes.length < routeRoom

/-- The state with the build slot replaced. -/
def State.withBuild (s : State) (b : Option Build) : State := { s with intake.build := b }

/-- The state with the ACTIVE entries replaced. -/
def State.withRoutes (s : State) (routes : List RouteEntry) : State := { s with intake.routes := routes }

/-- `P` holds at reset and is kept by the quiet operations, by the changes of power state (R186 to R192) and by the operations of the
intake block (R7, R15, R18 to R22). -/
structure Kept (P : State → Prop) : Prop where
  reset : P State.reset
  quiet : ∀ {s t}, Quiet s t → P s → P t
  running : ∀ {s}, s.ign.power = .waking → P s → P { s with ign.power := .run }
  asleep : ∀ {s}, P s → P s.asleep
  parking : ∀ {s}, s.ign.power = .waking ∨ s.ign.power = .run → P s →
    P { s with ign.power := .parking, ign.hold := true }
  returned : ∀ {s}, s.ign.power = .parking → P s → P { s with ign.power := .run, ign.hold := false }
  woken : ∀ {s} {image : ConfigImage}, image.passes = true → s.ign.power = .sleep → P s → P (s.woken image.routes)
  queued : ∀ {s} (r : FrameRecord), s.intake.queue.length < intakeRoom → P s →
    P { s with intake.queue := s.intake.queue ++ [r] }
  counted : ∀ {s} (k : RouteKey) (hit : Bool), P s → P (s.withRoutes (countRoute s.intake.routes k hit))
  opened : ∀ {s r}, Openable s r → P s → P (s.withBuild (some (openedBuild r)))
  stored : ∀ {s b b'}, s.intake.build = some b → PartStored s b b' → P s → P (s.withBuild (some b'))
  installed : ∀ {s b r}, s.intake.build = some b → b.route = some r → P s → P (s.install r)
  discarded : ∀ {s}, P s → P (s.withBuild none)
  removed : ∀ {s} (k : RouteKey), P s →
    P (s.withRoutes (s.intake.routes.filter (fun f => decide (f.route.key ≠ k))))

/-! ### What a classifier path, a request and an expiry can do -/

theorem takeHead_cases {path : State → FrameRecord → Bool} {f : FrameRecord → State → State} {s t : State}
    (h : takeHead path f s = .next t) :
    t = s ∨ ∃ r rest, s.intake.queue = r :: rest ∧ path s r = true ∧ t = f r { s with intake.queue := rest } := by
  unfold takeHead at h
  split at h
  · cases h; exact .inl rfl
  · next r rest hq =>
    split at h
    · next hp =>
      rw [Bool.and_eq_true] at hp
      cases h
      exact .inr ⟨r, rest, hq, hp.2, rfl⟩
    · cases h; exact .inl rfl

theorem onExpiry_cases {timer : Timer} {f : State → State} {s t : State} (h : onExpiry timer f s = .next t) :
    t = s ∨ ∃ due, timer = some due ∧ t = f (s.reach due) := by
  unfold onExpiry at h
  split at h
  · cases h; exact .inl rfl
  · next due => cases h; exact .inr ⟨due, rfl, rfl⟩

/-- The effect of a verdict keeps `P` on every state that is a quiet way from `u`, where the request was judged. -/
def Verdict.Keeps (P : State → Prop) (u : State) (v : Verdict) : Prop := ∀ t, Quiet u t → P t → P (v.effect t)

theorem keeps_refuse (P : State → Prop) (u : State) (c : ResultCode) : (refuse c).Keeps P u := fun _ _ h => h

theorem keeps_unlessSaving {P : State → Prop} {v : Verdict} {u : State} (h : v.Keeps P u) :
    (unlessSaving u v).Keeps P u := by
  unfold unlessSaving
  split
  · exact keeps_refuse P u _
  · exact h

theorem keeps_ite {P : State → Prop} {u : State} {v w : Verdict} {c : Prop} [Decidable c] (hv : c → v.Keeps P u)
    (hw : ¬ c → w.Keeps P u) : (if c then v else w).Keeps P u := by
  split
  · next h => exact hv h
  · next h => exact hw h

/-- A check that refuses, before the rest. -/
theorem keeps_check {P : State → Prop} {u : State} {r : ResultCode} {w : Verdict} {c : Prop} [Decidable c]
    (hw : ¬ c → w.Keeps P u) : (if c then refuse r else w).Keeps P u := keeps_ite (fun _ => keeps_refuse P u r) hw

namespace Kept

variable {P : State → Prop} (h : Kept P)
include h

theorem same {s t : State} (hs : P s) (e : t.guarded = s.guarded) : P t := h.quiet (.of_eq e) hs

theorem ripple {ch ev : Nat → Prop} {s t : State} (R : Ripple ch s t ev) (hs : P s) : P t := h.quiet R.quiet hs

theorem path {path : State → FrameRecord → Bool} {f : FrameRecord → State → State} {s t : State}
    (ht : takeHead path f s = .next t) (hf : ∀ r u, P u → P (f r u)) (hs : P s) : P t := by
  rcases takeHead_cases ht with rfl | ⟨r, rest, hq, -, rfl⟩
  · exact hs
  · exact hf r _ (h.quiet (quiet_dequeue hq) hs)

theorem expiry {timer : Timer} {f : State → State} {s t : State} (ht : onExpiry timer f s = .next t)
    (hf : ∀ u, P u → P (f u)) (hs : P s) : P t := by
  rcases onExpiry_cases ht with rfl | ⟨due, -, rfl⟩
  · exact hs
  · exact hf _ (h.same hs rfl)

theorem request {code : Nat} {judge : FrameRecord → State → Verdict} {s t : State} (ht : onRequest code judge s = .next t)
    (hj : ∀ r u, (judge r u).Keeps P u) (hs : P s) : P t :=
  h.path ht (fun r u hu => hj r u _ (quiet_offer u _) (h.quiet (quiet_offer u _) hu)) hs

/-! ### The conditions and the changes of power state -/

theorem runEntry {s : State} (hp : s.ign.power = .waking) (hs : P s) : P s.runEntry :=
  h.quiet (runEntry_quiet s) (h.running hp hs)

theorem sleepEntry {s : State} (hs : P s) : P s.sleepEntry := h.quiet (sleepEntry_quiet s) (h.asleep hs)

theorem parkingEntry {s : State} (hp : s.ign.power = .waking ∨ s.ign.power = .run) (hs : P s) : P s.parkingEntry :=
  h.quiet (parkingEntry_quiet s) (h.parking hp hs)

theorem returnToRun {s : State} (hp : s.ign.power = .parking) (hs : P s) : P s.returnToRun :=
  h.quiet (returnToRun_quiet s) (h.returned hp hs)

theorem wakingEntry {s : State} (hp : s.ign.power = .sleep) (hs : P s) : P s.wakingEntry := by
  obtain ⟨image, hi, q⟩ := wakingEntry_quiet s
  exact h.quiet q (h.woken hi hp hs)

theorem judgeRun {s : State} (hs : P s) : P s.judgeRun := by
  unfold State.judgeRun
  split
  · next hr => exact h.runEntry ((mayRun_iff s).mp hr).1 hs
  · exact hs

theorem judgeSleep {s : State} (hs : P s) : P s.judgeSleep := by
  unfold State.judgeSleep
  split
  · exact h.sleepEntry hs
  · exact hs

theorem moveChannel {s : State} (c : Nat) (ch : Channel) (hs : P s) : P (s.moveChannel c ch) := by
  obtain ⟨reports, hn⟩ := noteChannel_only (s.putChannel c ch) s.gauges c
  unfold State.moveChannel
  simp only [hn]
  split
  · exact h.same hs rfl
  · exact h.judgeSleep (h.judgeRun (h.same hs rfl))

theorem poweredOn (s : State) : P s.poweredOn := h.quiet (s := State.reset) (.of_eq rfl) h.reset

theorem start (s : State) : P s.start := by
  unfold State.start State.sampleIgn
  split
  · exact h.wakingEntry rfl (h.same (h.poweredOn s) rfl)
  · exact h.poweredOn s

theorem loseSupply (s : State) : P s.loseSupply := h.quiet (s := s.poweredOn) (.of_eq rfl) (h.poweredOn s)

theorem takeIgnLevel {s : State} (hs : P s) : P s.takeIgnLevel := by
  have ht : P { s with ign.level := s.pins.ign, ign.timer := none } := h.same hs rfl
  unfold State.takeIgnLevel
  simp only []
  split
  · next hp _ => exact h.wakingEntry hp ht
  · next hp _ => exact h.parkingEntry (.inl hp) ht
  · next hp _ => exact h.parkingEntry (.inr hp) ht
  · next hp _ => exact h.returnToRun hp ht
  · exact ht

theorem proveOutEnded {s : State} (hs : P s) : P s.proveOutEnded :=
  h.judgeRun (h.quiet (quiet_settleLamps _) (h.same hs rfl))

theorem failChannel {s : State} (c : Nat) (cause : CoilFault) (hs : P s) : P (s.failChannel c cause) := by
  unfold State.failChannel
  have hf : P (s.putChannel c ((s.channel c).fail cause)) := h.same hs rfl
  have hr := h.quiet (quiet_reportFault _ c) hf
  exact h.judgeSleep (h.judgeRun (h.same hr rfl))

theorem saveRead {s : State} (image : ConfigImage) (equal : Bool) (hs : P s) : P (s.saveRead image equal) := by
  unfold State.saveRead
  simp only []
  split
  · exact h.quiet (quiet_reportValid _) (h.quiet (quiet_raise _ _) (h.same hs rfl))
  · exact h.quiet (quiet_raise _ _) (h.same hs rfl)

end Kept

end Sys2Proof.Machine
end

section
/-! SUPPORT. Every command of the part either is quiet or comes to operations that `Kept` names; so each step keeps what they keep. -/

namespace Sys2Proof.Machine

/-! ### Reads -/

/-- The verdict has no effect but that a free value may be used (log 14). -/
def Verdict.Reads (v : Verdict) : Prop := v.effect = id ∨ v.effect = State.useFree

theorem reads_readCounters (r : FrameRecord) (s : State) : (judgeReadCounters r s).Reads := by
  unfold judgeReadCounters; split <;> exact .inl rfl

theorem reads_getParam (r : FrameRecord) (s : State) : (judgeGetParam r s).Reads := by
  unfold judgeGetParam; repeat' split
  all_goals exact .inl rfl

theorem reads_routeRead (r : FrameRecord) (s : State) : (judgeRouteRead r s).Reads := by
  unfold judgeRouteRead; repeat' split
  all_goals exact .inl rfl

theorem reads_readSlot (r : FrameRecord) (s : State) : (judgeReadSlot r s).Reads := by
  unfold judgeReadSlot; simp only []; repeat' split
  all_goals exact .inl rfl

theorem reads_gaugeRead (r : FrameRecord) (s : State) : (judgeGaugeRead r s).Reads := by
  unfold judgeGaugeRead; simp only []; repeat' split
  all_goals first | exact .inl rfl | exact .inr rfl

theorem reads_partData {α : Type} (part : Option α) (data : α → List Byte) : (partData part data).Reads := by
  unfold partData; split <;> exact .inl rfl

theorem reads_ruleRead (r : FrameRecord) (s : State) : (judgeRuleRead r s).Reads := by
  unfold judgeRuleRead; simp only []; repeat' split
  all_goals first | exact reads_partData _ _ | exact .inl rfl

theorem reads_lampRead (r : FrameRecord) (s : State) : (judgeLampRead r s).Reads := by
  unfold judgeLampRead; repeat' split
  all_goals exact .inl rfl

theorem reads_alertRead (r : FrameRecord) (s : State) : (judgeAlertRead r s).Reads := by
  unfold judgeAlertRead; repeat' split
  all_goals exact .inl rfl

theorem reads_readCalHistory (r : FrameRecord) (s : State) : (judgeReadCalHistory r s).Reads := by
  unfold judgeReadCalHistory; repeat' split
  all_goals exact .inl rfl

theorem reads_distanceRead (r : FrameRecord) (s : State) : (judgeDistanceRead r s).Reads := by
  unfold judgeDistanceRead; repeat' split
  all_goals exact .inl rfl

theorem reads_tachoRead (r : FrameRecord) (s : State) : (judgeTachoRead r s).Reads := by
  unfold judgeTachoRead; simp only []; repeat' split
  all_goals first | exact .inl rfl | exact .inr rfl

theorem reads_displayRead (r : FrameRecord) (s : State) : (judgeDisplayRead r s).Reads := by
  unfold judgeDisplayRead; repeat' split
  all_goals exact .inl rfl

/-! ### Quiet commands of the blocks -/

theorem quiet_hearFrame (s : State) (p : Port) : Quiet s (s.hearFrame p) :=
  (quiet_setPort s p (heard s p) rfl).trans (hear_ripple s p).quiet

theorem quiet_countTxError (s : State) (p : Port) : Quiet s (s.countTxError p) := by
  unfold State.countTxError
  simp only []
  split
  · refine Quiet.trans (quiet_setPort s p _ ?_) (quiet_raise _ _)
    rfl
  · exact quiet_setPort s p _ rfl

theorem quiet_fallSilent (s : State) (p : Port) : Quiet s (s.fallSilent p) := by
  have hw := (quiet_setPort s p { s.port p with silence := none, lost := true, awaiting := true } rfl).trans
    (quiet_writePlain _ (okSlot p) (.fresh 0))
  unfold State.fallSilent
  simp only []
  split
  · exact hw.trans (quiet_push _ _ _ _)
  · exact hw

/-- TX_FRAME_COMPLETE takes the head off the transmit queue. -/
theorem quiet_frameSent (s : State) : Quiet s s.frameSent :=
  ⟨rfl, rfl, rfl, rfl, rfl, rfl, Nat.le_refl _, fun hr => by
    show s.intake.transmit.tail.length ≤ _
    rw [List.length_tail]; omega⟩

theorem quiet_countSecond (s : State) : Quiet s s.countSecond := by
  unfold State.countSecond
  exact (quiet_writePlain _ _ _).after rfl

theorem quiet_checkLamp (s : State) (n : Nat) (current : Bool) : Quiet s (s.checkLamp n current) := by
  have hl : Quiet s (s.putLamp n { openMark := !current, checked := true }) := Quiet.of_eq rfl
  unfold State.checkLamp
  simp only []
  split
  · exact (hl.trans (quiet_raise _ _)).trans (quiet_push _ _ _ _)
  · exact hl.trans (quiet_release _ _ _)
  · exact hl
  · exact hl

theorem quiet_enableRule (s : State) (i : Nat) : Quiet s (s.enableRule i) := by
  have hr : Quiet s (s.putRule i (s.rule i).enabled) := Quiet.of_eq rfl
  exact ((hr.trans (quiet_evalRule _ i)).trans (quiet_send _ _)).trans (quiet_settleLamps _)

theorem quiet_clearRule (s : State) (i : Nat) : Quiet s (s.clearRule i) := by
  have hr : Quiet s (s.putRule i Rule.blank) := Quiet.of_eq rfl
  exact (hr.trans (quiet_send _ _)).trans (quiet_settleLamps _)

theorem quiet_confirmRule (s : State) (i : Nat) : Quiet s (s.confirmRule i) := by
  have hr : Quiet s (s.putRule i (s.rule i).activate) := Quiet.of_eq rfl
  exact (hr.trans (quiet_send _ _)).trans (quiet_settleLamps _)

theorem quiet_advancePhase (s : State) : Quiet s s.advancePhase := by
  unfold State.advancePhase
  exact (quiet_settleLamps _).after rfl

theorem quiet_ackRecognised (s : State) : Quiet s s.ackRecognised := by
  have ha : Quiet s { s with alert.ackHold := none, alert.ackArmed := false } := Quiet.of_eq rfl
  unfold State.ackRecognised
  simp only []
  split
  · exact ha.trans (quiet_acknowledge _)
  · exact ha

theorem quiet_ackLevel (s : State) (pressed : Bool) : Quiet s (s.ackLevel pressed) := by
  unfold State.ackLevel
  split <;> exact Quiet.of_eq rfl

theorem quiet_pageLevel (s : State) (pressed : Bool) : Quiet s (s.pageLevel pressed) := by
  unfold State.pageLevel
  split <;> exact Quiet.of_eq rfl

theorem quiet_setRaw (s : State) (p : Pin) (high : Bool) : Quiet s (s.setRaw p high) := by
  cases p <;> exact Quiet.of_eq rfl

theorem quiet_setStability (s : State) (p : Pin) (timer : Timer) : Quiet s (s.setStability p timer) := by
  cases p <;> exact Quiet.of_eq rfl

theorem quiet_setFiltered (s : State) (p : Pin) (high : Bool) : Quiet s (s.setFiltered p high) := by
  cases p <;> exact Quiet.of_eq rfl

theorem quiet_filterChange (s : State) (p : Pin) : Quiet s (s.filterChange p) := by
  unfold State.filterChange
  split
  · split
    · exact (quiet_setStability s p none).trans (Quiet.of_eq rfl)
    · exact Quiet.refl s
  · exact quiet_setStability s p _

theorem quiet_takeRaw (s : State) (p : Pin) (high : Bool) : Quiet s (s.takeRaw p high) := by
  unfold State.takeRaw
  split
  · exact (quiet_setRaw s p high).trans (quiet_filterChange _ p)
  · exact quiet_setRaw s p high

theorem quiet_acceptEdge (s : State) (p : Pin) : Quiet s (s.acceptEdge p) := by
  have hf := (quiet_setStability s p none).trans (quiet_setFiltered _ p (s.rawLevel p))
  unfold State.acceptEdge
  cases p
  · simp only []
    split
    · exact hf.trans (pulse_travel _).quiet
    · exact hf
  · exact hf.trans (spbEdge_travel _).quiet

theorem quiet_writeSpeed (s : State) (w : SlotWrite) : Quiet s (s.writeSpeed w) := quiet_changeSlot _ _ _ _

theorem quiet_expireSlot (s : State) (n : Nat) : Quiet s (s.expireSlot n) := quiet_changeSlot _ _ _ _

theorem quiet_zeroExpired (s : State) : Quiet s s.zeroExpired := by
  unfold State.zeroExpired
  simp only []
  split
  · exact Quiet.of_eq rfl
  · exact (quiet_changeSlot _ _ _ _).after rfl

theorem quiet_setMarks (s : State) (a b : Bool) : Quiet s (s.setMarks a b) := by
  obtain ⟨-, -, -, -, -, R⟩ := setMarks_spec s a b
  exact R.quiet

theorem quiet_watchExpired (s : State) : Quiet s s.watchExpired := by
  have hs : Quiet s { s with tacho.watch := none } := Quiet.of_eq rfl
  have hm := hs.trans (quiet_setMarks _ true s.table.phaseBMark)
  exact ((hm.trans (quiet_raise _ _)).trans (quiet_push _ _ _ _)).trans (quiet_writeSpeed _ _)

theorem quiet_minutePassed (s : State) : Quiet s s.minutePassed := by
  have hm : Quiet s { s with tacho.minuteTimer := s.after (ms 60000) } := Quiet.of_eq rfl
  exact (hm.trans (quiet_minuteEvent _ _)).trans (quiet_minuteEvent _ _)

theorem quiet_storeOdometer (s : State) : Quiet s s.storeOdometer := by
  unfold State.storeOdometer
  exact (quiet_requestCal _).after rfl

theorem quiet_changeK (s : State) (k : Nat) : Quiet s (s.changeK k) := by
  unfold State.changeK
  exact (quiet_storeOdometer _).after rfl

theorem quiet_sealNow (s : State) : Quiet s s.sealNow := by
  unfold State.sealNow
  exact (quiet_storeOdometer _).after rfl

theorem quiet_setOdometer (s : State) (metres : Nat) : Quiet s (s.setOdometer metres) := by
  have ho : Quiet s { s with dist.liveOdo := metres, dist.storedOdo := metres, dist.accumulator := 0 } := Quiet.of_eq rfl
  exact (ho.trans (ripple_writeOther (fun _ => True) _ 2 _ trivial trivial).quiet).trans (quiet_requestCal _)

theorem quiet_enqueue (s : State) (d : Driver) (attempt : Nat) : Quiet s (s.enqueue d attempt) :=
  (ripple_enqueue (fun _ => True) (fun _ _ => trivial) s d attempt).quiet

theorem quiet_longPress (s : State) : Quiet s s.longPress := by
  unfold State.longPress
  simp only []
  split
  · exact (quiet_enqueue _ _ _).after rfl
  · exact Quiet.of_eq rfl

theorem quiet_turnPage (s : State) : Quiet s s.turnPage := by
  unfold State.turnPage
  exact (quiet_markDirty _ _).after rfl

theorem quiet_startRecord (s : State) : Quiet s s.startRecord := by
  unfold State.startRecord
  split
  · split <;> exact Quiet.of_eq rfl
  · exact Quiet.of_eq rfl

theorem quiet_readyUp (s : State) : Quiet s s.readyUp := by
  unfold State.readyUp
  simp only []
  split <;> exact Quiet.of_eq rfl

theorem quiet_retry (s : State) : Quiet s s.retry := by
  unfold State.retry
  split <;> exact Quiet.of_eq rfl

theorem quiet_paramChanged (s : State) (id : Nat) : Quiet s (s.paramChanged id) :=
  (ripple_paramChanged (fun _ => True) (fun _ _ => trivial) s id).quiet

theorem quiet_extract (route : Route) (d : List Byte) (xs : List Extractor) (s : State) :
    Quiet s (xs.foldl (extractInto route d) s) := (extract_ripple route d xs s).quiet

theorem quiet_resets (l : List Nat) (s : State) : Quiet s (l.foldl State.resetSlot s) := (reset_all l s).1.quiet

theorem quiet_abandonBuild (s : State) : Quiet s s.abandonBuild := by
  unfold State.abandonBuild
  split
  · exact quiet_raise s _
  · exact Quiet.refl s

theorem partStored_quiet {s t : State} {b b' : Build} (q : Quiet s t) (h : PartStored s b b') : PartStored t b b' := by
  have hr : t.routedSlots = s.routedSlots := by unfold State.routedSlots; rw [q.routes]
  cases h with
  | a i p hi hp hs => exact .a i p hi hp (by rw [hr]; exact hs)
  | b i p hi hp => exact .b i p hi hp
  | c i r j hi => exact .c i r j hi

theorem keeps_editable {P : State → Prop} {r : FrameRecord} {u : State} {v : Verdict} (hv : v.Keeps P u) :
    (editable r u v).Keeps P u :=
  keeps_check fun _ => keeps_check fun _ => hv

/-! ### The commands -/

namespace Kept

variable {P : State → Prop} (h : Kept P)
include h

theorem read {code : Nat} {judge : FrameRecord → State → Verdict} {s t : State} (ht : onRequest code judge s = .next t)
    (hj : ∀ r u, (judge r u).Reads) (hs : P s) : P t := by
  refine h.request ht (fun r u v _ hv => ?_) hs
  rcases hj r u with e | e <;> rw [e]
  · exact hv
  · exact h.same hv rfl

/-- A verdict with a quiet effect keeps `P`. -/
theorem keeps {v : Verdict} {u : State} (hq : ∀ t, Quiet t (v.effect t)) : v.Keeps P u := fun t _ ht => h.quiet (hq t) ht

theorem accepts {f : State → State} {u : State} (hq : ∀ t, Quiet t (f t)) : (Machine.accepts f).Keeps P u := h.keeps hq

/-! #### The supply and the controller -/

theorem powerOn {s t : State} (ht : execPowerOn s = .next t) (hs : P s) : P t := by
  cases ht
  split
  · exact hs
  · exact h.start s

theorem supplyLoss {s t : State} (ht : execSupplyLoss s = .next t) (hs : P s) : P t := by
  cases ht
  split
  · exact h.loseSupply s
  · exact hs

theorem ignChange {s t : State} {high : Bool} (ht : execIgnChange high s = .next t) (hs : P s) : P t := by
  cases ht
  refine h.quiet ?_ hs
  split
  · exact Quiet.refl s
  · split <;> exact Quiet.of_eq rfl

theorem restartExecute {s t : State} (ht : execRestartExecute s = .next t) (hs : P s) : P t := by
  unfold execRestartExecute at ht
  split at ht
  · cases ht; exact hs
  · split at ht <;> cases ht
    · exact h.start _
    · exact hs

theorem configSaveEnd {s t : State} {equal : Bool} (ht : execConfigSaveEnd equal s = .next t) (hs : P s) : P t := by
  unfold execConfigSaveEnd at ht
  split at ht <;> cases ht
  · exact hs
  · next image _ => exact h.judgeSleep (h.saveRead image equal hs)

/-! #### The ports -/

theorem validFrame {s t : State} {p : Port} {f : BusFrame} (ht : execValidFrameReceived p f s = .next t) (hs : P s) :
    P t := by
  cases ht
  split
  · have hp := h.quiet (quiet_hearFrame s p) hs
    unfold State.sortFrame
    split
    · unfold State.intakeOffer
      split
      · next hq => exact h.queued _ hq (h.quiet (quiet_setPort _ p _ rfl) hp)
      · exact h.quiet (quiet_raise _ _) (h.quiet (quiet_setPort _ _ _ rfl) (h.quiet (quiet_setPort _ p _ rfl) hp))
    · exact h.quiet (quiet_setPort _ p _ rfl) hp
  · exact hs

theorem rxError {s t : State} {p : Port} (ht : execRxErrorDetected p s = .next t) (hs : P s) : P t := by
  cases ht
  split
  · refine h.quiet (quiet_setPort s p _ ?_) hs
    rfl
  · exact hs

theorem txError {s t : State} {p : Port} (ht : execTxErrorDetected p s = .next t) (hs : P s) : P t := by
  cases ht
  split
  · exact h.quiet (quiet_countTxError s p) hs
  · exact hs

theorem busOffRecovery {s t : State} {p : Port} (ht : execBusOffRecoveryExpiry p s = .next t) (hs : P s) : P t := by
  refine h.expiry ht (fun u hu => h.quiet (quiet_setPort u p _ ?_) hu) hs
  rfl

theorem txComplete {s t : State} (ht : execTxFrameComplete s = .next t) (hs : P s) : P t := by
  cases ht
  split
  · exact h.quiet (quiet_frameSent s) hs
  · exact hs

/-! #### The classifier -/

theorem routedFrame {s t : State} (ht : execRoutedFrame s = .next t) (hs : P s) : P t := by
  refine h.path ht (fun r u hu => ?_) hs
  split
  · next e _ =>
    have hc := h.counted e.route.key (decide (r.data.length = e.route.length)) hu
    unfold State.routeFrame
    simp only []
    split
    · exact h.quiet (quiet_extract _ _ _ _) hc
    · exact hc
  · exact hu

theorem unroutedFrame {s t : State} (ht : execUnroutedFrame s = .next t) (hs : P s) : P t := by
  refine h.path ht (fun r u hu => h.quiet (quiet_setPort u r.port _ ?_) hu) hs
  rfl

theorem foreignMgmt {s t : State} (ht : execForeignMgmt s = .next t) (hs : P s) : P t :=
  h.path ht (fun _ _ hu => h.same hu rfl) hs

theorem badRequest {s t : State} (ht : execBadRequest s = .next t) (hs : P s) : P t :=
  h.path ht (fun _ u hu => h.quiet (quiet_offer u _) hu) hs

/-! #### Requests of management and the stores -/

theorem readEvents {s t : State} (ht : execReadEvents s = .next t) (hs : P s) : P t :=
  h.request ht (fun _ _ => h.keeps fun _ => .of_eq rfl) hs

theorem setNoticeMask {s t : State} (ht : execSetNoticeMask s = .next t) (hs : P s) : P t :=
  h.request ht (fun _ u => keeps_ite (fun _ => h.keeps fun _ => .of_eq rfl) fun _ => keeps_refuse P u _) hs

theorem setParam {s t : State} (ht : execSetParam s = .next t) (hs : P s) : P t :=
  h.request ht (fun _ _ => keeps_unlessSaving (keeps_check fun _ => keeps_check fun _ => keeps_check fun _ =>
    h.keeps fun v => (quiet_paramChanged (v.setHeld _ _) _).after rfl)) hs

theorem restart {s t : State} (ht : execRestart s = .next t) (hs : P s) : P t :=
  h.request ht (fun _ _ => keeps_unlessSaving (h.keeps fun _ => .of_eq rfl)) hs

theorem configSave {s t : State} (ht : execConfigSave s = .next t) (hs : P s) : P t :=
  h.request ht (fun _ _ => keeps_unlessSaving (h.keeps fun _ => .of_eq rfl)) hs

theorem configErase {s t : State} (ht : execConfigErase s = .next t) (hs : P s) : P t :=
  h.request ht (fun _ _ => keeps_unlessSaving (h.keeps fun _ => .of_eq rfl)) hs

/-! #### Requests of the Route Table -/

theorem routeOpen {s t : State} (ht : execRouteOpen s = .next t) (hs : P s) : P t := by
  refine h.request ht (fun r u => keeps_unlessSaving (keeps_check fun _ => keeps_check fun htime => keeps_check fun hkey =>
    keeps_check fun hroom v q hv => ?_)) hs
  have qa : Quiet u v.abandonBuild := q.trans (quiet_abandonBuild v)
  refine h.opened (s := v.abandonBuild) ⟨by simpa using htime, ?_, ?_⟩ (h.quiet (quiet_abandonBuild v) hv)
  · rw [qa.routes]; simpa using hkey
  · rw [qa.routes]; omega

/-- An accepted part is stored, and completes the build or not (R19 to R21). -/
theorem acceptPart {u : State} {b b' : Build} (hb : u.intake.build = some b) (hp : PartStored u b b') :
    (acceptPart b').Keeps P u := by
  intro v q hv
  have hstored : P (v.withBuild (some b')) := h.stored (q.build.trans hb) (partStored_quiet q hp) hv
  unfold Machine.acceptPart
  split
  · next r hr => exact h.installed (s := v.withBuild (some b')) rfl hr hstored
  · exact hstored

theorem extA {s t : State} (ht : execExtA s = .next t) (hs : P s) : P t := by
  refine h.request ht (fun r u => keeps_unlessSaving ?_) hs
  split
  · exact keeps_refuse P u _
  · next b hb =>
    refine keeps_check fun hi => keeps_check fun hp => keeps_check fun hc => h.acceptPart hb ?_
    exact .a _ _ (by omega) (by simpa using hp) (by simpa [partA] using hc)

theorem extB {s t : State} (ht : execExtB s = .next t) (hs : P s) : P t := by
  refine h.request ht (fun r u => keeps_unlessSaving ?_) hs
  split
  · exact keeps_refuse P u _
  · next b hb =>
    refine keeps_check fun hi => keeps_check fun hp => h.acceptPart hb ?_
    exact .b _ _ (by omega) (by simpa using hp)

theorem extC {s t : State} (ht : execExtC s = .next t) (hs : P s) : P t := by
  refine h.request ht (fun r u => keeps_unlessSaving ?_) hs
  split
  · exact keeps_refuse P u _
  · next b hb => exact keeps_check fun hi => h.acceptPart hb (.c _ r 3 (by omega))

theorem routeDelete {s t : State} (ht : execRouteDelete s = .next t) (hs : P s) : P t := by
  refine h.request ht (fun r u => keeps_unlessSaving (keeps_check fun _ => ?_)) hs
  split
  · next e _ => exact fun v _ hv => h.quiet (quiet_resets _ _) (h.removed e.route.key hv)
  · exact keeps_ite (fun _ v _ hv => h.discarded hv) fun _ => keeps_refuse P u _

/-! #### Requests of the gauges, the rules and the alert block -/

theorem gaugeField {s t : State} (ht : execGaugeField s = .next t) (hs : P s) : P t :=
  h.request ht (fun _ _ => keeps_check fun _ => keeps_check fun _ => h.keeps fun _ => .of_eq rfl) hs

theorem gaugeCommit {s t : State} (ht : execGaugeCommit s = .next t) (hs : P s) : P t :=
  h.request ht (fun _ _ => keeps_unlessSaving (keeps_check fun _ => keeps_check fun _ => keeps_check fun _ =>
    keeps_check fun _ _ _ hv => h.moveChannel _ _ hv)) hs

theorem writePart (u : State) (i : Nat) (f : Rule → Rule) : (writePart i f).Keeps P u := h.keeps fun _ => .of_eq rfl

theorem ruleA {s t : State} (ht : execRuleA s = .next t) (hs : P s) : P t := by
  refine h.request ht (fun r u => keeps_editable ?_) hs
  split
  · exact h.writePart u _ _
  · exact keeps_refuse P u _

theorem ruleB {s t : State} (ht : execRuleB s = .next t) (hs : P s) : P t :=
  h.request ht (fun _ u => keeps_editable (h.writePart u _ _)) hs

theorem ruleC {s t : State} (ht : execRuleC s = .next t) (hs : P s) : P t := by
  refine h.request ht (fun r u => keeps_editable ?_) hs
  split
  · exact h.writePart u _ _
  · exact keeps_refuse P u _

theorem ruleD {s t : State} (ht : execRuleD s = .next t) (hs : P s) : P t := by
  refine h.request ht (fun r u => keeps_editable ?_) hs
  split
  · exact keeps_refuse P u _
  · exact keeps_check fun _ => h.writePart u _ _

theorem ruleEnable {s t : State} (ht : execRuleEnable s = .next t) (hs : P s) : P t := by
  refine h.request ht (fun r u => keeps_unlessSaving ?_) hs
  exact keeps_check fun _ => keeps_check fun _ => keeps_check fun _ => h.accepts fun v => quiet_enableRule v (r.byte 2)

theorem ruleClear {s t : State} (ht : execRuleClear s = .next t) (hs : P s) : P t := by
  refine h.request ht (fun r u => keeps_unlessSaving ?_) hs
  exact keeps_check fun _ => h.accepts fun v => quiet_clearRule v (r.byte 2)

theorem alertAck {s t : State} (ht : execAlertAck s = .next t) (hs : P s) : P t := by
  refine h.request ht (fun _ u => keeps_ite (fun _ => ?_) fun _ => keeps_refuse P u _) hs
  unfold AckResult.verdict
  split <;> exact h.keeps quiet_acknowledge

/-! #### Requests of the distance block and the tachograph block, and its frames -/

theorem setKfactor {s t : State} (ht : execSetKfactor s = .next t) (hs : P s) : P t := by
  refine h.request ht (fun r u => ?_) hs
  unfold judgeSetKfactor
  exact keeps_check fun _ => keeps_check fun _ => keeps_check fun _ => h.keeps fun v => quiet_changeK v (r.word 2)

theorem setOdometer {s t : State} (ht : execSetOdometer s = .next t) (hs : P s) : P t := by
  refine h.request ht (fun r u => ?_) hs
  unfold judgeSetOdometer
  exact keeps_check fun _ => h.keeps fun v => quiet_setOdometer v (r.long 2)

theorem sealOdometer {s t : State} (ht : execSealOdometer s = .next t) (hs : P s) : P t :=
  h.request ht (fun _ _ => keeps_check fun _ => h.keeps quiet_sealNow) hs

theorem cardRead {s t : State} (ht : execCardRead s = .next t) (hs : P s) : P t := by
  refine h.request ht (fun r u => ?_) hs
  unfold judgeCardRead
  split
  · exact keeps_refuse P u _
  · exact keeps_check fun _ => keeps_check fun _ => h.keeps fun v => quiet_enqueue v _ 1

theorem xferOpen {s t : State} (ht : execXferOpen s = .next t) (hs : P s) : P t := by
  refine h.path ht (fun r u hu => ?_) hs
  split
  · exact h.ripple (ripple_takeOpen onlyTacho (fun _ h => h) u _ _) hu
  · exact hu

theorem xferData {s t : State} (ht : execXferData s = .next t) (hs : P s) : P t := by
  refine h.path ht (fun r u hu => ?_) hs
  split
  · exact h.ripple (ripple_takeData onlyTacho (fun _ h => h) u _ _) hu
  · exact hu

theorem xferClose {s t : State} (ht : execXferClose s = .next t) (hs : P s) : P t := by
  refine h.path ht (fun r u hu => ?_) hs
  split
  · exact h.ripple (ripple_takeClose onlyTacho (fun _ h => h) u _) hu
  · exact hu

theorem xferAbort {s t : State} (ht : execXferAbort s = .next t) (hs : P s) : P t :=
  h.path ht (fun _ u hu => h.ripple (ripple_takeAbort onlyTacho (fun _ h => h) u) hu) hs

theorem xferStray {s t : State} (ht : execXferStray s = .next t) (hs : P s) : P t :=
  h.path ht (fun _ _ hu => h.same hu rfl) hs

/-! #### Events of the gauges, the lamps and the inputs -/

theorem coilFault {s t : State} {c : Nat} {cause : CoilFault} (ht : execCoilFaultReport c cause s = .next t) (hs : P s) :
    P t := by
  cases ht
  split
  · exact h.failChannel c cause hs
  · exact hs

theorem lampCheck {s t : State} {n : Nat} {current : Bool} (ht : execLampTurnOnCheck n current s = .next t) (hs : P s) :
    P t := by
  cases ht
  split
  · exact h.quiet (quiet_checkLamp s n current) hs
  · exact hs

theorem pinRaw {s t : State} {p : Pin} {high : Bool} (ht : execPinRawChange p high s = .next t) (hs : P s) : P t := by
  cases ht
  split
  · exact hs
  · exact h.quiet (quiet_takeRaw s p high) hs

theorem ackInput {s t : State} {pressed : Bool} (ht : execAckInputChange pressed s = .next t) (hs : P s) : P t := by
  cases ht
  split
  · exact hs
  · exact h.quiet (quiet_ackLevel s pressed) hs

theorem pageInput {s t : State} {pressed : Bool} (ht : execPageInputChange pressed s = .next t) (hs : P s) : P t := by
  cases ht
  split
  · exact hs
  · exact h.quiet (quiet_pageLevel s pressed) hs

/-- An expiry whose effect is quiet. -/
theorem timer {timer : Timer} {f : State → State} {s t : State} (ht : onExpiry timer f s = .next t)
    (hf : ∀ u, Quiet u (f u)) (hs : P s) : P t := h.expiry ht (fun u hu => h.quiet (hf u) hu) hs

theorem slotExpiry {s t : State} {n : Nat} (ht : execSlotExpiry n s = .next t) (hs : P s) : P t :=
  h.timer ht (fun u => quiet_expireSlot u n) hs

theorem restDelay {s t : State} {c : Nat} (ht : execRestDelayExpiry c s = .next t) (hs : P s) : P t :=
  h.timer ht (fun _ => .of_eq rfl) hs

theorem confirmTimer {s t : State} {i : Nat} (ht : execConfirmTimerExpiry i s = .next t) (hs : P s) : P t := by
  refine h.timer ht (fun u => ?_) hs
  exact quiet_confirmRule u i

theorem filterStability {s t : State} {p : Pin} (ht : execFilterStabilityExpiry p s = .next t) (hs : P s) : P t :=
  h.timer ht (fun u => quiet_acceptEdge u p) hs

theorem calWriteComplete {s t : State} (ht : execCalWriteComplete s = .next t) (hs : P s) : P t :=
  h.expiry ht (fun u hu => h.judgeSleep (h.quiet (quiet_calWritten u) hu)) hs

theorem silence {s t : State} {p : Port} (ht : execSilenceTimerExpiry p s = .next t) (hs : P s) : P t :=
  h.timer ht (fun u => quiet_fallSilent u p) hs

theorem stepEvent {s t : State} {c : Nat} (ht : execStepEvent c s = .next t) (hs : P s) : P t := by
  refine h.expiry ht (fun u hu => ?_) hs
  unfold State.stepChannel
  exact h.moveChannel c _ hu

theorem homingStep {s t : State} {c : Nat} (ht : execHomingStep c s = .next t) (hs : P s) : P t := by
  refine h.expiry ht (fun u hu => ?_) hs
  unfold State.homeChannel
  exact h.moveChannel c _ hu

/-! ### Every command and every step -/

theorem exec {c : Instr} {s t : State} (ht : Machine.exec c s = .next t) (hs : P s) : P t := by
  cases c with
  | powerOn => exact h.powerOn ht hs
  | supplyLoss => exact h.supplyLoss ht hs
  | ignChange => exact h.ignChange ht hs
  | ignTimerExpiry => exact h.expiry ht (fun _ => h.takeIgnLevel) hs
  | parkingTimerExpiry => exact h.expiry ht (fun _ => h.sleepEntry) hs
  | secondTimerExpiry => exact h.timer ht quiet_countSecond hs
  | validFrameReceived => exact h.validFrame ht hs
  | rxErrorDetected => exact h.rxError ht hs
  | txErrorDetected => exact h.txError ht hs
  | busOffRecoveryExpiry => exact h.busOffRecovery ht hs
  | silenceTimerExpiry => exact h.silence ht hs
  | txFrameComplete => exact h.txComplete ht hs
  | routedFrame => exact h.routedFrame ht hs
  | unroutedFrame => exact h.unroutedFrame ht hs
  | foreignMgmt => exact h.foreignMgmt ht hs
  | badRequest => exact h.badRequest ht hs
  | readEvents => exact h.readEvents ht hs
  | setNoticeMask => exact h.setNoticeMask ht hs
  | readCounters => exact h.read ht reads_readCounters hs
  | setParam => exact h.setParam ht hs
  | getParam => exact h.read ht reads_getParam hs
  | restart => exact h.restart ht hs
  | restartExecute => exact h.restartExecute ht hs
  | configSave => exact h.configSave ht hs
  | configSaveEnd => exact h.configSaveEnd ht hs
  | configErase => exact h.configErase ht hs
  | routeOpen => exact h.routeOpen ht hs
  | extA => exact h.extA ht hs
  | extB => exact h.extB ht hs
  | extC => exact h.extC ht hs
  | routeDelete => exact h.routeDelete ht hs
  | routeRead => exact h.read ht reads_routeRead hs
  | slotExpiry => exact h.slotExpiry ht hs
  | readSlot => exact h.read ht reads_readSlot hs
  | gaugeField => exact h.gaugeField ht hs
  | gaugeCommit => exact h.gaugeCommit ht hs
  | gaugeRead => exact h.read ht reads_gaugeRead hs
  | stepEvent => exact h.stepEvent ht hs
  | homingStep => exact h.homingStep ht hs
  | restDelayExpiry => exact h.restDelay ht hs
  | coilFaultReport => exact h.coilFault ht hs
  | ruleA => exact h.ruleA ht hs
  | ruleB => exact h.ruleB ht hs
  | ruleC => exact h.ruleC ht hs
  | ruleD => exact h.ruleD ht hs
  | ruleEnable => exact h.ruleEnable ht hs
  | ruleClear => exact h.ruleClear ht hs
  | ruleRead => exact h.read ht reads_ruleRead hs
  | lampRead => exact h.read ht reads_lampRead hs
  | confirmTimerExpiry => exact h.confirmTimer ht hs
  | phaseEvent => exact h.timer ht quiet_advancePhase hs
  | proveOutEnd => exact h.expiry ht (fun _ => h.proveOutEnded) hs
  | lampTurnOnCheck => exact h.lampCheck ht hs
  | ackPress => exact h.timer ht quiet_ackRecognised hs
  | alertAck => exact h.alertAck ht hs
  | alertRead => exact h.read ht reads_alertRead hs
  | chimeIntervalEnd => exact h.timer ht (fun u => (ripple_chimeNext onlyTacho u).quiet) hs
  | toneCounterExpiry => exact h.timer ht (fun _ => .of_eq rfl) hs
  | pinRawChange => exact h.pinRaw ht hs
  | filterStabilityExpiry => exact h.filterStability ht hs
  | zeroTimerExpiry => exact h.timer ht quiet_zeroExpired hs
  | setKfactor => exact h.setKfactor ht hs
  | setOdometer => exact h.setOdometer ht hs
  | sealOdometer => exact h.sealOdometer ht hs
  | readCalHistory => exact h.read ht reads_readCalHistory hs
  | distanceRead => exact h.read ht reads_distanceRead hs
  | calWriteComplete => exact h.calWriteComplete ht hs
  | minuteTimerExpiry => exact h.timer ht quiet_minutePassed hs
  | cardRead => exact h.cardRead ht hs
  | xferOpen => exact h.xferOpen ht hs
  | xferData => exact h.xferData ht hs
  | xferClose => exact h.xferClose ht hs
  | xferAbort => exact h.xferAbort ht hs
  | xferStray => exact h.xferStray ht hs
  | transferTimerExpiry =>
    exact h.timer ht (fun u => (ripple_transferTimeout onlyTacho (fun _ h => h) u).quiet) hs
  | tachoRead => exact h.read ht reads_tachoRead hs
  | mismatchTimerExpiry =>
    exact h.timer ht (fun u => (ripple_confirmSide (fun _ => True) (fun _ _ => trivial) u trivial).quiet) hs
  | silenceWatchExpiry => exact h.timer ht quiet_watchExpired hs
  | readyRise => cases ht; exact h.quiet (quiet_readyUp s) hs
  | readyTimerExpiry => exact h.timer ht (fun _ => .of_eq rfl) hs
  | retryTimerExpiry => exact h.timer ht quiet_retry hs
  | displayTransferStart => exact h.timer ht quiet_startRecord hs
  | displayTransferComplete => exact h.timer ht (fun _ => .of_eq rfl) hs
  | pageShortPress => exact h.timer ht quiet_turnPage hs
  | pageLongPress => exact h.timer ht quiet_longPress hs
  | displayRead => exact h.read ht reads_displayRead hs
  | readyFall => cases ht; exact h.same hs rfl
  | ackInputChange => exact h.ackInput ht hs
  | pageInputChange => exact h.pageInput ht hs

/-- A step on an empty queue sends what is on its way, runs what is due, or lets a microsecond pass. -/
theorem idle {s t : State} (ht : Machine.idle s = .next t) (hs : P s) : P t := by
  unfold Machine.idle at ht
  split at ht
  · cases ht; exact h.quiet (quiet_send s []) hs
  · split at ht
    · exact h.exec ht hs
    · split at ht <;> cases ht
      · exact hs
      · exact h.same hs rfl

theorem step {s t : State} (ht : Machine.step s = .next t) (hs : P s) : P t := by
  unfold Machine.step at ht
  split at ht
  · exact h.exec ht (h.same hs rfl)
  · exact h.idle ht hs

end Kept

end Sys2Proof.Machine
end

section
/-! The invariants of the queues, the power state, the Route Table and the destination slots: what the intake block's operations keep (R6,
R7, R9, R11, R12, R17). -/

namespace Sys2Proof.Machine

/-! ### The queues (R7, R9) -/

theorem queuesOk_kept : Kept QueuesOk where
  reset := ⟨Nat.zero_le _, Nat.zero_le _⟩
  quiet q h := ⟨q.queue.trans h.1, q.room h.2⟩
  running _ h := h
  asleep _ := ⟨Nat.zero_le _, Nat.zero_le _⟩
  parking _ h := h
  returned _ h := h
  woken _ _ _ := ⟨Nat.zero_le _, Nat.zero_le _⟩
  queued r hr h := ⟨by show (_ ++ [r]).length ≤ _; rw [List.length_append]; exact hr, h.2⟩
  counted _ _ h := h
  opened _ h := h
  stored _ _ h := h
  installed _ _ h := h
  discarded h := h
  removed _ h := h

/-- Settles O5: every step keeps both queues within their room, as every operation of the intake block does. -/
theorem queuesKept : Obligations.QueuesKept := fun _ _ hs ht => queuesOk_kept.step ht hs

/-! ### HOLD and the ports (R6, R189 to R191) -/

theorem powerOk_kept : Kept PowerOk where
  reset := by unfold PowerOk; decide
  quiet q h := by
    unfold PowerOk at *
    rw [q.power, q.hold, q.onT, q.onL]
    exact h
  running hp h := by
    unfold PowerOk at *
    simp_all
  asleep _ := by unfold PowerOk; simp [State.asleep, PortBlock.turnOff]
  parking hp h := by
    obtain ⟨-, hT, hL⟩ := h
    unfold PowerOk
    rcases hp with hp | hp <;> simp_all
  returned hp h := by
    obtain ⟨-, hT, hL⟩ := h
    unfold PowerOk
    simp_all
  woken _ hp h := by
    obtain ⟨hh, -, -⟩ := h
    unfold PowerOk
    simp_all [State.woken]
  queued _ _ h := h
  counted _ _ h := h
  opened _ h := h
  stored _ _ h := h
  installed _ _ h := h
  discarded h := h
  removed _ h := h

/-- Settles O12: HOLD and the ports follow the power state through each change of it, and nothing else touches them. -/
theorem powerKept : Obligations.PowerKept := fun _ _ hs ht => powerOk_kept.step ht hs

/-! ### The destination slots (R12, R17) -/

/-- The destination slots of the entries. -/
def destinations (routes : List RouteEntry) : List Nat := routes.flatMap (fun e => e.route.slots)

theorem destinations_countRoute (routes : List RouteEntry) (k : RouteKey) (hit : Bool) :
    destinations (countRoute routes k hit) = destinations routes := by
  unfold destinations countRoute
  rw [List.flatMap_map]
  congr 1
  funext e
  unfold RouteEntry.count
  split
  · split <;> rfl
  · rfl

theorem destinations_loaded (routes : List Route) : destinations (loadedRoutes routes) = routes.flatMap Route.slots := by
  unfold destinations loadedRoutes
  rw [List.flatMap_map]

/-- An entry inserted stands among the others. -/
theorem insertRoute_perm (e : RouteEntry) : ∀ l : List RouteEntry, (insertRoute e l).Perm (e :: l)
  | [] => List.Perm.refl _
  | f :: rest => by
    unfold insertRoute
    split
    · exact List.Perm.refl _
    · exact ((insertRoute_perm e rest).cons f).trans (List.Perm.swap e f rest)

theorem noneTwice_nodup : ∀ {l : List Nat}, noneTwice l = true → l.Nodup
  | [], _ => List.nodup_nil
  | a :: rest, h => by
    unfold noneTwice at h
    rw [Bool.and_eq_true] at h
    exact List.nodup_cons.mpr ⟨by simpa using h.1, noneTwice_nodup h.2⟩

/-- A complete build names the slots of its route. -/
theorem buildSlots_route {b : Build} {r : Route} (h : b.route = some r) : buildSlots (some b) = r.slots := by
  unfold Build.route at h
  split at h
  · next hall =>
    cases h
    unfold buildSlots Route.slots
    rw [List.map_filterMap]
    refine List.filterMap_congr fun p hp => ?_
    have hx := List.all_eq_true.mp hall p hp
    unfold BuildParts.extractor at hx ⊢
    split at hx
    · next ha _ _ => simp [ha]
    · cases hx
  · cases h

/-- A list with one place replaced, up to order: what the new item gives, and what the others give. -/
theorem filterMap_set_perm {α β : Type} (f : α → Option β) (z : α) (hz : f z = none) :
    ∀ (l : List α) (i : Nat) (q : α), i < l.length →
      ((l.set i q).filterMap f).Perm ((f q).toList ++ (l.set i z).filterMap f)
  | a :: l, 0, q, _ => by
    rw [List.set_cons_zero, List.set_cons_zero, List.filterMap_cons, List.filterMap_cons, hz]
    cases f q <;> exact List.Perm.refl _
  | a :: l, i + 1, q, h => by
    have ih := filterMap_set_perm f z hz l i q (Nat.lt_of_succ_lt_succ h)
    rw [List.set_cons_succ, List.set_cons_succ, List.filterMap_cons, List.filterMap_cons]
    cases f a with
    | none => exact ih
    | some x => exact (ih.cons x).trans (List.perm_middle (l₁ := (f q).toList)).symm

/-- The slots of a build with the parts of one index replaced: that index's own slot, and the other indexes'. -/
theorem buildSlots_setParts (b : Build) (i : Nat) (q : BuildParts) (h : i < b.parts.length) :
    (buildSlots (some (b.setParts i q))).Perm ((q.a.map (·.slot)).toList ++ b.otherSlots i) :=
  filterMap_set_perm _ BuildParts.absent rfl b.parts i q h

theorem setParts_partsAt (b : Build) (i : Nat) (h : i < b.parts.length) : b.setParts i (b.partsAt i) = b := by
  unfold Build.setParts Build.partsAt
  rw [List.getD_eq_getElem _ _ h, List.set_getElem_self]

/-- The slots of the build slot, split at one index. -/
theorem buildSlots_split (b : Build) (i : Nat) (h : i < b.parts.length) :
    (buildSlots (some b)).Perm (((b.partsAt i).a.map (·.slot)).toList ++ b.otherSlots i) := by
  have hp := buildSlots_setParts b i (b.partsAt i) h
  rwa [setParts_partsAt b i h] at hp

/-- A part stored names no slot twice (R19): a part A's slot is named nowhere else, and the parts B and C name none. -/
theorem partStored_nodup {s : State} {b b' : Build} (h : PartStored s b b')
    (hs : (s.routedSlots ++ buildSlots (some b)).Nodup) : (s.routedSlots ++ buildSlots (some b')).Nodup := by
  have same : ∀ (i : Nat) (q : BuildParts), i < b.parts.length → q.a = (b.partsAt i).a →
      (s.routedSlots ++ buildSlots (some (b.setParts i q))).Nodup := by
    intro i q hi hq
    have hn := ((buildSlots_split b i hi).append_left s.routedSlots).nodup_iff.mp hs
    rw [← hq] at hn
    exact ((buildSlots_setParts b i q hi).append_left s.routedSlots).nodup_iff.mpr hn
  cases h with
  | a i p hi _ hslot =>
    refine ((buildSlots_setParts b i _ hi).append_left s.routedSlots).nodup_iff.mpr ?_
    have hn := ((buildSlots_split b i hi).append_left s.routedSlots).nodup_iff.mp hs
    have hrest : (s.routedSlots ++ b.otherSlots i).Nodup :=
      hn.sublist ((List.sublist_append_right _ _).append_left s.routedSlots)
    exact List.perm_middle.nodup_iff.mpr (List.nodup_cons.mpr ⟨hslot, hrest⟩)
  | b i p hi _ => exact same i _ hi rfl
  | c i r j hi => exact same i _ hi rfl

theorem slotsOk_kept : Kept SlotsOk where
  reset := List.nodup_nil
  quiet q h := by
    unfold SlotsOk State.routedSlots at *
    rw [q.routes, q.build]
    exact h
  running _ h := h
  asleep h := by
    have hs := h.sublist (List.sublist_append_left _ _)
    unfold SlotsOk
    show (_ ++ []).Nodup
    rw [List.append_nil]
    exact hs
  parking _ h := h
  returned _ h := h
  woken {s image} hi _ _ := by
    simp only [ConfigImage.passes, Bool.and_eq_true] at hi
    obtain ⟨⟨⟨⟨⟨⟨-, hslots⟩, -⟩, -⟩, -⟩, -⟩, -⟩ := hi
    show (destinations (loadedRoutes image.routes) ++ []).Nodup
    rw [List.append_nil, destinations_loaded]
    exact noneTwice_nodup hslots
  queued _ _ h := h
  counted {s} k hit h := by
    show (destinations (countRoute s.intake.routes k hit) ++ _).Nodup
    rw [destinations_countRoute]
    exact h
  opened {s r} _ h := by
    have hb : buildSlots (some (openedBuild r)) = [] := by
      unfold buildSlots openedBuild
      exact List.filterMap_eq_nil_iff.mpr fun p hp => by rw [List.eq_of_mem_replicate hp]; rfl
    show (s.routedSlots ++ buildSlots (some (openedBuild r))).Nodup
    rw [hb, List.append_nil]
    exact h.sublist (List.sublist_append_left _ _)
  stored {s b b'} hb hp h := by
    unfold SlotsOk at h
    rw [hb] at h
    have hn := partStored_nodup hp h
    exact hn
  installed {s b r} hb hr h := by
    unfold SlotsOk at h
    rw [hb, buildSlots_route hr] at h
    show (destinations (insertRoute { route := r, hits := 0, rejects := 0 } s.intake.routes) ++ []).Nodup
    rw [List.append_nil]
    refine ((insertRoute_perm _ _).flatMap_right (fun e : RouteEntry => e.route.slots)).nodup_iff.mpr ?_
    exact List.perm_append_comm.nodup_iff.mp h
  discarded {s} h := by
    show (s.routedSlots ++ []).Nodup
    rw [List.append_nil]
    exact h.sublist (List.sublist_append_left _ _)
  removed {s} k h := by
    refine h.sublist (List.Sublist.append_right ?_ _)
    exact List.filter_sublist.flatMap _

/-- Settles O8: a slot comes to an extractor through a part A, whose slot is named nowhere else, or a load that passes; an installation
moves the build's slots to the table. -/
theorem slotsKept : Obligations.SlotsKept := fun _ _ hs ht => slotsOk_kept.step ht hs

/-! ### The Route Table and the build slot (R11, R12, R18, R21) -/

/-- The ranges of an ACTIVE entry (R11, R12). -/
def ActiveOk (e : RouteEntry) : Prop :=
  EntryOk e.route.key e.route.length e.route.timeout e.route.extractors.length ∧ e.hits ≤ 65535 ∧ e.rejects ≤ 255 ∧
    ∀ x ∈ e.route.extractors, PartAOk x.a e.route.length ∧ PartBOk x.b ∧ PartCOk x.offset

/-- The ranges of the parts of one index of a build (R12). -/
def PartsOk (length : Nat) (p : BuildParts) : Prop :=
  (∀ a, p.a = some a → PartAOk a length) ∧ (∀ m, p.b = some m → PartBOk m) ∧ ∀ c, p.c = some c → PartCOk c

/-- The build slot's build beside the ACTIVE entries `routes` (R18). -/
def BuildOk (routes : List RouteEntry) (b : Build) : Prop :=
  EntryOk b.key b.length b.timeout b.parts.length ∧ (∀ p ∈ b.parts, PartsOk b.length p) ∧ routes.length < routeRoom ∧
    ∀ e ∈ routes, e.route.key ≠ b.key

theorem routesOk_iff (s : State) :
    RoutesOk s ↔
      s.intake.routes.length ≤ routeRoom ∧ (s.intake.routes.map (fun e => e.route.key.rank)).Pairwise (· < ·) ∧
        (∀ e ∈ s.intake.routes, ActiveOk e) ∧ ∀ b, s.intake.build = some b → BuildOk s.intake.routes b := Iff.rfl

theorem partAOk_of_passes {a : ExtractorA} {length : Nat} (h : a.passes length = true) : PartAOk a length := by
  simp only [ExtractorA.passes, Bool.and_eq_true, Bool.or_eq_true, decide_eq_true_eq] at h
  obtain ⟨⟨⟨⟨⟨⟨h1, h2⟩, h3⟩, h4⟩, h5⟩, h6⟩, h7⟩ := h
  refine ⟨h1, h2, h3, h4, fun ho => ?_, h6, by omega⟩
  rcases h5 with h5 | h5
  · rw [ho] at h5; cases h5
  · exact h5

theorem partBOk_of_passes {b : ExtractorB} (h : b.passes = true) : PartBOk b := by
  simp only [ExtractorB.passes, Bool.and_eq_true, decide_eq_true_eq] at h
  obtain ⟨⟨⟨⟨h1, h2⟩, h3⟩, h4⟩, h5⟩ := h
  exact ⟨h1, h2, h3, h4, h5⟩

theorem partCOk_of_fits {v : Int} (h : fits32 v = true) : PartCOk v := by
  simpa [fits32, PartCOk] using h

/-- A signed four-byte field is a signed 32-bit number. -/
theorem partCOk_signedLong (r : FrameRecord) (j : Nat) : PartCOk (r.signedLong j) := by
  have h0 := byte_lt r j
  have h1 := byte_lt r (j + 1)
  have h2 := byte_lt r (j + 2)
  have h3 := byte_lt r (j + 2 + 1)
  have hl : r.long j < 4294967296 := by unfold FrameRecord.long FrameRecord.word; omega
  unfold PartCOk FrameRecord.signedLong toSigned
  norm_num
  split <;> omega

theorem timeoutOk_of_passes {t : Nat} (h : timeoutPasses t = true) : 10 ≤ t ∧ t ≤ 65000 ∧ t % 10 = 0 := by
  simpa [timeoutPasses, and_assoc] using h

/-- An entry of a stored image that passes (R183). -/
theorem activeOk_of_passes {r : Route} (h : r.passes = true) : ActiveOk { route := r, hits := 0, rejects := 0 } := by
  simp only [Route.passes, Bool.and_eq_true, decide_eq_true_eq, List.all_eq_true] at h
  obtain ⟨⟨⟨⟨⟨⟨hk, hl⟩, hl'⟩, ht⟩, hc⟩, hc'⟩, hx⟩ := h
  obtain ⟨ht, ht', ht''⟩ := timeoutOk_of_passes ht
  refine ⟨⟨hk, hl, hl', ht, ht', ht'', hc, hc'⟩, Nat.zero_le _, Nat.zero_le _, fun x hxm => ?_⟩
  have hp := hx x hxm
  simp only [Extractor.passes, Bool.and_eq_true] at hp
  obtain ⟨⟨ha, hb⟩, ho⟩ := hp
  exact ⟨partAOk_of_passes ha, partBOk_of_passes hb, partCOk_of_fits ho⟩

theorem rank_injective {k l : RouteKey} (hk : k.identifier < 2 ^ 29) (hl : l.identifier < 2 ^ 29)
    (h : k.rank = l.rank) : k = l := by
  obtain ⟨p, i⟩ := k
  obtain ⟨q, j⟩ := l
  simp only [RouteKey.rank, portBit] at *
  cases p <;> cases q <;> simp at * <;> omega

/-- An entry inserted by a rank that no other has keeps the order strict (R21). -/
theorem insertRoute_ascends (e : RouteEntry) : ∀ l : List RouteEntry,
    (l.map (fun f => f.route.key.rank)).Pairwise (· < ·) → (∀ f ∈ l, f.route.key.rank ≠ e.route.key.rank) →
      ((insertRoute e l).map (fun f => f.route.key.rank)).Pairwise (· < ·)
  | [], _, _ => List.pairwise_singleton _ _
  | f :: rest, hl, hne => by
    obtain ⟨hf, hrest⟩ := List.pairwise_cons.mp hl
    unfold insertRoute
    split
    · next hlt =>
      refine List.pairwise_cons.mpr ⟨fun n hn => ?_, hl⟩
      rcases List.mem_cons.mp hn with rfl | hn
      · exact hlt
      · exact Nat.lt_trans hlt (hf n hn)
    · next hge =>
      have hfe := hne f List.mem_cons_self
      refine List.pairwise_cons.mpr ⟨fun n hn => ?_, insertRoute_ascends e rest hrest fun g hg =>
        hne g (List.mem_cons_of_mem _ hg)⟩
      rcases List.mem_cons.mp (((insertRoute_perm e rest).map _).mem_iff.mp hn) with rfl | hn
      · show f.route.key.rank < e.route.key.rank
        omega
      · exact hf n hn

/-- An entry counted has its route; its counts stay in their widths (R15). -/
theorem mem_countRoute {routes : List RouteEntry} {k : RouteKey} {hit : Bool} {e : RouteEntry}
    (h : e ∈ countRoute routes k hit) :
    ∃ f ∈ routes, e.route = f.route ∧ (f.hits ≤ 65535 → e.hits ≤ 65535) ∧ (f.rejects ≤ 255 → e.rejects ≤ 255) := by
  obtain ⟨f, hf, rfl⟩ := List.mem_map.mp h
  refine ⟨f, hf, ?_⟩
  unfold RouteEntry.count
  split
  · split
    · exact ⟨rfl, fun _ => satInc_le _ _, id⟩
    · exact ⟨rfl, id, fun _ => satInc_le _ _⟩
  · exact ⟨rfl, id, id⟩

theorem ranks_countRoute (routes : List RouteEntry) (k : RouteKey) (hit : Bool) :
    (countRoute routes k hit).map (fun e => e.route.key.rank) = routes.map (fun e => e.route.key.rank) := by
  unfold countRoute
  rw [List.map_map]
  refine List.map_congr_left fun e _ => ?_
  unfold RouteEntry.count
  simp only [Function.comp]
  split
  · split <;> rfl
  · rfl

theorem entryOk_opened {r : FrameRecord} (h : timeoutPasses (openedBuild r).timeout = true) :
    EntryOk (openedBuild r).key (openedBuild r).length (openedBuild r).timeout (openedBuild r).parts.length := by
  obtain ⟨h1, h2, h3⟩ := timeoutOk_of_passes h
  have hk : (openedBuild r).key.identifier < 2 ^ 29 := Nat.mod_lt _ (by decide)
  have hl : openLength (r.word 6) = r.word 6 / 8192 % 8 + 1 := rfl
  have hc : (openedBuild r).parts.length = r.long 2 / 2 ^ 29 % 4 + 1 := List.length_replicate
  refine ⟨hk, ?_, ?_, h1, h2, h3, ?_, ?_⟩
  · show 1 ≤ openLength (r.word 6); omega
  · show openLength (r.word 6) ≤ 8; omega
  · rw [hc]; omega
  · rw [hc]; omega

/-- The parts of an index of a build stand among its parts. -/
theorem partsAt_mem {b : Build} {i : Nat} (h : i < b.parts.length) : b.partsAt i ∈ b.parts := by
  unfold Build.partsAt
  rw [List.getD_eq_getElem _ _ h]
  exact List.getElem_mem h

/-- A part stored keeps the ranges (R19, R20). -/
theorem partStored_ok {s : State} {b b' : Build} {routes : List RouteEntry} (h : PartStored s b b')
    (hb : BuildOk routes b) : BuildOk routes b' := by
  obtain ⟨hentry, hparts, hroom, hkey⟩ := hb
  have set : ∀ (i : Nat) (q : BuildParts), PartsOk b.length q → BuildOk routes (b.setParts i q) := by
    refine fun i q hq => ⟨?_, fun p hp => ?_, hroom, hkey⟩
    · show EntryOk b.key b.length b.timeout (b.parts.set i q).length
      rw [List.length_set]
      exact hentry
    · rcases List.mem_or_eq_of_mem_set hp with hp | rfl
      · exact hparts p hp
      · exact hq
  cases h with
  | a i p hi hp _ =>
    obtain ⟨-, h2, h3⟩ := hparts _ (partsAt_mem hi)
    exact set i _ ⟨fun a ha => by cases ha; exact partAOk_of_passes hp, h2, h3⟩
  | b i p hi hp =>
    obtain ⟨h1, -, h3⟩ := hparts _ (partsAt_mem hi)
    exact set i _ ⟨h1, fun m hm => by cases hm; exact partBOk_of_passes hp, h3⟩
  | c i r j hi =>
    obtain ⟨h1, h2, -⟩ := hparts _ (partsAt_mem hi)
    exact set i _ ⟨h1, h2, fun c hc => by cases hc; exact partCOk_signedLong r j⟩

/-- The route of a complete build has its ranges (R21). -/
theorem activeOk_route {b : Build} {r : Route} {routes : List RouteEntry} (hr : b.route = some r) (hb : BuildOk routes b) :
    ActiveOk { route := r, hits := 0, rejects := 0 } ∧ r.key = b.key := by
  obtain ⟨hentry, hparts, -, -⟩ := hb
  unfold Build.route at hr
  split at hr
  · next hall =>
    cases hr
    refine ⟨⟨?_, Nat.zero_le _, Nat.zero_le _, fun x hx => ?_⟩, rfl⟩
    · have hc : (b.parts.filterMap BuildParts.extractor).length = b.parts.length := by
        rw [List.length_filterMap_eq_countP, List.countP_eq_length]
        exact List.all_eq_true.mp hall
      show EntryOk b.key b.length b.timeout (b.parts.filterMap BuildParts.extractor).length
      rw [hc]
      exact hentry
    · obtain ⟨p, hp, hpx⟩ := List.mem_filterMap.mp hx
      obtain ⟨h1, h2, h3⟩ := hparts p hp
      unfold BuildParts.extractor at hpx
      split at hpx
      · next ha hm hc => cases hpx; exact ⟨h1 _ ha, h2 _ hm, h3 _ hc⟩
      · cases hpx
  · cases hr

theorem routesOk_kept : Kept RoutesOk where
  reset := ⟨Nat.zero_le _, List.Pairwise.nil, (fun _ h => nomatch h), (fun _ h => nomatch h)⟩
  quiet q h := by
    rw [routesOk_iff] at *
    rw [q.routes, q.build]
    exact h
  running _ h := h
  asleep h := by
    obtain ⟨hl, hr, ha, -⟩ := h
    exact ⟨hl, hr, ha, fun _ h => nomatch h⟩
  parking _ h := h
  returned _ h := h
  woken {s image} hi _ _ := by
    simp only [ConfigImage.passes, Bool.and_eq_true, decide_eq_true_eq, List.all_eq_true] at hi
    obtain ⟨⟨⟨⟨⟨⟨⟨⟨hl, hp⟩, hr⟩, -⟩, -⟩, -⟩, -⟩, -⟩, -⟩ := hi
    refine ⟨?_, ?_, fun e he => ?_, fun _ h => nomatch h⟩
    · show (image.routes.map _).length ≤ _
      rw [List.length_map]
      exact hl
    · show ((image.routes.map _).map _).Pairwise _
      rw [List.map_map]
      exact noneTwice_ascends _ hr
    · obtain ⟨r, hm, rfl⟩ := List.mem_map.mp he
      exact activeOk_of_passes (hp r hm)
  queued _ _ h := h
  counted {s} k hit h := by
    obtain ⟨hl, hr, ha, hb⟩ := (routesOk_iff s).mp h
    have hlen : (countRoute s.intake.routes k hit).length = s.intake.routes.length := List.length_map _
    refine (routesOk_iff _).mpr ⟨by show (countRoute _ _ _).length ≤ _; rw [hlen]; exact hl, ?_, fun e he => ?_, fun b e => ?_⟩
    · show ((countRoute s.intake.routes k hit).map _).Pairwise _
      rw [ranks_countRoute]
      exact hr
    · obtain ⟨f, hf, hroute, hhits, hrejects⟩ := mem_countRoute he
      obtain ⟨h1, h2, h3, h4⟩ := ha f hf
      unfold ActiveOk
      rw [hroute]
      exact ⟨h1, hhits h2, hrejects h3, h4⟩
    · obtain ⟨h1, h2, h3, h4⟩ := hb b e
      refine ⟨h1, h2, by show (countRoute _ _ _).length < _; rw [hlen]; exact h3, fun e he => ?_⟩
      obtain ⟨f, hf, hroute, -⟩ := mem_countRoute he
      rw [hroute]
      exact h4 f hf
  opened {s r} ho h := by
    obtain ⟨hl, hr, ha, -⟩ := (routesOk_iff s).mp h
    obtain ⟨htime, hkey, hroom⟩ := ho
    refine (routesOk_iff _).mpr ⟨hl, hr, ha, fun b hb => ?_⟩
    cases hb
    refine ⟨entryOk_opened htime, fun p hp => ?_, hroom, fun e he => ?_⟩
    · rw [List.eq_of_mem_replicate hp]
      exact ⟨(fun _ h => nomatch h), (fun _ h => nomatch h), (fun _ h => nomatch h)⟩
    · simpa using List.find?_eq_none.mp hkey e he
  stored {s b b'} hb hp h := by
    obtain ⟨hl, hr, ha, hok⟩ := (routesOk_iff s).mp h
    refine (routesOk_iff _).mpr ⟨hl, hr, ha, fun c hc => ?_⟩
    cases hc
    exact partStored_ok hp (hok b hb)
  installed {s b r} hb hroute h := by
    obtain ⟨hl, hr, ha, hok⟩ := (routesOk_iff s).mp h
    obtain ⟨hactive, hkey⟩ := activeOk_route hroute (hok b hb)
    obtain ⟨-, -, hroom, hother⟩ := hok b hb
    have hperm := insertRoute_perm { route := r, hits := 0, rejects := 0 } s.intake.routes
    refine (routesOk_iff _).mpr ⟨?_, insertRoute_ascends _ _ hr fun f hf he => ?_, fun e he => ?_, fun _ h => nomatch h⟩
    · show (insertRoute _ _).length ≤ _
      rw [hperm.length_eq]
      exact hroom
    · have hk := rank_injective (ha f hf).1.1 hactive.1.1 he
      exact hother f hf (hk.trans hkey)
    · rcases List.mem_cons.mp (hperm.mem_iff.mp he) with rfl | he
      · exact hactive
      · exact ha e he
  discarded h := by
    obtain ⟨hl, hr, ha, -⟩ := h
    exact ⟨hl, hr, ha, fun _ h => nomatch h⟩
  removed {s} k h := by
    obtain ⟨hl, hr, ha, hok⟩ := (routesOk_iff s).mp h
    have hsub := List.filter_sublist (p := fun f : RouteEntry => decide (f.route.key ≠ k)) (l := s.intake.routes)
    refine (routesOk_iff _).mpr ⟨hsub.length_le.trans hl, hr.sublist (hsub.map _), fun e he => ha e (hsub.subset he),
      fun b hb => ?_⟩
    obtain ⟨h1, h2, h3, h4⟩ := hok b hb
    exact ⟨h1, h2, Nat.lt_of_le_of_lt hsub.length_le h3, fun e he => h4 e (hsub.subset he)⟩

/-- Settles O7: each operation of the intake block keeps the order and the ranges; a build is opened for a key that is not ACTIVE while
there is room, so that its installation inserts a new rank. -/
theorem routesKept : Obligations.RoutesKept := fun _ _ hs ht => routesOk_kept.step ht hs

end Sys2Proof.Machine
end

section
/-! Reset (R6, R10, R17, R37, R45, R87, R100, R123, R149, R163, R173, R186). -/

namespace Sys2Proof.Machine

/-- The slots at reset, by their place: 0 to 15 internal slots, 16 to 95 frame slots (R37). -/
theorem slot_reset (n : Nat) (h : n < 96) :
    State.reset.slot n = if n < 16 then SlotRecord.internalNever else SlotRecord.frameNever := by
  show (List.replicate 16 SlotRecord.internalNever ++ List.replicate 80 SlotRecord.frameNever).getD n _ = _
  rw [List.getD_eq_getElem _ _ (by simpa using h), List.getElem_append]
  simp only [List.length_replicate, List.getElem_replicate]
  split <;> rfl

theorem channel_reset (c : Nat) (h : c < 8) : State.reset.channel c = Channel.powerOn := Bank.get_fill 8 c _ _ h

theorem rule_reset (i : Nat) : State.reset.rule i = Rule.blank := by
  by_cases h : i < 64
  · exact Bank.get_fill 64 i _ _ h
  · exact Bank.get_outside _ _ _ (Nat.le_of_not_lt h)

/-- Settles O3: the slots and the channels place by place, every other block as it is written down. -/
theorem resetValues : Obligations.ResetValues := by
  refine ⟨rfl, rfl, rfl, rfl, fun n hn => ?_, rfl, rfl, rfl, fun c hc => ?_, rfl, rfl, rfl, rfl, rfl, rfl, rfl, rfl, rfl,
    rfl, rfl, rfl, rfl, rfl, rfl, rfl⟩
  · rw [slot_reset n hn]
    split <;> rfl
  · rw [channel_reset c hc]
    rfl

theorem alertsOk_reset : AlertsOk State.reset := ⟨⟨Nat.zero_le _, List.nodup_nil⟩, fun _ => rfl⟩

theorem distanceOk_reset : DistanceOk State.reset.dist := by unfold DistanceOk; decide

theorem readoutOk_reset : ReadoutOk State.reset.tacho := ⟨List.nodup_nil, (fun _ h => nomatch h), fun _ => rfl⟩

/-- A FREE rule holds no alert code. -/
theorem codesOk_reset : CodesOk State.reset := by
  intro i j code _ _ hi
  unfold State.heldCode at hi
  rw [rule_reset] at hi
  cases hi

theorem linkOk_reset : LinkOk State.reset := ⟨⟨fun _ => rfl, fun _ => rfl⟩, fun _ => ⟨rfl, rfl, rfl, rfl⟩⟩

theorem paramsOk_reset : ParamsOk State.reset.mgmt := by unfold ParamsOk; decide

theorem recordsOk_reset : RecordsOk State.reset := by
  intro c hc
  rw [channel_reset c hc]
  exact ⟨by decide, by decide, by decide, by decide⟩

/-- Settles O4: each invariant at the power-on values of its block. -/
theorem invariantsAtReset : Obligations.InvariantsAtReset :=
  ⟨queuesOk_kept.reset, alertsOk_reset, routesOk_kept.reset, slotsOk_kept.reset, distanceOk_reset, readoutOk_reset,
    codesOk_reset, powerOk_kept.reset, linkOk_reset, paramsOk_reset, recordsOk_reset⟩

end Sys2Proof.Machine
end

section
/-! The raw field of an extractor, bit by bit (R13). -/

namespace Sys2Proof.Machine

/-- Whole bytes, the first most significant, are the same bytes reversed, the first least significant. -/
theorem beNat_eq (l : List Byte) : beNat l = frameBits l.reverse := by
  have h := beNat_fold l 0
  rwa [Nat.zero_mul, Nat.zero_add] at h

/-- A LOW_FIRST field takes the frame bits from the start bit up. -/
theorem rawField_lowFirst (a : ExtractorA) (d : List Byte) (h : a.order = .lowFirst) (i : Nat) :
    (rawField a d).testBit i =
      (decide (i < a.width) && (d.getD ((a.start + i) / 8) 0).getLsbD ((a.start + i) % 8)) := by
  unfold rawField
  rw [h]
  simp only []
  rw [Nat.testBit_mod_two_pow, Nat.testBit_div_two_pow, frameBits_testBit, Nat.add_comm i]

/-- A HIGH_FIRST field takes whole bytes, so its bit `i` counts from the end of the last of them. -/
theorem rawField_highFirst (a : ExtractorA) (d : List Byte) (h : a.order = .highFirst) (hs : a.start % 8 = 0)
    (hw : a.width % 8 = 0) (hd : a.start + a.width ≤ 8 * d.length) (i : Nat) :
    (rawField a d).testBit i =
      (decide (i < a.width) && (d.getD ((a.start + a.width - 1 - i) / 8) 0).getLsbD (i % 8)) := by
  have hlen : ((d.drop (a.start / 8)).take (a.width / 8)).length = a.width / 8 := by
    rw [List.length_take, List.length_drop]; omega
  unfold rawField
  rw [h]
  simp only []
  rw [beNat_eq, frameBits_testBit]
  by_cases hi : i < a.width
  · have hb : i / 8 < a.width / 8 := by omega
    have hplace : a.start / 8 + (a.width / 8 - 1 - i / 8) = (a.start + a.width - 1 - i) / 8 := by omega
    rw [List.getD_eq_getElem?_getD, List.getElem?_reverse (by rw [hlen]; exact hb), hlen, List.getElem?_take_of_lt (by omega),
      List.getElem?_drop, hplace, ← List.getD_eq_getElem?_getD, decide_eq_true hi, Bool.true_and]
  · have hb : a.width / 8 ≤ i / 8 := by omega
    rw [List.getD_eq_default _ _ (by rw [List.length_reverse, hlen]; exact hb), decide_eq_false hi, Bool.false_and]
    exact BitVec.getLsbD_zero

/-- The sign bit of a pattern of `w` bits says on which side of the middle it lies. -/
theorem testBit_sign {w n : Nat} (hw : 1 ≤ w) (hn : n < 2 ^ w) : n.testBit (w - 1) = true ↔ ¬ n < 2 ^ (w - 1) := by
  constructor
  · exact fun h => Nat.not_lt.mpr (Nat.ge_two_pow_of_testBit h)
  · intro h
    have hpow : 2 ^ w = 2 * 2 ^ (w - 1) := by rw [← Nat.pow_succ', Nat.succ_eq_add_one, Nat.sub_add_cancel hw]
    have hq : n / 2 ^ (w - 1) = 1 := Nat.div_eq_of_lt_le (by omega) (by omega)
    rw [Nat.testBit_eq_decide_div_mod_eq, hq]
    rfl

theorem rawValue_eq (a : ExtractorA) (hw : 1 ≤ a.width) (raw : Nat) (hr : raw < 2 ^ a.width) :
    rawValue a raw =
      if a.signed = true ∧ raw.testBit (a.width - 1) = true then (raw : Int) - 2 ^ a.width else raw := by
  unfold rawValue toSigned
  simp only [testBit_sign hw hr]
  by_cases hs : a.signed = true <;> by_cases hm : raw < 2 ^ (a.width - 1) <;> simp [hs, hm]

end Sys2Proof.Machine

namespace Sys2Proof

/-- Settles O31: bit by bit for both orders, and the value by the pattern's sign bit. -/
theorem rawField : Obligations.RawField := fun a d =>
  ⟨Machine.rawField_lowFirst a d, Machine.rawField_highFirst a d, Machine.rawValue_eq a⟩

end Sys2Proof
end

section
/-! The classifier's paths that discard, and the requests that read the Route Table and the Signal Table (R8, R23, R36, R137, R164). -/

namespace Sys2Proof.Machine

/-! ### The paths that discard (R8, R137, R164) -/

@[simp] theorem port_dequeued (s : State) (rest : List FrameRecord) (p : Port) :
    ({ s with intake.queue := rest } : State).port p = s.port p := by cases p <;> rfl

theorem unroutedFrame_counts {s : State} {r : FrameRecord} {rest : List FrameRecord} (h : AtHead s r rest)
    (hm : s.isMgmt r = false) (hf : s.isForeign r = false) (hx : s.isXfer r = false)
    (hn : findRoute s.intake.routes r.key = none) :
    exec .unroutedFrame s = .next
      (({ s with intake.queue := rest }).setPort r.port
        { s.port r.port with unrouted := min ((s.port r.port).unrouted + 1) 65535 }) := by
  have hp : (s.isLookedUp r && (findRoute s.intake.routes r.key).isNone) = true := by
    simp [State.isLookedUp, hm, hf, hx, hn]
  show execUnroutedFrame s = _
  unfold execUnroutedFrame
  rw [takeHead_atHead h _ _ hp, port_dequeued]
  rfl

theorem foreignMgmt_counts {s : State} {r : FrameRecord} {rest : List FrameRecord} (h : AtHead s r rest)
    (hp : r.port = .trailer) (hi : r.identifier = s.mgmtReqId) :
    exec .foreignMgmt s = .next
      { s with intake.queue := rest, portL.foreignMgmt := min (s.portL.foreignMgmt + 1) 65535 } := by
  have hf : s.isForeign r = true := by simp [State.isForeign, hp, hi]
  show execForeignMgmt s = _
  unfold execForeignMgmt
  rw [takeHead_atHead h _ _ hf]
  rfl

/-- A code that names no request (section 12.1). -/
theorem requestOf_none {code : Nat} (h : code ∉ requestCodes) : requestOf code = none := by
  unfold requestOf
  split <;> first | rfl | exact absurd (by decide) h

theorem badRequest_answers {s : State} {r : FrameRecord} {rest : List FrameRecord} (h : AtHead s r rest)
    (hp : r.port = .tractor) (hi : r.identifier = s.mgmtReqId) (hc : r.data.length ≠ 8 ∨ r.byte 0 ∉ requestCodes) :
    exec .badRequest s = .next (answered s r rest .badRequest []) := by
  have hm : s.isMgmt r = true := by simp [State.isMgmt, hp, hi]
  have hb : s.isBadRequest r = true := by
    unfold State.isBadRequest
    rw [hm, Bool.true_and, Bool.or_eq_true, decide_eq_true_eq]
    rcases hc with hc | hc
    · exact .inl hc
    · exact .inr (by rw [requestOf_none hc]; rfl)
  show execBadRequest s = _
  unfold execBadRequest
  rw [takeHead_atHead h _ _ hb]
  rfl

theorem xferStray_counts {s : State} {r : FrameRecord} {rest : List FrameRecord} (h : AtHead s r rest)
    (hp : r.port = .tractor) (hi : r.identifier = s.tachoXferId) (hm : r.identifier ≠ s.mgmtReqId)
    (hs : ∀ f, readXfer r = some f → StrayTo s.tacho.transfer f) :
    exec .xferStray s = .next { s with intake.queue := rest, tacho.stray := min (s.tacho.stray + 1) 65535 } := by
  have hx : s.isXfer r = true := by
    unfold State.isXfer State.isMgmt
    rw [decide_eq_true hp, decide_eq_true hi, decide_eq_false hm]
    rfl
  have hn : s.xferFrame r = none := by
    unfold State.xferFrame
    rw [if_pos hx, Option.filter_eq_none_iff]
    intro f hf
    rw [(takes_iff _ f).mpr (hs f hf)]
    exact Bool.false_ne_true
  have hstray : s.isStray r = true := by unfold State.isStray; rw [hx, hn]; rfl
  show execXferStray s = _
  unfold execXferStray
  rw [takeHead_atHead h _ _ hstray]
  rfl

/-- Settles O30: each path takes the record at the head by its own test and does what its count or its answer says. -/
theorem discardedRecords : Obligations.DiscardedRecords :=
  ⟨readXfer_spec, fun _ _ _ h =>
    ⟨unroutedFrame_counts h, foreignMgmt_counts h, badRequest_answers h, xferStray_counts h⟩⟩

/-! ### Requests of the Route Table and the Signal Table that read (R23, R36) -/

/-- A request with no effect is its answer. -/
theorem onRequest_answers {code : Nat} {s : State} {r : FrameRecord} {rest : List FrameRecord} (h : Asked code s r rest)
    {judge : FrameRecord → State → Verdict} {c : ResultCode} {d : List Byte}
    (hv : judge r { s with intake.queue := rest } = { result := c, data := d, effect := id }) :
    onRequest code judge s = .next (answered s r rest c d) := by
  rw [onRequest_asked h, hv]
  rfl

theorem keyWord_eq (k : RouteKey) : keyWord k = k.identifier + if k.port = .trailer then 2 ^ 31 else 0 := by
  unfold keyWord
  cases h : k.port <;> rfl

theorem routeRead_answers {s : State} {r : FrameRecord} {rest : List FrameRecord} (h : Asked 0x15 s r rest) :
    exec .routeRead s = .next
      (if 1 < r.byte 3 then answered s r rest .badArg []
       else
         match s.intake.routes[r.byte 2]? with
         | none => answered s r rest .notFound []
         | some e =>
           if r.byte 3 = 0 then
             answered s r rest .ok
               (u32 (e.route.key.identifier + if e.route.key.port = .trailer then 2 ^ 31 else 0))
           else answered s r rest .ok (u16 e.hits ++ u8 e.rejects ++ u8 e.route.extractors.length)) := by
  show onRequest 0x15 judgeRouteRead s = _
  split
  · next hb => exact onRequest_answers h (by unfold judgeRouteRead; rw [if_pos hb]; rfl)
  · next hb =>
    have hj : judgeRouteRead r { s with intake.queue := rest } =
        match s.intake.routes[r.byte 2]? with
        | none => refuse .notFound
        | some e =>
          if r.byte 3 = 0 then reads (u32 (keyWord e.route.key))
          else reads (u16 e.hits ++ u8 e.rejects ++ u8 e.route.extractors.length) := by
      unfold judgeRouteRead
      exact if_neg hb
    cases he : s.intake.routes[r.byte 2]? with
    | none => exact onRequest_answers h (by rw [hj, he]; rfl)
    | some e =>
      simp only []
      split
      · next h0 => exact onRequest_answers h (by rw [hj, he, ← keyWord_eq]; simp only [if_pos h0]; rfl)
      · next h0 => exact onRequest_answers h (by rw [hj, he]; simp only [if_neg h0]; rfl)

theorem readSlot_answers {s : State} {r : FrameRecord} {rest : List FrameRecord} (h : Asked 0x18 s r rest) :
    exec .readSlot s = .next
      (if 95 < r.byte 2 ∨ 3 < r.byte 3 then answered s r rest .badArg []
       else
         match r.byte 3 with
         | 0 => answered s r rest .ok (s32 (s.slot (r.byte 2)).value)
         | 1 =>
           answered s r rest .ok
             (u8 (s.slot (r.byte 2)).state.code ++ u16 ((s.slot (r.byte 2)).age s.slotTime) ++
               u8 (s.slot (r.byte 2)).writer.code)
         | 2 => answered s r rest .ok (u32 (s.slot (r.byte 2)).writer.identifier)
         | _ => answered s r rest .ok (u32 ((s.slot (r.byte 2)).timeout.getD 0))) := by
  show onRequest 0x18 judgeReadSlot s = _
  by_cases hb : 95 < r.byte 2
  · rw [if_pos (.inl hb)]
    exact onRequest_answers h (by unfold judgeReadSlot; rw [if_pos hb]; rfl)
  · have hj : judgeReadSlot r { s with intake.queue := rest } =
        match r.byte 3 with
        | 0 => reads (s32 (s.slot (r.byte 2)).value)
        | 1 =>
          reads (u8 (s.slot (r.byte 2)).state.code ++ u16 ((s.slot (r.byte 2)).age s.slotTime) ++
            u8 (s.slot (r.byte 2)).writer.code)
        | 2 => reads (u32 (s.slot (r.byte 2)).writer.identifier)
        | 3 => reads (u32 ((s.slot (r.byte 2)).timeout.getD 0))
        | _ => refuse .badArg := by
      unfold judgeReadSlot
      rw [if_neg hb]
      rfl
    generalize r.byte 3 = selector at hj ⊢
    match selector with
    | 0 => rw [if_neg (by omega)]; exact onRequest_answers h hj
    | 1 => rw [if_neg (by omega)]; exact onRequest_answers h hj
    | 2 => rw [if_neg (by omega)]; exact onRequest_answers h hj
    | 3 => rw [if_neg (by omega)]; exact onRequest_answers h hj
    | n + 4 => rw [if_pos (by omega)]; exact onRequest_answers h hj

/-- Settles O34: both requests answer by their selector and have no effect. -/
theorem tableReads : Obligations.TableReads := ⟨fun _ _ _ => routeRead_answers, fun _ _ _ => readSlot_answers⟩

end Sys2Proof.Machine
end

section
/-! The requests that build and delete a route entry (R18 to R22). -/

namespace Sys2Proof.Machine

/-- A request whose verdict is known is answered, and the verdict's effect follows. -/
theorem onRequest_verdict {code : Nat} {s : State} {r : FrameRecord} {rest : List FrameRecord} (h : Asked code s r rest)
    {judge : FrameRecord → State → Verdict} {v : Verdict} (hv : judge r { s with intake.queue := rest } = v) :
    onRequest code judge s = .next (v.effect (answered s r rest v.result v.data)) := by
  rw [onRequest_asked h, hv]

/-! ### ROUTE_DELETE (R22) -/

/-- Only the clock, the power state and the rules before the change matter to what the rules do. -/
theorem RulesFollow.of_eq {l : List Nat} {s u t : State} (hc : u.clock = s.clock) (hi : u.ign = s.ign)
    (ht : u.telltale = s.telltale) (h : RulesFollow l u t) : RulesFollow l s t := by
  have hr : ∀ i, u.rule i = s.rule i := fun i => by unfold State.rule; rw [ht]
  intro i a hrun hl ha hm
  have hrun' : RulesRun u := by unfold RulesRun; rw [hi]; exact hrun
  have e := h i a hrun' (by rw [hr]; exact hl) (by rw [hr]; exact ha) hm
  rw [hr, hc] at e
  exact e

theorem judgeRouteDelete_idle {s : State} {r : FrameRecord} (hs : ¬ Saving s) :
    judgeRouteDelete r s =
      if keySpare (r.long 2) ≠ 0 then refuse .badArg
      else
        match findRoute s.intake.routes (keyOfWord (r.long 2)) with
        | some e => accepts (fun t => t.deleteRoute e)
        | none =>
          if s.intake.build.map (·.key) = some (keyOfWord (r.long 2)) then
            accepts (fun t => { t with intake.build := none })
          else refuse .notFound :=
  unlessSaving_idle _ hs

/-- The slots of a deleted entry are reset one after another, and the rules that name one follow (R22, R28, R75). -/
theorem deleteRoute_resets (s : State) (e : RouteEntry) :
    Ripple (fun n => n ∈ e.route.slots ∨ onlyTacho n)
        { s with intake.routes := s.intake.routes.filter (fun f => decide (f.route.key ≠ e.route.key)) } (s.deleteRoute e) ∧
      ((∀ n ∈ e.route.slots, 16 ≤ n ∧ n < 96) → ∀ n ∈ e.route.slots, (s.deleteRoute e).slot n = SlotRecord.frameNever) ∧
      (e.route.slots.Nodup → (∀ n ∈ e.route.slots, 16 ≤ n ∧ n < 96) → RulesFollow e.route.slots s (s.deleteRoute e)) := by
  obtain ⟨R, hreset⟩ := reset_all e.route.slots
    { s with intake.routes := s.intake.routes.filter (fun f => decide (f.route.key ≠ e.route.key)) }
  refine ⟨R, fun hk n hn => hreset hk n (.inl hn), fun hd hk => ?_⟩
  have F := rulesFollow_fold State.resetSlot id reset_step (fun s n i => reset_rule s n i) e.route.slots
    { s with intake.routes := s.intake.routes.filter (fun f => decide (f.route.key ≠ e.route.key)) }
    (by rw [List.map_id]; exact hd) (by rw [List.map_id]; exact hk)
  rw [List.map_id] at F
  exact F.of_eq rfl rfl rfl

/-- Settles O33: the key decides between the refusal, the entry deleted, the build discarded and the key not found. -/
theorem routeDelete : Obligations.RouteDelete := by
  intro s r rest h hs
  have hj := judgeRouteDelete_idle (s := { s with intake.queue := rest }) (r := r) hs
  refine ⟨fun hk => ?_, fun hk hn => ?_, fun e hk he => ?_⟩
  · rw [if_pos hk] at hj
    exact onRequest_verdict h hj
  · rw [if_neg (not_not_intro hk)] at hj
    simp only [hn] at hj
    split
    · next hb =>
      rw [if_pos hb] at hj
      exact onRequest_verdict h hj
    · next hb =>
      rw [if_neg hb] at hj
      exact onRequest_verdict h hj
  · rw [if_neg (not_not_intro hk)] at hj
    simp only [he] at hj
    obtain ⟨R, hreset, hrules⟩ := deleteRoute_resets (answered s r rest .ok []) e
    rw [answered_routes] at R
    exact ⟨_, onRequest_verdict h hj, R, hreset, fun hd hk =>
      (hrules hd hk).of_eq (answered_clock ..) (answered_ign ..) (answered_telltale ..)⟩

/-! ### ROUTE_OPEN (R18) -/

theorem judgeRouteOpen_idle {s : State} {r : FrameRecord} {rest : List FrameRecord} (hs : ¬ Saving s) :
    judgeRouteOpen r { s with intake.queue := rest } =
      if (openedBuild r).key.identifier = s.mgmtReqId ∨ (openedBuild r).key.identifier = s.tachoXferId ∨
          timeoutPasses (openedBuild r).timeout = false then refuse .badArg
      else if (findRoute s.intake.routes (openedBuild r).key).isSome then refuse .present
      else if 128 ≤ s.intake.routes.length then refuse .full
      else accepts (fun t => t.openBuild (openedBuild r)) := by
  refine (unlessSaving_idle _ hs).trans ?_
  simp only [← or_assoc]
  by_cases hid : (openedBuild r).key.identifier = s.mgmtReqId ∨ (openedBuild r).key.identifier = s.tachoXferId
  · exact (if_pos hid).trans (if_pos (.inl hid)).symm
  · refine (if_neg hid).trans ?_
    simp only [hid, false_or]
    rfl

/-- Opening abandons a build that is unfinished, with its event (R18). -/
theorem openBuild_abandons (s : State) (b : Build) :
    (s.openBuild b).intake.build = some b ∧
      (s.intake.build = none → s.openBuild b = { s with intake.build := some b }) ∧
      (s.intake.build ≠ none → Flagged (s.openBuild b) .buildAbandoned) ∧
      Ripple (fun _ => False) { s with intake.build := some b } (s.openBuild b) := by
  refine ⟨rfl, fun hn => ?_, fun hb => ?_, ripple_build ?_ (some b)⟩
  · unfold State.openBuild State.abandonBuild
    rw [hn]
    rfl
  · have e : s.abandonBuild = s.raise .buildAbandoned := if_pos (Option.isSome_iff_ne_none.mpr hb)
    unfold State.openBuild
    rw [e]
    exact raise_flagged s .buildAbandoned
  · unfold State.abandonBuild
    split
    · exact ripple_raise (fun _ => False) s _
    · exact Ripple.refl _ s

theorem routeOpen_opens {s : State} {r : FrameRecord} {rest : List FrameRecord} (hs : ¬ Saving s) (h : Asked 0x10 s r rest) :
    let b := openedBuild r
    if b.key.identifier = s.mgmtReqId ∨ b.key.identifier = s.tachoXferId ∨ timeoutPasses b.timeout = false then
      exec .routeOpen s = .next (answered s r rest .badArg [])
    else if (findRoute s.intake.routes b.key).isSome then
      exec .routeOpen s = .next (answered s r rest .present [])
    else if 128 ≤ s.intake.routes.length then exec .routeOpen s = .next (answered s r rest .full [])
    else
      ∃ t, exec .routeOpen s = .next t ∧ t.intake.build = some b ∧
        (s.intake.build = none → t = { answered s r rest .ok [] with intake.build := some b }) ∧
        (s.intake.build ≠ none → Flagged t .buildAbandoned) ∧
        Ripple (fun _ => False) { answered s r rest .ok [] with intake.build := some b } t := by
  have hj := judgeRouteOpen_idle (r := r) (rest := rest) hs
  intro b
  split
  · next hbad => exact onRequest_verdict h (hj.trans (if_pos hbad))
  · next hbad =>
    have hj := hj.trans (if_neg hbad)
    split
    · next hfound => exact onRequest_verdict h (hj.trans (if_pos hfound))
    · next hfound =>
      have hj := hj.trans (if_neg hfound)
      split
      · next hfull => exact onRequest_verdict h (hj.trans (if_pos hfull))
      · next hfull =>
        have O := openBuild_abandons (answered s r rest .ok []) b
        rw [answered_build] at O
        exact ⟨_, onRequest_verdict h (hj.trans (if_neg hfull)), O⟩

/-! ### The parts of a build (R19 to R21) -/

/-- A part that passes completes the build, whose entry is installed, or is stored in it (R19 to R21). -/
theorem acceptPart_answers {code : Nat} {s : State} {r : FrameRecord} {rest : List FrameRecord} {b : Build}
    {judge : FrameRecord → State → Verdict} (h : Asked code s r rest)
    (hv : judge r { s with intake.queue := rest } = acceptPart b) :
    match b.route with
    | none => onRequest code judge s = .next { answered s r rest .ok [] with intake.build := some b }
    | some route =>
      onRequest code judge s = .next
        { answered s r rest .installed [] with
          intake.build := none,
          intake.routes := insertRoute { route := route, hits := 0, rejects := 0 } s.intake.routes } := by
  unfold acceptPart at hv
  cases hr : b.route with
  | none =>
    rw [hr] at hv
    exact onRequest_verdict h hv
  | some route =>
    rw [hr] at hv
    have hi : (answered s r rest .installed []).install route =
        { answered s r rest .installed [] with
          intake.build := none,
          intake.routes := insertRoute { route := route, hits := 0, rejects := 0 } s.intake.routes } := by
      unfold State.install
      rw [answered_routes]
    exact (onRequest_verdict h hv).trans (congrArg Host.Outcome.next hi)

/-- What a part is checked for decides its answer. -/
theorem part_answers {code : Nat} {s : State} {r : FrameRecord} {rest : List FrameRecord} {b : Build}
    {judge : FrameRecord → State → Verdict} {bad taken : Prop} [Decidable bad] [Decidable taken] (h : Asked code s r rest)
    (hv : judge r { s with intake.queue := rest } =
      if bad then refuse .badArg else if taken then refuse .conflict else acceptPart b) :
    if bad then onRequest code judge s = .next (answered s r rest .badArg [])
    else if taken then onRequest code judge s = .next (answered s r rest .conflict [])
    else
      match b.route with
      | none => onRequest code judge s = .next { answered s r rest .ok [] with intake.build := some b }
      | some route =>
        onRequest code judge s = .next
          { answered s r rest .installed [] with
            intake.build := none,
            intake.routes := insertRoute { route := route, hits := 0, rejects := 0 } s.intake.routes } := by
  split
  · next hb => exact onRequest_verdict h (hv.trans (if_pos hb))
  · next hb =>
    have hv := hv.trans (if_neg hb)
    split
    · next ht => exact onRequest_verdict h (hv.trans (if_pos ht))
    · next ht => exact acceptPart_answers h (hv.trans (if_neg ht))

section
variable {s : State} {r : FrameRecord} {rest : List FrameRecord} (hs : ¬ Saving s)
include hs

/-- Each part is refused without a build (R19, R20). -/
theorem judgeExt_noBuild (hb : s.intake.build = none) :
    judgeExtA r { s with intake.queue := rest } = refuse .wrongState ∧
      judgeExtB r { s with intake.queue := rest } = refuse .wrongState ∧
      judgeExtC r { s with intake.queue := rest } = refuse .wrongState := by
  refine ⟨(unlessSaving_idle _ hs).trans ?_, (unlessSaving_idle _ hs).trans ?_, (unlessSaving_idle _ hs).trans ?_⟩ <;> simp only [hb]

theorem judgeExtA_building {b : Build} (hb : s.intake.build = some b) :
    judgeExtA r { s with intake.queue := rest } =
      if b.parts.length ≤ r.byte 2 ∨ (partA r).passes b.length = false then refuse .badArg
      else if r.byte 6 ∈ s.routedSlots ++ b.otherSlots (r.byte 2) then refuse .conflict
      else acceptPart (b.setParts (r.byte 2) { b.partsAt (r.byte 2) with a := some (partA r) }) := by
  refine (unlessSaving_idle _ hs).trans ?_
  simp only [hb, ite_or, List.contains_iff_mem]
  rfl

theorem judgeExtB_building {b : Build} (hb : s.intake.build = some b) :
    judgeExtB r { s with intake.queue := rest } =
      if b.parts.length ≤ r.byte 2 ∨ (partB r).passes = false then refuse .badArg
      else acceptPart (b.setParts (r.byte 2) { b.partsAt (r.byte 2) with b := some (partB r) }) := by
  refine (unlessSaving_idle _ hs).trans ?_
  simp only [hb, ite_or]

theorem judgeExtC_building {b : Build} (hb : s.intake.build = some b) :
    judgeExtC r { s with intake.queue := rest } =
      if b.parts.length ≤ r.byte 2 then refuse .badArg
      else acceptPart (b.setParts (r.byte 2) { b.partsAt (r.byte 2) with c := some (r.signedLong 3) }) := by
  refine (unlessSaving_idle _ hs).trans ?_
  simp only [hb]

end

/-- Settles O32: the three parts answer by their checks, and a part that passes is stored or completes the build. -/
theorem routeBuild : Obligations.RouteBuild := by
  intro s r rest hs
  refine ⟨routeOpen_opens hs, fun code c hc h => ?_⟩
  simp only [List.mem_cons, Prod.mk.injEq, List.not_mem_nil, or_false] at hc
  rcases hc with ⟨rfl, rfl⟩ | ⟨rfl, rfl⟩ | ⟨rfl, rfl⟩
  case inl =>
    refine ⟨fun hb => onRequest_verdict h (judgeExt_noBuild hs hb).1, fun b hb q hq => ?_⟩
    subst hq
    refine part_answers h ((judgeExtA_building hs hb).trans ?_)
    simp [Build.setParts]
  case inr.inl =>
    refine ⟨fun hb => onRequest_verdict h (judgeExt_noBuild hs hb).2.1, fun b hb q hq => ?_⟩
    subst hq
    refine part_answers h ((judgeExtB_building hs hb).trans ?_)
    simp [Build.setParts]
  case inr.inr =>
    refine ⟨fun hb => onRequest_verdict h (judgeExt_noBuild hs hb).2.2, fun b hb q hq => ?_⟩
    subst hq
    refine part_answers h ((judgeExtC_building hs hb).trans ?_)
    simp [Build.setParts]

end Sys2Proof.Machine
end

section
/-! A record that hits an entry: its count, what its extractors make of the data, and what follows each slot written (R8, R13 to R15). -/

namespace Sys2Proof.Machine

/-! ### What an extractor makes of a frame (R14) -/

section
variable {x : Extractor} {d : List Byte}

theorem extract_notAvailable (hc : x.a.coded = true) (hw : 2 ≤ x.a.width) (hr : rawField x.a d = 2 ^ x.a.width - 1) :
    extract x d = .notAvailable := if_pos (by simp [hc, hw, hr])

/-- The two patterns of a coded field differ, so the second is an error. -/
theorem extract_error (hc : x.a.coded = true) (hw : 2 ≤ x.a.width) (hr : rawField x.a d = 2 ^ x.a.width - 2) :
    extract x d = .error := by
  have hpow : 2 ^ 2 ≤ 2 ^ x.a.width := Nat.pow_le_pow_right (by decide) hw
  have hne : rawField x.a d ≠ 2 ^ x.a.width - 1 := by omega
  exact (if_neg (by simp [hne])).trans (if_pos (by simp [hc, hw, hr]))

theorem extract_value (h : x.a.coded = false ∨ x.a.width < 2 ∨
      (rawField x.a d ≠ 2 ^ x.a.width - 1 ∧ rawField x.a d ≠ 2 ^ x.a.width - 2)) :
    extract x d =
      if fits32 (Int.tdiv (rawValue x.a (rawField x.a d) * x.b.multiplier) x.b.divisor + x.offset) = true then
        .fresh (Int.tdiv (rawValue x.a (rawField x.a d) * x.b.multiplier) x.b.divisor + x.offset)
      else .error := by
  have hno : ∀ k, k = 2 ^ x.a.width - 1 ∨ k = 2 ^ x.a.width - 2 →
      ¬ (x.a.coded && decide (2 ≤ x.a.width) && decide (rawField x.a d = k)) = true := by
    intro k hk hall
    simp only [Bool.and_eq_true, decide_eq_true_eq] at hall
    obtain ⟨⟨hc, hw⟩, hr⟩ := hall
    rcases h with h | h | ⟨h1, h2⟩
    · rw [hc] at h
      exact Bool.noConfusion h
    · omega
    · rcases hk with hk | hk
      · exact h1 (hr.trans hk)
      · exact h2 (hr.trans hk)
  exact (if_neg (hno _ (.inl rfl))).trans (if_neg (hno _ (.inr rfl)))

theorem fits32_iff (v : Int) : fits32 v = true ↔ -2147483648 ≤ v ∧ v ≤ 2147483647 := by
  unfold fits32
  rw [Bool.and_eq_true, decide_eq_true_eq, decide_eq_true_eq]

/-- `Extracts` names the one write that the model forms. -/
theorem extracts_iff {w : SlotWrite} : Extracts x d w ↔ w = extract x d := by
  constructor
  · rintro ⟨hna, herr, hval⟩
    by_cases h : x.a.coded = false ∨ x.a.width < 2 ∨
        (rawField x.a d ≠ 2 ^ x.a.width - 1 ∧ rawField x.a d ≠ 2 ^ x.a.width - 2)
    · obtain ⟨hin, hout⟩ := hval h _ rfl
      rw [extract_value h]
      split
      · next hf =>
        obtain ⟨hlo, hhi⟩ := (fits32_iff _).mp hf
        exact hin hlo hhi
      · next hf =>
        rw [fits32_iff] at hf
        exact hout (by omega)
    · simp only [not_or, not_lt, Bool.not_eq_false] at h
      obtain ⟨hc, hw, hr⟩ := h
      by_cases h1 : rawField x.a d = 2 ^ x.a.width - 1
      · exact (hna hc hw h1).trans (extract_notAvailable hc hw h1).symm
      · have h2 : rawField x.a d = 2 ^ x.a.width - 2 := by
          by_contra h2
          exact hr ⟨h1, h2⟩
        exact (herr hc hw h2).trans (extract_error hc hw h2).symm
  · rintro rfl
    refine ⟨extract_notAvailable, extract_error, fun h v hv => ?_⟩
    subst hv
    rw [extract_value h]
    refine ⟨fun hlo hhi => if_pos ((fits32_iff _).mpr ⟨hlo, hhi⟩), fun hout => if_neg ?_⟩
    rw [fits32_iff]
    omega

end

/-! ### The entry hit (R8, R15) -/

section
variable {s : State} {r : FrameRecord} {rest : List FrameRecord} {e : RouteEntry} (h : Hits s r rest e)
include h

theorem routedFrame_hits : exec .routedFrame s = .next (({ s with intake.queue := rest } : State).routeFrame e.route r) := by
  obtain ⟨hat, hm, hf, hx, he⟩ := h
  have hp : (s.isLookedUp r && (findRoute s.intake.routes r.key).isSome) = true := by
    simp [State.isLookedUp, hm, hf, hx, he]
  show execRoutedFrame s = _
  unfold execRoutedFrame
  rw [takeHead_atHead hat _ _ hp]
  simp only [he]

/-- A record of another length counts a length reject (R15). -/
theorem routedFrame_rejects (hl : r.data.length ≠ e.route.length) :
    exec .routedFrame s = .next
      { s with
        intake.queue := rest,
        intake.routes := s.intake.routes.map (fun f =>
          if f.route.key = e.route.key then { f with rejects := min (f.rejects + 1) 255 } else f) } := by
  rw [routedFrame_hits h]
  unfold State.routeFrame
  rw [decide_eq_false hl]
  rfl

/-- A record of the entry's length counts a hit, and each extractor in turn writes its slot (R15). -/
theorem routedFrame_extracts (hl : r.data.length = e.route.length) :
    exec .routedFrame s = .next (e.route.extractors.foldl (extractInto e.route r.data) (hitCounted s rest e)) := by
  rw [routedFrame_hits h]
  unfold State.routeFrame
  rw [decide_eq_true hl]
  rfl

end

theorem slot_hitCounted (s : State) (rest : List FrameRecord) (e : RouteEntry) (n : Nat) :
    (hitCounted s rest e).slot n = s.slot n := rfl

theorem extractInto_eq (route : Route) (d : List Byte) (s : State) (x : Extractor) :
    extractInto route d s x =
      s.changeSlot x.a.slot .write
        (slotAfter (s.slot x.a.slot) (extract x d) s.clock route.timeout route.key) := rfl

/-- The extractors of an entry write their slots, and the rules that name one follow (R14, R15, R75). -/
theorem extractors_write (s : State) (route : Route) (d : List Byte) (hd : route.slots.Nodup)
    (hk : ∀ n ∈ route.slots, 16 ≤ n ∧ n < 96) :
    (∀ x ∈ route.extractors, ∃ w, Extracts x d w ∧
        (route.extractors.foldl (extractInto route d) s).slot x.a.slot =
          slotAfter (s.slot x.a.slot) w s.clock route.timeout route.key) ∧
      RulesFollow route.slots s (route.extractors.foldl (extractInto route d) s) := by
  obtain ⟨-, hwrite⟩ := extract_all route d route.extractors s hd fun x hx => hk _ (List.mem_map_of_mem hx)
  refine ⟨fun x hx => ⟨extract x d, extracts_iff.mpr rfl, hwrite x hx⟩, ?_⟩
  exact rulesFollow_fold (extractInto route d) (fun x => x.a.slot) (fun s x => extract_step s route d x)
    (fun s x i => extract_rule s route d x i) route.extractors s hd hk

/-- Settles O29: the length decides between the reject and the extractors, and each extractor's write is what `Extracts` names. -/
theorem routedFrame : Obligations.RoutedFrame := by
  intro s r rest e h
  refine ⟨routedFrame_rejects h, fun hl => ?_, fun x w hland hp => ?_⟩
  · refine ⟨_, routedFrame_extracts h hl, extract_ripple e.route r.data e.route.extractors _, fun hd hk => ?_, fun hd hk => ?_⟩
    · exact (extractors_write (hitCounted s rest e) e.route r.data hd hk).1
    · exact (extractors_write (hitCounted s rest e) e.route r.data hd hk).2.of_eq rfl rfl rfl
  · obtain ⟨-, hl, hx, hlo, -, hw⟩ := hland
    rw [extracts_iff] at hw
    subst hw
    have hrun := routedFrame_extracts h hl
    rw [hx, List.foldl_cons, List.foldl_nil, extractInto_eq, slot_hitCounted] at hrun
    obtain ⟨u, hu, hlink, hdisplay⟩ := changeSlot_told (hitCounted s rest e) x.a.slot .write
      (slotAfter (s.slot x.a.slot) (extract x r.data) s.clock e.route.timeout e.route.key) hlo hp
    exact ⟨u, _, hrun, hu, hlink, hdisplay⟩

end Sys2Proof.Machine
end

section
/-! The commands of the two CAN ports and the transmit queue (R1 to R9). -/

namespace Sys2Proof.Machine

/-! ### A port replaced -/

@[simp] theorem setPort_port (s : State) (p : Port) : s.setPort p (s.port p) = s := by cases p <;> rfl

@[simp] theorem setPort_setPort (s : State) (p : Port) (b c : PortBlock) : (s.setPort p b).setPort p c = s.setPort p c := by
  cases p <;> rfl

@[simp] theorem port_reach (s : State) (due : Nat) (p : Port) : (s.reach due).port p = s.port p := by cases p <;> rfl

/-! ### Errors, recovery and silence (R2 to R4) -/

section
variable {s : State} {p : Port}

/-- A port that is off or in BUS_OFF counts no error (R2). -/
theorem portErrors_ignored (h : (s.port p).on = false ∨ (s.port p).state = .busOff) :
    exec (.rxErrorDetected p) s = .next s ∧ exec (.txErrorDetected p) s = .next s := by
  have hw : ¬ (s.port p).working = true := by simp [working_off _ h]
  exact ⟨congrArg Host.Outcome.next (if_neg hw), congrArg Host.Outcome.next (if_neg hw)⟩

theorem rxError_counts (hon : (s.port p).on = true) (hb : (s.port p).state ≠ .busOff) :
    exec (.rxErrorDetected p) s = .next
      (s.setPort p
        { s.port p with
          rxErrors := min ((s.port p).rxErrors + 1) 255,
          state := if (s.port p).txErrors < 128 ∧ min ((s.port p).rxErrors + 1) 255 < 128 then .active else .passive }) := by
  show execRxErrorDetected p s = _
  unfold execRxErrorDetected
  rw [if_pos (working_on _ hon hb), judge_eq]
  rfl

theorem txError_runs (hon : (s.port p).on = true) (hb : (s.port p).state ≠ .busOff) :
    exec (.txErrorDetected p) s = .next (s.countTxError p) :=
  congrArg Host.Outcome.next (if_pos (working_on _ hon hb))

theorem countTxError_low (h : (s.port p).txErrors + 8 < 256) :
    s.countTxError p =
      s.setPort p
        { s.port p with
          txErrors := (s.port p).txErrors + 8,
          state := if (s.port p).txErrors + 8 < 128 ∧ (s.port p).rxErrors < 128 then .active else .passive } := by
  have hmin : min 256 ((s.port p).txErrors + 8) = (s.port p).txErrors + 8 := by omega
  unfold State.countTxError
  simp only [hmin, judge_eq]
  exact if_neg (by omega)

theorem countTxError_high (h : 256 ≤ (s.port p).txErrors + 8) :
    s.countTxError p =
      (s.setPort p
        { s.port p with txErrors := 256, state := .busOff, recovery := some (s.clock + 200000) }).raise
        (if p = .tractor then .busOffT else .busOffL) := by
  have hmin : min 256 ((s.port p).txErrors + 8) = 256 := by omega
  have hflag : busOffFlag p = if p = .tractor then .busOffT else .busOffL := by cases p <;> rfl
  unfold State.countTxError
  simp only [hmin, hflag]
  exact if_pos trivial

theorem recovery_ends {due : Nat} (h : (s.port p).recovery = some due) :
    exec (.busOffRecoveryExpiry p) s = .next
      ((s.reach due).setPort p { s.port p with state := .active, txErrors := 0, rxErrors := 0, recovery := none }) := by
  show execBusOffRecoveryExpiry p s = _
  unfold execBusOffRecoveryExpiry onExpiry
  simp only [h, port_reach]

theorem silence_runs {due : Nat} (h : (s.port p).silence = some due) :
    exec (.silenceTimerExpiry p) s = .next ((s.reach due).fallSilent p) := by
  show execSilenceTimerExpiry p s = _
  unfold execSilenceTimerExpiry onExpiry
  simp only [h]

end

/-- The OK slot is written 0, and on port T NETWORK_LOST is pushed (R4). -/
theorem fallSilent_spec (s : State) (p : Port) :
    ∃ u, Shows (s.fallSilent p) (okSlot p) 0 ∧ Shows u (okSlot p) 0 ∧
      Ripple (fun n => n = okSlot p ∨ n = 13)
        (s.setPort p { s.port p with silence := none, lost := true, awaiting := true }) u ∧
      s.fallSilent p = (if p = .tractor then u.push 0xF002 .caution .port else u) ∧
      Ripple (fun n => n = okSlot p ∨ n = 13)
        (s.setPort p { s.port p with silence := none, lost := true, awaiting := true }) (s.fallSilent p) := by
  obtain ⟨hlt, h13⟩ := okSlot_lt p
  have hshow := writePlain_shows
    (s.setPort p { s.port p with silence := none, lost := true, awaiting := true }) (okSlot p) 0 hlt h13
  have R := ripple_writePlain (fun n => n = okSlot p ∨ n = 13)
    (s.setPort p { s.port p with silence := none, lost := true, awaiting := true }) (okSlot p) (.fresh 0) (.inl rfl) (.inr rfl)
  refine ⟨_, ?_, hshow, R, rfl, ?_⟩ <;> unfold State.fallSilent <;> simp only [] <;> split
  · exact (ripple_push (· = 13) _ 0xF002 .caution .port rfl).shows h13 hshow
  · exact hshow
  · exact R.trans (ripple_push _ _ 0xF002 .caution .port (.inr rfl))
  · exact R

/-- Settles O28: each command of a port's errors and timers comes to the change that it states. -/
theorem portErrors : Obligations.PortErrors := by
  refine ⟨fun _ _ => rxError_counts, fun s p hon hb hlow => ?_, fun s p hon hb hhigh => ?_, fun _ _ _ => recovery_ends,
    fun s p due hdue => ?_, fun _ _ => portErrors_ignored⟩
  · rw [txError_runs hon hb, countTxError_low hlow]
  · refine ⟨_, txError_runs hon hb, ?_⟩
    rw [countTxError_high hhigh]
    exact ⟨raise_flagged _ _, ripple_raise _ _ _⟩
  · obtain ⟨u, hu⟩ := fallSilent_spec (s.reach due) p
    rw [port_reach] at hu
    exact ⟨_, u, silence_runs hdue, hu⟩

/-! ### Valid frames (R1, R2, R4, R7) -/

/-- The port once a frame has been kept or discarded by its format, with `queued` records waiting (R1, R7). -/
def PortBlock.sorted (b : PortBlock) (f : BusFrame) (queued : Nat) : PortBlock :=
  { b with
    received := if f.extended = true ∧ f.remote = false then min (b.received + 1) 65535 else b.received,
    stdDiscard := if f.extended = true ∧ f.remote = false then b.stdDiscard else min (b.stdDiscard + 1) 65535,
    queueDrop :=
      if f.extended = true ∧ f.remote = false ∧ 32 ≤ queued then min (b.queueDrop + 1) 65535 else b.queueDrop }

/-- The intake queue once the frame has been offered (R1, R7). -/
def queueTaking (queue : List FrameRecord) (p : Port) (f : BusFrame) : List FrameRecord :=
  if f.extended = true ∧ f.remote = false ∧ queue.length < 32 then
    queue ++ [{ port := p, identifier := f.identifier % 2 ^ 29, data := frameData f }]
  else queue

/-- The state once a frame has been kept or discarded, before the event of a full queue. -/
def State.sorted (s : State) (p : Port) (f : BusFrame) : State :=
  { s.setPort p ((s.port p).sorted f s.intake.queue.length) with intake.queue := queueTaking s.intake.queue p f }

/-- A frame kept or discarded by its format; a full queue drops it with its event (R1, R7). -/
theorem sortFrame_eq (s : State) (p : Port) (f : BusFrame) :
    s.sortFrame p f =
      if f.extended = true ∧ f.remote = false ∧ 32 ≤ s.intake.queue.length then (s.sorted p f).raise .intakeOverflow
      else s.sorted p f := by
  unfold State.sortFrame State.sorted PortBlock.sorted queueTaking
  by_cases hdata : f.extended = true ∧ f.remote = false
  · obtain ⟨he, hr⟩ := hdata
    unfold State.intakeOffer
    by_cases hfull : 32 ≤ s.intake.queue.length
    · have hroom : ¬ s.intake.queue.length < 32 := by omega
      simp [he, hr, hfull, hroom, intakeRoom, satInc, count16, State.port_setPort_same]
      cases p <;> rfl
    · have hroom : s.intake.queue.length < 32 := by omega
      simp [he, hr, hfull, hroom, intakeRoom, satInc, count16]
  · have hn : ¬ (f.extended && !f.remote) = true := by simpa using hdata
    have h3 : ∀ c : Prop, ¬ (f.extended = true ∧ f.remote = false ∧ c) := fun c hc => hdata ⟨hc.1, hc.2.1⟩
    simp only [if_neg hn, if_neg hdata, if_neg (h3 _)]
    cases p <;> rfl

@[simp] theorem sortFrame_alert (s : State) (p : Port) (f : BusFrame) : (s.sortFrame p f).alert = s.alert := by
  have hs : (s.sorted p f).alert = s.alert := State.setPort_alert s p _
  rw [sortFrame_eq]
  split
  · rw [State.raise_alert, hs]
  · exact hs

@[simp] theorem sortFrame_table (s : State) (p : Port) (f : BusFrame) : (s.sortFrame p f).table = s.table := by
  have hs : (s.sorted p f).table = s.table := State.setPort_table s p _
  rw [sortFrame_eq]
  split
  · rw [State.raise_table, hs]
  · exact hs

theorem sortFrame_overflows {s : State} {p : Port} {f : BusFrame}
    (h : f.extended = true ∧ f.remote = false ∧ 32 ≤ s.intake.queue.length) : Flagged (s.sortFrame p f) .intakeOverflow := by
  rw [sortFrame_eq, if_pos h]
  exact raise_flagged _ _

/-- What comes before the frame is sorted does not mix with it: the sorting follows from the queue and the counts alone. -/
theorem sortFrame_ripple {ch : Nat → Prop} {s t : State} (R : Ripple ch s t) (p : Port) (f : BusFrame) :
    Ripple ch (s.sorted p f) (t.sortFrame p f) := by
  have hcounts := ripple_portCounts R p (fun b => b.sorted f s.intake.queue.length) fun _ => rfl
  have hsorted : Ripple ch (s.sorted p f) (t.sorted p f) := by
    have hq := ripple_queue hcounts (queueTaking s.intake.queue p f)
    unfold State.sorted
    rw [R.queue]
    exact hq
  rw [sortFrame_eq]
  split
  · exact hsorted.trans (ripple_raise ch _ _)
  · exact hsorted

/-- The state once a port has heard a frame and its OK slot stands written, before a loss is released (R4). -/
def State.okWritten (s : State) (p : Port) : State :=
  if (s.port p).awaiting then (s.setPort p (heard s p)).writePlain (okSlot p) (.fresh 1) else s.setPort p (heard s p)

theorem okWritten_ripple (s : State) (p : Port) :
    Ripple (fun n => (s.port p).awaiting = true ∧ (n = okSlot p ∨ n = 13)) (s.setPort p (heard s p)) (s.okWritten p) := by
  unfold State.okWritten
  split
  · next ha => exact ripple_writePlain _ _ (okSlot p) (.fresh 1) ⟨ha, .inl rfl⟩ ⟨ha, .inr rfl⟩
  · exact Ripple.refl _ _

theorem okWritten_shows {s : State} {p : Port} (ha : (s.port p).awaiting = true) : Shows (s.okWritten p) (okSlot p) 1 := by
  unfold State.okWritten
  rw [if_pos ha]
  exact writePlain_shows _ _ _ (okSlot_lt p).1 (okSlot_lt p).2

/-- Against the port as it then stands, writing the OK slot is a ripple from the state before the frame. -/
theorem okWritten_fromBefore (s : State) (p : Port) :
    Ripple (fun n => (s.port p).awaiting = true ∧ (n = okSlot p ∨ n = 13)) (s.setPort p ((s.okWritten p).port p))
      (s.okWritten p) := by
  have R := ripple_portCounts (okWritten_ripple s p) p (fun _ => (s.okWritten p).port p) fun _ => rfl
  rw [setPort_setPort, setPort_port] at R
  exact R

/-- A loss on port T is released behind the write (R4). -/
theorem hearFrame_eq (s : State) (p : Port) :
    s.hearFrame p =
      if (s.port p).awaiting = true ∧ (s.port p).lost = true ∧ p = .tractor then (s.okWritten p).release 0xF002 .port
      else s.okWritten p := by
  unfold State.hearFrame State.okWritten
  by_cases ha : (s.port p).awaiting = true
  · simp [ha]
    rfl
  · simp [ha]
    rfl

/-- The port and the queue once a valid frame has been heard and sorted (R1, R2, R4, R7). -/
theorem heard_sorted (s : State) (p : Port) (f : BusFrame) :
    (s.setPort p (heard s p)).sorted p f =
      { s.setPort p
          { s.port p with
            txErrors := if p = .trailer then (s.port p).txErrors - 1 else (s.port p).txErrors,
            rxErrors := (s.port p).rxErrors - 1,
            state :=
              if (if p = .trailer then (s.port p).txErrors - 1 else (s.port p).txErrors) < 128 ∧
                  (s.port p).rxErrors - 1 < 128 then .active else .passive,
            silence := some (s.clock + 1000 * s.paramNat 2), awaiting := false, lost := false,
            received :=
              if f.extended = true ∧ f.remote = false then min ((s.port p).received + 1) 65535
              else (s.port p).received,
            stdDiscard :=
              if f.extended = true ∧ f.remote = false then (s.port p).stdDiscard
              else min ((s.port p).stdDiscard + 1) 65535,
            queueDrop :=
              if f.extended = true ∧ f.remote = false ∧ 32 ≤ s.intake.queue.length then
                min ((s.port p).queueDrop + 1) 65535
              else (s.port p).queueDrop } with
        intake.queue :=
          if f.extended = true ∧ f.remote = false ∧ s.intake.queue.length < 32 then
            s.intake.queue ++ [{ port := p, identifier := f.identifier % 2 ^ 29, data := frameData f }]
          else s.intake.queue } := by
  have hms : ms (s.paramNat 2) = 1000 * s.paramNat 2 := Nat.mul_comm _ _
  unfold State.sorted heard PortBlock.received1 State.after
  rw [judge_eq, hms, State.port_setPort_same, setPort_setPort]
  cases p <;> rfl

theorem validFrame_taken {s : State} {p : Port} (f : BusFrame) (hon : (s.port p).on = true) (hb : (s.port p).state ≠ .busOff) :
    exec (.validFrameReceived p f) s = .next ((s.hearFrame p).sortFrame p f) :=
  congrArg Host.Outcome.next (if_pos (working_on _ hon hb))

theorem validFrame_ignored {s : State} {p : Port} (f : BusFrame) (h : (s.port p).on = false ∨ (s.port p).state = .busOff) :
    exec (.validFrameReceived p f) s = .next s :=
  congrArg Host.Outcome.next (if_neg (by simp [working_off _ h]))

theorem txFrameComplete_sends {s : State} {head : TxFrame} {rest : List TxFrame} (hon : s.portT.on = true)
    (hb : s.portT.state ≠ .busOff) (ht : s.intake.transmit = head :: rest) :
    exec .txFrameComplete s = .next
      { s with
        intake.transmit := rest,
        portT.txErrors := s.portT.txErrors - 1,
        portT.state := if s.portT.txErrors - 1 < 128 ∧ s.portT.rxErrors < 128 then .active else .passive,
        mgmt.restart := s.mgmt.restart.map (fun p => { p with ahead := p.ahead - 1 }) } := by
  show execTxFrameComplete s = _
  unfold execTxFrameComplete State.frameSent
  rw [if_pos (by simp [working_on _ hon hb, ht]), judge_eq, ht]
  rfl

theorem txFrameComplete_ignored {s : State}
    (h : s.portT.on = false ∨ s.portT.state = .busOff ∨ s.intake.transmit = []) : exec .txFrameComplete s = .next s := by
  refine congrArg Host.Outcome.next (if_neg ?_)
  rw [← or_assoc] at h
  rcases h with h | h
  · simp [working_off _ h]
  · simp [h]

/-- Settles O27: the frame is heard and then sorted, and the sorting leaves the alert block as hearing has left it. -/
theorem portFrames : Obligations.PortFrames := by
  refine ⟨fun s p f hon hb => ?_, fun _ _ f => validFrame_ignored f, fun _ _ _ => txFrameComplete_sends,
    fun _ => txFrameComplete_ignored⟩
  have R := sortFrame_ripple (hear_ripple s p) p f
  have hqueue : (s.hearFrame p).intake.queue = s.intake.queue :=
    (hear_ripple s p).queue.trans (congrArg Intake.queue (setPort_queue s p _))
  refine ⟨_, s.okWritten p, validFrame_taken f hon hb, fun ha => ⟨okWritten_shows ha, ?_⟩, okWritten_fromBefore s p, ?_,
    fun ha => ?_, fun hfull => ?_, ?_⟩
  · have hshow := hear_shows s p ha
    unfold Shows State.slot at hshow ⊢
    rw [sortFrame_table]
    exact hshow
  · rw [sortFrame_alert, hearFrame_eq]
  · have hneg : ¬ (s.port p).awaiting = true := by rw [ha]; exact Bool.false_ne_true
    rw [sortFrame_alert, hearFrame_eq, if_neg (fun h => hneg h.1), State.okWritten, if_neg hneg, State.setPort_alert]
  · exact sortFrame_overflows (by rw [hqueue]; exact hfull)
  · rw [← heard_sorted]
    exact R

end Sys2Proof.Machine
end

section
/-! The timers, said once, and the expiry of a slot (R27, R31, R37). -/

namespace Sys2Proof.Machine

/-! ### A timer's expiry -/

theorem onExpiry_running {timer : Timer} {due : Nat} (h : timer = some due) (f : State → State) (s : State) :
    onExpiry timer f s = .next (f (s.reach due)) := by
  subst h
  rfl

theorem onExpiry_stopped {timer : Timer} (h : timer = none) (f : State → State) (s : State) : onExpiry timer f s = .next s := by
  subst h
  rfl

/-! ### SLOT_EXPIRY -/

/-- A record in NEVER or STALE, or with no timeout, has no moment of expiry (R27). -/
theorem expiresAt_none {r : SlotRecord} (h : r.timeout = none ∨ r.state = .never ∨ r.state = .stale) : r.expiresAt = none := by
  unfold SlotRecord.expiresAt
  rcases h with h | h | h
  · rw [h]
    cases r.state <;> rfl
  · rw [h]
  · rw [h]

theorem expiresAt_some {r : SlotRecord} {timeout : Nat} (h : r.timeout = some timeout) (hn : r.state ≠ .never)
    (hs : r.state ≠ .stale) : r.expiresAt = some (r.stamp + 1000 * timeout) := by
  unfold SlotRecord.expiresAt
  rw [h, Nat.mul_comm 1000]
  cases hr : r.state with
  | never => exact absurd hr hn
  | stale => exact absurd hr hs
  | fresh => rfl
  | notAvailable => rfl
  | error => rfl

theorem slotDue_none {s : State} {n : Nat}
    (h : s.table.frozenAt ≠ none ∨ (s.slot n).timeout = none ∨ (s.slot n).state = .never ∨ (s.slot n).state = .stale) :
    s.slotDue n = none := by
  unfold State.slotDue
  cases hf : s.table.frozenAt with
  | some m => rfl
  | none => exact expiresAt_none (h.resolve_left fun hne => hne hf)

/-- A changed frame slot holds the new record once its event has been delivered: the consumers write slots 4 to 9 and 13 alone. -/
theorem slot_changeSlot {s : State} {n : Nat} (c : Cause) (new : SlotRecord) (hlo : 16 ≤ n) (hhi : n < 96) :
    (s.changeSlot n c new).slot n = new := by
  have R := ripple_announce onlyTacho (fun _ h => h) (s.putSlot n new) (eventOf n c (s.slot n) new)
  have hn : ¬ onlyTacho n := by
    unfold onlyTacho
    omega
  exact (R.slots n hn).trans (State.slot_putSlot_same s n new hhi)

theorem exec_slotExpiry (s : State) (n : Nat) :
    exec (.slotExpiry n) s = onExpiry (s.slotDue n) (fun t => t.expireSlot n) s := rfl

/-- Settles O35: the timer of an expiring record gives the moment, and the change of the slot is `changeSlot`. -/
theorem slotExpires : Obligations.SlotExpires := by
  intro s n hn
  rw [exec_slotExpiry]
  refine ⟨fun h => onExpiry_stopped (slotDue_none h) _ s, fun timeout hlo hf ht hnever hstale => ?_⟩
  have hdue : s.slotDue n = some ((s.slot n).stamp + 1000 * timeout) := by
    unfold State.slotDue
    rw [hf]
    exact expiresAt_some ht hnever hstale
  have R := ripple_changeSlot (fun m => m = n ∨ onlyTacho m) (fun _ h => .inr h)
    (s.reach ((s.slot n).stamp + 1000 * timeout)) n .expiry (s.slot n).expired (.inl rfl)
  exact ⟨_, onExpiry_running hdue _ s, R.clock, slot_changeSlot .expiry _ hlo hn, R,
    changeSlot_told (s.reach ((s.slot n).stamp + 1000 * timeout)) n .expiry (s.slot n).expired hlo⟩

end Sys2Proof.Machine
end

section
/-! The frames of a card transfer, its timer and its end (R136 to R143, R194, R195). -/

namespace Sys2Proof.Machine

/-! ### A frame that the transfer in flight takes (R137) -/

section
variable {s : State} {r : FrameRecord} {rest : List FrameRecord} {f : XferFrame}

theorem xferFrame_taken (hx : s.isXfer r = true) (hr : readXfer r = some f) (ht : s.tacho.transfer.takes f = true) :
    s.xferFrame r = some f := by
  unfold State.xferFrame
  rw [if_pos hx, hr]
  exact Option.filter_eq_some_iff.mpr ⟨rfl, ht⟩

/-- The record at the head is a transfer frame that the transfer in flight takes. -/
structure TakesFrame (s : State) (r : FrameRecord) (rest : List FrameRecord) (f : XferFrame) : Prop where
  head : AtHead s r rest
  reads : readXfer r = some f
  frame : s.xferFrame r = some f

theorem takesFrame_of_driver (hat : AtHead s r rest) (hx : s.isXfer r = true) (hr : readXfer r = some f)
    (hd : s.tacho.transfer.driver = some f.driver) : TakesFrame s r rest f := by
  refine ⟨hat, hr, xferFrame_taken hx hr ?_⟩
  unfold Transfer.driver at hd
  cases ht : s.tacho.transfer with
  | idle =>
    rw [ht] at hd
    exact nomatch hd
  | requested d attempt =>
    rw [ht] at hd
    have hd : d = f.driver := Option.some.inj hd
    cases f <;> simp_all [Transfer.takes]
  | receiving d attempt total expected count payload =>
    rw [ht] at hd
    have hd : d = f.driver := Option.some.inj hd
    simp [Transfer.takes, hd]

/-- An OPEN of any driver reaches a transfer in REQUESTED (R137, R138). -/
theorem takesFrame_open {d e : Driver} {attempt total : Nat} (hat : AtHead s r rest) (hx : s.isXfer r = true)
    (hr : readXfer r = some (.opening e total)) (ht : s.tacho.transfer = .requested d attempt) :
    TakesFrame s r rest (.opening e total) :=
  ⟨hat, hr, xferFrame_taken hx hr (by rw [ht]; rfl)⟩

theorem TakesFrame.xferOpen {d : Driver} {total : Nat} (h : TakesFrame s r rest (.opening d total)) :
    exec .xferOpen s = .next (({ s with intake.queue := rest } : State).takeOpen d total) := by
  show execXferOpen s = _
  unfold execXferOpen
  rw [takeHead_atHead h.head _ _ (by simp [State.isOpen, h.frame])]
  simp only [h.reads]

theorem TakesFrame.xferData {d : Driver} {number : Nat} {bytes : List Byte} (h : TakesFrame s r rest (.data d number bytes)) :
    exec .xferData s = .next (({ s with intake.queue := rest } : State).takeData number bytes) := by
  show execXferData s = _
  unfold execXferData
  rw [takeHead_atHead h.head _ _ (by simp [State.isData, h.frame])]
  simp only [h.reads]

theorem TakesFrame.xferClose {d : Driver} {crc : BitVec 16} (h : TakesFrame s r rest (.closing d crc)) :
    exec .xferClose s = .next (({ s with intake.queue := rest } : State).takeClose crc) := by
  show execXferClose s = _
  unfold execXferClose
  rw [takeHead_atHead h.head _ _ (by simp [State.isClose, h.frame])]
  simp only [h.reads]

theorem TakesFrame.xferAbort {d : Driver} (h : TakesFrame s r rest (.aborting d)) :
    exec .xferAbort s = .next ({ s with intake.queue := rest } : State).takeAbort := by
  show execXferAbort s = _
  unfold execXferAbort
  rw [takeHead_atHead h.head _ _ (by simp [State.isAbort, h.frame])]

end

/-! ### What a frame does in each state of the transfer (R138 to R140) -/

section
variable {s : State} {d : Driver} {attempt : Nat}

section
variable (ht : s.tacho.transfer = .requested d attempt)
include ht

theorem takeOpen_requested (e : Driver) (total : Nat) :
    s.takeOpen e total =
      if e = d then
        if 25 ≤ total ∧ total ≤ 49 then
          { s with
            tacho.transfer := .receiving d attempt total ((total + 5) / 6) 0 [],
            tacho.transferTimer := some (s.clock + 500000) }
        else s.failTransfer d attempt .format
      else s.failTransfer d attempt .sequence := by
  unfold State.takeOpen
  rw [ht]
  rfl

theorem takeData_requested (number : Nat) (bytes : List Byte) :
    s.takeData number bytes = s.failTransfer d attempt .sequence := by
  unfold State.takeData
  rw [ht]

theorem takeClose_requested (crc : BitVec 16) : s.takeClose crc = s.failTransfer d attempt .sequence := by
  unfold State.takeClose
  rw [ht]

theorem takeAbort_requested : s.takeAbort = s.failTransfer d attempt .aborted := by
  unfold State.takeAbort
  rw [ht]

end

section
variable {total expected count : Nat} {payload : List Byte}
  (ht : s.tacho.transfer = .receiving d attempt total expected count payload)
include ht

theorem takeOpen_receiving (e : Driver) (announced : Nat) :
    s.takeOpen e announced = s.failTransfer d attempt .sequence := by
  unfold State.takeOpen
  rw [ht]

theorem takeData_receiving (number : Nat) (bytes : List Byte) :
    s.takeData number bytes =
      if expected ≤ count then s.failTransfer d attempt .length
      else if number = count then
        { s with
          tacho.transfer := .receiving d attempt total expected (count + 1) ((payload ++ bytes).take total),
          tacho.transferTimer := some (s.clock + 500000) }
      else s.failTransfer d attempt .sequence := by
  unfold State.takeData
  rw [ht]
  rfl

theorem takeClose_short (crc : BitVec 16) (h : count < expected) : s.takeClose crc = s.failTransfer d attempt .length := by
  unfold State.takeClose
  rw [ht]
  exact if_pos h

theorem takeClose_whole (crc : BitVec 16) (h : expected ≤ count) :
    s.takeClose crc =
      if crc16 payload ≠ crc then s.failTransfer d attempt .crc
      else
        match parseSummary total payload with
        | none => s.failTransfer d attempt .format
        | some m => s.succeedTransfer d m := by
  unfold State.takeClose
  rw [ht]
  exact if_neg (by omega)

theorem takeAbort_receiving : s.takeAbort = s.failTransfer d attempt .aborted := by
  unfold State.takeAbort
  rw [ht]

end
end

/-! ### A reconciliation (R131) -/

theorem driver_of_tacho {s t : State} (h : t.tacho = s.tacho) (d : Driver) : t.driver d = s.driver d :=
  driver_tacho (congrArg Tacho.d1 h) (congrArg Tacho.d2 h) d

theorem driver_setDriver (s : State) (d e : Driver) (q : DriverRecord) :
    (s.setDriver d q).driver e = if e = d then q else s.driver e :=
  (driver_of_tacho (setDriver_tacho s d q) e).trans (driver_putDriver s d e q)

/-- A reconciliation replaces one driver's record. -/
theorem driver_reconcile (s : State) (d e : Driver) (v : Nat) :
    (s.reconcile d v).driver e = if e = d then (s.driver d).reconciled v else s.driver e :=
  (driver_of_tacho (writeCounters_tacho _ d) e).trans (driver_setDriver s d e _)

/-- Both counter slots show the figure of a reconciliation. -/
theorem reconcile_shows (s : State) (d : Driver) (v : Nat) :
    ((s.reconcile d v).slot (contSlot d)).value = v ∧ ((s.reconcile d v).slot (leftSlot d)).value = s.param 17 - v := by
  have hd : (s.setDriver d ((s.driver d).reconciled v)).driver d = (s.driver d).reconciled v :=
    (driver_setDriver s d d _).trans (if_pos rfl)
  have h := writeCounters_shows (s.setDriver d ((s.driver d).reconciled v)) d (by rw [hd]; exact fun h => nomatch h)
  rw [hd, (setDriver_ripple s d _).param] at h
  exact h

/-! ### The success of a transfer (R141) -/

/-- The record of a driver whose transfer has brought the summary `m`. -/
def DriverRecord.summarised (q : DriverRecord) (m : Summary) : DriverRecord := { q with summary := some m, outcome := .ok }

/-- The state in which a successful transfer's summary is held and shown. -/
def State.summaryShown (s : State) (d : Driver) (m : Summary) : State :=
  (s.putDriver d ((s.driver d).summarised m)).writeSummary d 2

/-- A success holds the summary, reconciles its figure, releases the readout alert, marks the page and lets the next one start. -/
theorem succeedTransfer_eq (s : State) (d : Driver) (m : Summary) :
    s.succeedTransfer d m =
      (((((s.summaryShown d m).reconcile d m.contDrive).release (readoutAlert d) (tachoOrigin d)).markDirty
        [driverPage d]).idleTransfer).tryStart := rfl

theorem ripple_summaryShown (s : State) (d : Driver) (m : Summary) : Ripple onlyTacho s (s.summaryShown d m) :=
  (ripple_putDriver onlyTacho s d ((s.driver d).summarised m) rfl).trans (ripple_writeSummary onlyTacho (fun _ h => h) _ d 2)

theorem driver_summaryShown (s : State) (d : Driver) (m : Summary) :
    (s.summaryShown d m).driver d = (s.driver d).summarised m :=
  (driver_of_tacho (writeOther_tacho _ _ _) d).trans ((driver_putDriver s d d _).trans (if_pos rfl))

theorem driver_succeedTransfer (s : State) (d : Driver) (m : Summary) :
    (s.succeedTransfer d m).driver d = ((s.driver d).summarised m).reconciled m.contDrive := by
  rw [succeedTransfer_eq, tryStart_drivers, ← driver_summaryShown s d m]
  have htacho := (cascade_markDirty
    (((s.summaryShown d m).reconcile d m.contDrive).release (readoutAlert d) (tachoOrigin d)) [driverPage d]).tacho.trans
      (release_tacho _ _ _)
  exact (driver_tacho (congrArg Tacho.d1 htacho) (congrArg Tacho.d2 htacho) d).trans
    ((driver_reconcile _ d d _).trans (if_pos rfl))

/-- The counter slots show the figure of the summary: what follows its reconciliation writes SUMMARY slots and slot 13 alone. -/
theorem succeedTransfer_shows (s : State) (d : Driver) (m : Summary) :
    ((s.succeedTransfer d m).slot (contSlot d)).value = m.contDrive ∧
      ((s.succeedTransfer d m).slot (leftSlot d)).value = s.param 17 - m.contDrive := by
  have R : Ripple (fun n => (∃ e, n = summarySlot e) ∨ n = 13) ((s.summaryShown d m).reconcile d m.contDrive)
      (s.succeedTransfer d m) := by
    rw [succeedTransfer_eq]
    exact (((ripple_release _ _ _ _ (.inr rfl)).trans (ripple_markDirty _ _ _)).trans (ripple_idleTransfer _ _)).trans
      (tryStart_slots _)
  obtain ⟨hc, hl⟩ := contLeft_apart d
  rw [R.slots _ hc, R.slots _ hl, ← (ripple_summaryShown s d m).param]
  exact reconcile_shows _ d m.contDrive

theorem driverPage_eq (d : Driver) : driverPage d = pageOf d := by cases d <;> rfl

/-- The driver's page is marked at a success (R153). -/
theorem succeedTransfer_marks (s : State) (d : Driver) (m : Summary) (h : s.display.link ≠ .off) :
    (s.succeedTransfer d m).display.dirty.has (pageOf d) = true := by
  have R := ((ripple_summaryShown s d m).trans (ripple_reconcile onlyTacho (fun _ h => h) _ d m.contDrive)).trans
    (ripple_release onlyTacho _ (readoutAlert d) (tachoOrigin d) onlyTacho_top)
  have hmark := markDirty_has _ [driverPage d] (fun hoff => h (R.told.on.mp hoff)) (pageOf d)
  rw [succeedTransfer_eq]
  refine ((ripple_idleTransfer onlyTacho _).trans (ripple_tryStart onlyTacho (fun _ h => h) _)).told.kept _ (hmark.trans ?_)
  simp [driverPage_eq]

/-! ### The commands of a transfer -/

section
variable {s : State} {r : FrameRecord} {rest : List FrameRecord} {d : Driver}

/-- A command that comes to a failure of the transfer in flight (R142). -/
theorem fails_of_run {c : Instr} {attempt : Nat} {cause : TransferOutcome} (hok : ReadoutOk s.tacho)
    (hd : s.tacho.transfer.driver = some d)
    (hrun : exec c s = .next (({ s with intake.queue := rest } : State).failTransfer d attempt cause)) :
    ∃ t, exec c s = .next t ∧ TransferFails { s with intake.queue := rest } d attempt cause t :=
  ⟨_, hrun, fail_spec { s with intake.queue := rest } d attempt cause (notTwice hok hd)⟩

/-- The timer of the transfer in flight (R138, R139). -/
theorem transferTimeout_fails {attempt : Nat}
    (ht : s.tacho.transfer = .requested d attempt ∨
      ∃ total expected count payload, s.tacho.transfer = .receiving d attempt total expected count payload) :
    s.transferTimeout = (s.failTransfer d attempt .timeout).markRestart d := by
  unfold State.transferTimeout
  rcases ht with ht | ⟨_, _, _, _, ht⟩ <;> rw [ht]

theorem driver_inFlight {attempt : Nat}
    (ht : s.tacho.transfer = .requested d attempt ∨
      ∃ total expected count payload, s.tacho.transfer = .receiving d attempt total expected count payload) :
    s.tacho.transfer.driver = some d := by
  rcases ht with ht | ⟨_, _, _, _, ht⟩ <;> rw [ht] <;> rfl

theorem exec_transferTimerExpiry (s : State) :
    exec .transferTimerExpiry s = onExpiry s.tacho.transferTimer State.transferTimeout s := rfl

end

/-- Settles O57: each frame is the one that the transfer in flight takes, and a failure is `fail_spec`, a success `succeed_spec`. -/
theorem transferFrames : Obligations.TransferFrames := by
  refine ⟨⟨rfl, by decide +kernel, crc16_step⟩, fun total p m hl => parse_spec m hl, fun s r rest hat hx hok => ⟨?_, ?_⟩,
    fun s due d attempt hdue hok ht => ?_⟩
  · intro d attempt ht
    have hd : s.tacho.transfer.driver = some d := driver_inFlight (.inl ht)
    have hq : ({ s with intake.queue := rest } : State).tacho.transfer = .requested d attempt := ht
    have htaken : ∀ {f : XferFrame}, readXfer r = some f → f.driver = d → TakesFrame s r rest f :=
      fun hr hf => takesFrame_of_driver hat hx hr (by rw [hd, hf])
    refine ⟨fun total hr hlo hhi => ?_, fun total hr hout => ?_, fun e total he hr => ?_, fun number bytes hr => ?_,
      fun crc hr => ?_, fun hr => ?_⟩
    · rw [(htaken hr rfl).xferOpen, takeOpen_requested hq, if_pos rfl, if_pos ⟨hlo, hhi⟩]
    · refine fails_of_run hok hd ?_
      rw [(htaken hr rfl).xferOpen, takeOpen_requested hq, if_pos rfl, if_neg (by omega)]
    · refine fails_of_run hok hd ?_
      rw [(takesFrame_open hat hx hr ht).xferOpen, takeOpen_requested hq, if_neg he]
    · refine fails_of_run hok hd ?_
      rw [(htaken hr rfl).xferData, takeData_requested hq]
    · refine fails_of_run hok hd ?_
      rw [(htaken hr rfl).xferClose, takeClose_requested hq]
    · refine fails_of_run hok hd ?_
      rw [(htaken hr rfl).xferAbort, takeAbort_requested hq]
  · intro d attempt total expected count payload ht
    have hd : s.tacho.transfer.driver = some d := driver_inFlight (.inr ⟨_, _, _, _, ht⟩)
    have hq : ({ s with intake.queue := rest } : State).tacho.transfer =
      .receiving d attempt total expected count payload := ht
    have htaken : ∀ {f : XferFrame}, readXfer r = some f → f.driver = d → TakesFrame s r rest f :=
      fun hr hf => takesFrame_of_driver hat hx hr (by rw [hd, hf])
    refine ⟨fun announced hr => ?_, fun bytes hr hc => ?_, fun number bytes hr hc => ?_,
      fun crc hr => ⟨fun hc => ?_, fun hc hcrc => ?_, fun hc hcrc hp => ?_, fun m hc hcrc hp => ?_⟩, fun hr => ?_⟩
    · refine fails_of_run hok hd ?_
      rw [(htaken hr rfl).xferOpen, takeOpen_receiving hq]
    · rw [(htaken hr rfl).xferData, takeData_receiving hq, if_neg (by omega), if_pos rfl]
    · refine fails_of_run hok hd ?_
      rw [(htaken hr rfl).xferData, takeData_receiving hq]
      by_cases he : expected ≤ count
      · rw [if_pos he, if_pos he]
      · rw [if_neg he, if_neg he, if_neg (hc.resolve_left he)]
    · refine fails_of_run hok hd ?_
      rw [(htaken hr rfl).xferClose, takeClose_short hq crc hc]
    · refine fails_of_run hok hd ?_
      rw [(htaken hr rfl).xferClose, takeClose_whole hq crc hc, if_pos hcrc]
    · refine fails_of_run hok hd ?_
      rw [(htaken hr rfl).xferClose, takeClose_whole hq crc hc, if_neg (not_not.mpr hcrc), hp]
    · obtain ⟨-, -, -, -, -, hother, hsummary, hnext, hrelease, R⟩ :=
        succeed_spec { s with intake.queue := rest } d m (notTwice hok hd)
      obtain ⟨hcont, hleft⟩ := succeedTransfer_shows { s with intake.queue := rest } d m
      refine ⟨({ s with intake.queue := rest } : State).succeedTransfer d m, ?_, driver_succeedTransfer { s with intake.queue := rest } d m,
        hother, hsummary, hcont, hleft, succeedTransfer_marks { s with intake.queue := rest } d m, hnext, hrelease, R⟩
      rw [(htaken hr rfl).xferClose, takeClose_whole hq crc hc, if_neg (not_not.mpr hcrc), hp]
    · refine fails_of_run hok hd ?_
      rw [(htaken hr rfl).xferAbort, takeAbort_receiving hq]
  · rw [exec_transferTimerExpiry, onExpiry_running hdue]
    exact ⟨_, rfl, timeout_spec (s.reach due) d attempt (transferTimeout_fails ht) (notTwice hok (driver_inFlight ht))⟩

end Sys2Proof.Machine
end

section
/-! What the tachograph block makes of an event of a slot that one of its fields names (R31, R126), the speed cross-check and the silence
watch (R146 to R148). -/

namespace Sys2Proof.Machine

/-! ### The tachograph block at an event of one of its fields' slots -/

section
variable {s : State} {e : UpdateEvent} {d : Driver}

theorem cardEvent_apart (h : s.param (cardParam d) ≠ e.slot) : s.cardEvent d e = s :=
  if_neg fun hn => h ((paramSlot_iff _ _ _).mp hn)

theorem contEvent_apart (h : s.param (contParam d) ≠ e.slot) : s.contEvent d e = s :=
  if_neg fun hn => h ((paramSlot_iff _ _ _).mp hn.1)

theorem speedEvent_apart {n : Nat} (h : s.param 10 ≠ n) (h0 : n ≠ 0) : s.speedEvent n = s :=
  (if_neg fun hn => h ((paramSlot_iff _ _ _).mp hn)).trans (if_neg h0)

theorem param_speedEvent (s : State) (n id : Nat) : (s.speedEvent n).param id = s.param id :=
  (ripple_speedEvent onlyTacho s n).param id

theorem param_cardEvent (s : State) (d : Driver) (e : UpdateEvent) (id : Nat) : (s.cardEvent d e).param id = s.param id :=
  (ripple_cardEvent onlyTacho (fun _ h => h) s d e).param id

/-- No card or continuous-driving field names the slot: the speed fields alone take the event. -/
theorem tachoEvent_speedEvent (h : ∀ id ∈ [13, 14, 15, 16], s.param id ≠ e.slot) : s.tachoEvent e = s.speedEvent e.slot := by
  have hcard : ∀ d, (s.speedEvent e.slot).cardEvent d e = s.speedEvent e.slot := fun d =>
    cardEvent_apart (by rw [param_speedEvent]; cases d <;> exact h _ (by simp [cardParam]))
  have hcont : ∀ d, (s.speedEvent e.slot).contEvent d e = s.speedEvent e.slot := fun d =>
    contEvent_apart (by rw [param_speedEvent]; cases d <;> exact h _ (by simp [contParam]))
  unfold State.tachoEvent
  rw [hcard, hcard, hcont, hcont]

/-- The TACHO_SPEED slot's event: the monitor judges, and then the watch (R146, R148). -/
theorem tachoEvent_speed (h : OnlyField s 10 e.slot) : s.tachoEvent e = s.judgeMismatch.judgeWatch := by
  rw [tachoEvent_speedEvent fun id hid => h.2 id (List.mem_cons_of_mem _ hid) (by rintro rfl; simp at hid)]
  exact if_pos ((paramSlot_iff _ _ _).mpr h.1)

/-- Slot 0's event, where no field names it: the monitor judges (R146). -/
theorem tachoEvent_zero (h0 : e.slot = 0) (h : ∀ id ∈ [10, 13, 14, 15, 16], s.param id ≠ 0) :
    s.tachoEvent e = s.judgeMismatch := by
  rw [tachoEvent_speedEvent fun id hid => by rw [h0]; exact h id (List.mem_cons_of_mem _ hid), h0]
  exact (if_neg fun hn => h 10 (by simp) ((paramSlot_iff _ _ _).mp hn)).trans (if_pos rfl)

end

/-! ### A frame that lands in a slot -/

/-- A slot's change reaches the tachograph block and the display link behind the other consumers (R31). -/
theorem changeSlot_eq (s : State) (n : Nat) (c : Cause) (new : SlotRecord) :
    s.changeSlot n c new = (((s.putSlot n new).tell n).tachoEvent (eventOf n c (s.slot n) new)).displayEvent n := rfl

/-- The event of the slot that a frame has landed in (R30). -/
def landedEvent (s : State) (e : RouteEntry) (x : Extractor) (w : SlotWrite) : UpdateEvent :=
  eventOf x.a.slot .write (s.slot x.a.slot) (slotAfter (s.slot x.a.slot) w s.clock e.route.timeout e.route.key)

/-- A frame that lands: the gauges, the rules and the dimming take the slot's event, and then the tachograph block and the display link. -/
theorem routedFrame_told {s : State} {r : FrameRecord} {rest : List FrameRecord} {e : RouteEntry} {x : Extractor} {w : SlotWrite}
    (h : Lands s r rest e x w) :
    ∃ u, exec .routedFrame s = .next ((u.tachoEvent (landedEvent s e x w)).displayEvent x.a.slot) ∧
      SlotTold (landed s rest e x w) x.a.slot u ∧ u.tacho = s.tacho ∧ ∀ id, u.param id = s.param id := by
  obtain ⟨hhits, hl, hx, -, -, hw⟩ := h
  rw [extracts_iff] at hw
  refine ⟨(landed s rest e x w).tell x.a.slot, ?_, tell_told _ _, tell_tacho _ _, fun id => (ripple_tell (· = 13) _ _ rfl).param id⟩
  rw [routedFrame_extracts hhits hl, hx, List.foldl_cons, List.foldl_nil, extractInto_eq, changeSlot_eq, ← hw]
  rfl

theorem onlyField_of_param {s u : State} {id n : Nat} (h : OnlyField s id n) (hp : ∀ id, u.param id = s.param id) :
    OnlyField u id n :=
  ⟨(hp id).trans h.1, fun k hk hne => by rw [hp]; exact h.2 k hk hne⟩

/-! ### The judgements through an event (R146, R148) -/

theorem markDirty_tacho (s : State) (k : Tacho) (l : List RecordKind) :
    ({ s with tacho := k } : State).markDirty l = { s.markDirty l with tacho := k } := by
  unfold State.markDirty
  by_cases h : s.display.link = .off
  · rw [if_pos h, if_pos h]
  · rw [if_neg h, if_neg h]

/-- The monitor's judgement and the watch's, one after the other, are each that of the state before both. -/
theorem judges_spec (s : State) :
    SpeedJudged s s.judgeMismatch.judgeWatch ∧ WatchJudged s s.judgeMismatch.judgeWatch ∧
      s.judgeMismatch.judgeWatch =
        { s with
          tacho.side := s.judgeMismatch.judgeWatch.tacho.side,
          tacho.mismatchTimer := s.judgeMismatch.judgeWatch.tacho.mismatchTimer,
          tacho.watch := s.judgeMismatch.judgeWatch.tacho.watch } := by
  obtain ⟨hspeed, hm⟩ := judgeMismatch_spec s
  generalize s.judgeMismatch = y at *
  obtain ⟨hwatch, hw⟩ := judgeWatch_spec y
  generalize y.judgeWatch = z at *
  have hside : z.tacho.side = y.tacho.side ∧ z.tacho.mismatchTimer = y.tacho.mismatchTimer := by
    rw [hw]
    exact ⟨rfl, rfl⟩
  refine ⟨?_, ?_, ?_⟩
  · unfold SpeedJudged
    rw [hside.1, hside.2]
    exact hspeed
  · rw [hm] at hwatch
    exact hwatch
  · rw [hw, hm]

/-! ### The mismatch timer (R147) -/

section
variable {s : State}

/-- A side that is not timed, or that slot 3 shows already, confirms nothing. -/
theorem confirmSide_shown
    (h : s.tacho.side = .none ∨ (s.tacho.side = .outside ∧ (s.slot 3).state ≠ .never ∧ (s.slot 3).value ≠ 0) ∨
      (s.tacho.side = .inside ∧ (s.slot 3).state ≠ .never ∧ (s.slot 3).value ≠ 1)) :
    s.confirmSide = { s with tacho.mismatchTimer := none } := by
  unfold State.confirmSide
  rcases h with hside | ⟨hside, hn, hv⟩ | ⟨hside, hn, hv⟩ <;> simp only [hside]
  · exact if_neg fun h => h.elim hn hv
  · exact (if_neg hn).trans (if_neg hv)

theorem confirmSide_outside (hside : s.tacho.side = .outside) (h : (s.slot 3).state = .never ∨ (s.slot 3).value = 0) :
    s.confirmSide = (({ s with tacho.mismatchTimer := none } : State).writePlain 3 (.fresh 1)).push 0xF101 .caution .speed := by
  unfold State.confirmSide
  simp only [hside]
  exact if_pos h

theorem confirmSide_inside_first (hside : s.tacho.side = .inside) (hn : (s.slot 3).state = .never) :
    s.confirmSide = ({ s with tacho.mismatchTimer := none } : State).writePlain 3 (.fresh 0) := by
  unfold State.confirmSide
  simp only [hside]
  exact if_pos hn

theorem confirmSide_inside (hside : s.tacho.side = .inside) (hn : (s.slot 3).state ≠ .never) (hv : (s.slot 3).value = 1) :
    s.confirmSide = (({ s with tacho.mismatchTimer := none } : State).writePlain 3 (.fresh 0)).release 0xF101 .speed := by
  unfold State.confirmSide
  simp only [hside]
  exact (if_neg hn).trans (if_pos hv)

end

/-- Slot 3 written: the write shows, and the tachograph block stands. -/
theorem writeMismatch_spec (s : State) (v : Int) :
    Shows (s.writePlain 3 (.fresh v)) 3 v ∧ (s.writePlain 3 (.fresh v)).tacho = s.tacho ∧
      Ripple (fun n => n = 3 ∨ n = 13) s (s.writePlain 3 (.fresh v)) :=
  ⟨writePlain_shows s 3 v (by decide) (by decide), writePlain_tacho s 3 _, ripple_writePlain _ s 3 _ (.inl rfl) (.inr rfl)⟩

theorem exec_mismatchTimerExpiry (s : State) :
    exec .mismatchTimerExpiry s = onExpiry s.tacho.mismatchTimer State.confirmSide s := rfl

/-! ### The silence watch (R148) -/

theorem exec_silenceWatchExpiry (s : State) :
    exec .silenceWatchExpiry s = onExpiry s.tacho.watch State.watchExpired s := rfl

/-- The silent mark set, with slot 12 and SENSOR_FAULT, before 0xF102 is pushed. -/
def State.silentMarked (s : State) : State :=
  (({ s with tacho.watch := none } : State).setMarks true s.table.phaseBMark).raise .sensorFault

theorem watchExpired_eq (s : State) :
    s.watchExpired = (s.silentMarked.push 0xF102 .caution .sensor).writeSpeed .error := rfl

theorem silentMarked_flagged (s : State) : Flagged s.silentMarked .sensorFault := raise_flagged _ _

theorem silentMarked_shows {s : State} (h : s.table.silentMark = false) : (s.silentMarked.slot 12).value = 2 := by
  unfold State.silentMarked
  rw [(ripple_raise (fun _ => False) _ .sensorFault).slots 12 id]
  exact setMarks_shows ({ s with tacho.watch := none } : State) true s.table.phaseBMark (.inl (by rw [h]; exact Bool.noConfusion))

theorem silentMarked_ripple {s : State} (h : s.table.silentMark = false) :
    Ripple (fun n => n = 12 ∨ n = 13) { s with tacho.watch := none, table.silentMark := true } s.silentMarked := by
  unfold State.silentMarked State.setMarks
  rw [if_neg (by rintro ⟨hm, -⟩; exact Bool.noConfusion (h.symm.trans hm))]
  refine Ripple.trans ?_ (ripple_raise _ _ _)
  simp only []
  split
  · exact ripple_writePlain _ ({ s with tacho.watch := none, table.silentMark := true } : State) 12 _ (.inl rfl) (.inr rfl)
  · exact Ripple.refl _ _

theorem silentMarked_alert {s : State} (h : s.watched 12 = false) : Hushed s s.silentMarked :=
  ((hushed_setMarks ({ s with tacho.watch := none } : State) true s.table.phaseBMark h).trans
    (hushed_raise _ .sensorFault)).behind rfl rfl

/-- Slot 0 written holds the write: the consumers of its event do not write it. -/
theorem slot_writeSpeed (s : State) (w : SlotWrite) : (s.writeSpeed w).slot 0 = (s.slot 0).written w none s.clock := by
  have R := ripple_announce onlyTacho (fun _ h => h) (s.putSlot 0 ((s.slot 0).written w none s.clock))
    (eventOf 0 .write (s.slot 0) ((s.slot 0).written w none s.clock))
  have hn : ¬ onlyTacho 0 := by
    unfold onlyTacho
    omega
  exact (R.slots 0 hn).trans (State.slot_putSlot_same s 0 _ (by decide))

theorem ripple_writeSpeed (s : State) (w : SlotWrite) : Ripple (fun n => n = 0 ∨ onlyTacho n) s (s.writeSpeed w) :=
  ripple_changeSlot _ (fun _ h => .inr h) s 0 .write _ (.inl rfl)

/-- Nothing but the push itself reaches the alert block where no rule names the slots written. -/
theorem watchExpired_alert {s : State} (h : OnlyThePulse s) :
    s.silentMarked.alert = s.alert ∧ s.watchExpired.alert = (s.silentMarked.push 0xF102 .caution .sensor).alert := by
  obtain ⟨hb, hw, hp⟩ := h
  have H := silentMarked_alert (hw 12 (by simp))
  have hpush := push_calm s.silentMarked 0xF102 .caution .sensor ((congrArg AlertBlock.backlog H.alert).trans hb)
    ((H.watched 13).trans (hw 13 (by simp)))
  have R := (ripple_push (fun _ => True) s.silentMarked 0xF102 .caution .sensor trivial)
  have hparam : ∀ id, s.silentMarked.param id = s.param id := fun id =>
    (ripple_raise (fun _ => True) _ .sensorFault).param id |>.trans
      ((setMarks_spec ({ s with tacho.watch := none } : State) true s.table.phaseBMark).2.2.2.2.2.param id)
  refine ⟨H.alert, ?_⟩
  rw [watchExpired_eq]
  refine (hushed_writeSpeed _ .error ?_ fun id hid => ?_).alert
  · rw [watched_rules hpush.1, H.watched 0]
    exact hw 0 (by simp)
  · rw [R.param, hparam]
    exact hp id hid

/-- Everything that the silence watch's expiry can do, in one ripple. -/
theorem watchExpired_ripple {s : State} (h : s.table.silentMark = false) :
    Ripple (fun n => n = 0 ∨ n = 12 ∨ onlyTacho n) { s with table.silentMark := true } s.watchExpired := by
  have T : Ripple (fun n => n = 0 ∨ n = 12 ∨ onlyTacho n) { s with table.silentMark := true }
      { s with table.silentMark := true, tacho.watch := none } := ripple_tacho _ _ _
  have P := ripple_push (fun n => n = 0 ∨ n = 12 ∨ onlyTacho n) s.silentMarked 0xF102 .caution .sensor (.inr (.inr onlyTacho_top))
  refine T.trans (((silentMarked_ripple h).mono ?_).trans (P.trans ((ripple_writeSpeed _ .error).mono ?_)))
  · rintro n (h | h)
    · exact .inr (.inl h)
    · exact .inr (.inr (.inl h))
  · rintro n (h | h)
    · exact .inl h
    · exact .inr (.inr h)

/-! ### The zero timer (R111, R146) -/

theorem exec_zeroTimerExpiry (s : State) : exec .zeroTimerExpiry s = onExpiry s.dist.zeroTimer State.zeroExpired s := rfl

/-- Slot 0 written where no tachograph field names it: a write of its own block, and a judgement of the monitor. -/
theorem writeSpeed_judged (s : State) (v : Int) (hp : ∀ id ∈ [10, 13, 14, 15, 16], s.param id ≠ 0) :
    SpeedJudged (s.writePlain 0 (.fresh v)) (s.writeSpeed (.fresh v)) ∧
      s.writeSpeed (.fresh v) =
        { s.writePlain 0 (.fresh v) with
          tacho.side := (s.writeSpeed (.fresh v)).tacho.side,
          tacho.mismatchTimer := (s.writeSpeed (.fresh v)).tacho.mismatchTimer } := by
  have hplain : s.writePlain 0 (.fresh v) = ((s.writeRecord 0 (.fresh v)).tell 0).displayEvent 0 := rfl
  have hspeed : s.writeSpeed (.fresh v) =
      (((s.writeRecord 0 (.fresh v)).tell 0).tachoEvent
        (eventOf 0 .write (s.slot 0) ((s.slot 0).written (.fresh v) none s.clock))).displayEvent 0 := rfl
  have hparam : ∀ id, ((s.writeRecord 0 (.fresh v)).tell 0).param id = s.param id := fun id =>
    (ripple_tell (fun _ => True) (s.writeRecord 0 (.fresh v)) 0 trivial).param id
  rw [tachoEvent_zero rfl fun id hid => by rw [hparam]; exact hp id hid] at hspeed
  generalize (s.writeRecord 0 (.fresh v)).tell 0 = y at *
  obtain ⟨hj, he⟩ := judgeMismatch_spec y
  have htold : y.judgeMismatch.displayEvent 0 = { y.displayEvent 0 with tacho := y.judgeMismatch.tacho } := by
    rw [he]
    exact markDirty_tacho y _ _
  obtain ⟨d, hd⟩ := markDirty_only y (slotKinds 0)
  have hd : y.displayEvent 0 = { y with display := d } := hd
  rw [hplain, hspeed, htold, hd]
  refine ⟨hj, ?_⟩
  rw [he]

theorem zeroExpired_eq {s : State} (h : s.table.silentMark = false) :
    s.zeroExpired = ({ s with dist.ring := [], dist.lastPulse := none, dist.zeroTimer := none } : State).writeSpeed (.fresh 0) := by
  unfold State.zeroExpired
  simp only [h, Bool.false_eq_true, if_false]

/-- Settles O56: each timer comes to the operation that it names, and an event of the TACHO_SPEED slot to the two judgements. -/
theorem speedWatches : Obligations.SpeedWatches := by
  refine ⟨fun s due hdue => ?_, fun s due hdue hmark => ?_, fun s r rest e x w hland hfield => ?_, fun s due hdue hmark hp => ?_⟩
  · rw [exec_mismatchTimerExpiry, onExpiry_running hdue]
    refine ⟨fun h => congrArg Host.Outcome.next (confirmSide_shown (s := s.reach due) h), fun hside h => ?_, fun hside h => ?_,
      fun hside hn hv => ?_⟩
    · obtain ⟨hshow, htacho, R⟩ := writeMismatch_spec ({ s.reach due with tacho.mismatchTimer := none } : State) 1
      exact ⟨_, _, congrArg Host.Outcome.next (confirmSide_outside (s := s.reach due) hside h), rfl, hshow,
        (ripple_push (· = 13) _ 0xF101 .caution .speed rfl).shows (by decide) hshow, (push_tacho _ _ _ _).trans htacho, R⟩
    · obtain ⟨hshow, htacho, R⟩ := writeMismatch_spec ({ s.reach due with tacho.mismatchTimer := none } : State) 0
      exact ⟨_, congrArg Host.Outcome.next (confirmSide_inside_first (s := s.reach due) hside h), hshow, htacho, R⟩
    · obtain ⟨hshow, htacho, R⟩ := writeMismatch_spec ({ s.reach due with tacho.mismatchTimer := none } : State) 0
      exact ⟨_, _, congrArg Host.Outcome.next (confirmSide_inside (s := s.reach due) hside hn hv), rfl, hshow,
        (ripple_release (· = 13) _ 0xF101 .speed rfl).shows (by decide) hshow, (release_tacho _ _ _).trans htacho, R⟩
  · rw [exec_silenceWatchExpiry, onExpiry_running hdue, watchExpired_eq]
    have hmark' : (s.reach due).table.silentMark = false := hmark
    have halert := watchExpired_alert (s := s.reach due)
    have hflag := silentMarked_flagged (s.reach due)
    have h12 := silentMarked_shows hmark'
    have R := silentMarked_ripple hmark'
    rw [watchExpired_eq] at halert
    have P := ripple_push (· = 13) (s.reach due).silentMarked 0xF102 .caution .sensor rfl
    have W := ripple_writeSpeed ((s.reach due).silentMarked.push 0xF102 .caution .sensor) .error
    have h0 := slot_writeSpeed ((s.reach due).silentMarked.push 0xF102 .caution .sensor) .error
    have hm := writeSpeed_marks ((s.reach due).silentMarked.push 0xF102 .caution .sensor) .error
    have hvalue : (((s.reach due).silentMarked.push 0xF102 .caution .sensor).slot 0) = s.slot 0 :=
      (P.slots 0 (by decide)).trans (R.slots 0 (by decide))
    refine ⟨(s.reach due).silentMarked, _, rfl, W.flags _ (P.flags _ hflag), ?_, ?_, ?_, fun hoff => hm fun ho => hoff ?_, R, hflag,
      W, halert, ?_⟩
    · rw [W.slots 12 (by unfold onlyTacho; omega), P.slots 12 (by decide)]
      exact h12
    · rw [h0]
      rfl
    · rw [h0, hvalue]
      rfl
    · exact R.told.on.mp (P.told.on.mp ho)
    · exact watchExpired_ripple hmark'
  · obtain ⟨u, hrun, htold, htacho, hparam⟩ := routedFrame_told hland
    rw [tachoEvent_speed (e := landedEvent s e x w) (onlyField_of_param hfield hparam)] at hrun
    obtain ⟨hspeed, hwatch, he⟩ := judges_spec u
    have R := ((ripple_judgeMismatch onlyTacho u).trans (ripple_judgeWatch onlyTacho _)).trans
      (ripple_displayEvent onlyTacho u.judgeMismatch.judgeWatch x.a.slot)
    obtain ⟨q, hq⟩ := markDirty_only u.judgeMismatch.judgeWatch (slotKinds x.a.slot)
    have hq : u.judgeMismatch.judgeWatch.displayEvent x.a.slot = _ := hq
    rw [hq] at hrun R
    refine ⟨u, _, hrun, htold, htacho, hspeed, hwatch, R.told, ?_⟩
    rw [he]
  · rw [exec_zeroTimerExpiry, onExpiry_running hdue, zeroExpired_eq (s := s.reach due) hmark]
    generalize hy : ({ s.reach due with dist.ring := [], dist.lastPulse := none, dist.zeroTimer := none } : State) = y
    have hparam : ∀ id, y.param id = s.param id := fun id => by rw [← hy]; rfl
    have htacho : y.tacho = s.tacho := by rw [← hy]; rfl
    have hlink : y.display = s.display := by rw [← hy]; rfl
    obtain ⟨hj, he⟩ := writeSpeed_judged y 0 fun id hid => by rw [hparam]; exact hp id hid
    exact ⟨y.writePlain 0 (.fresh 0), _, rfl, ripple_writePlain _ y 0 _ (.inl rfl) (.inr rfl),
      writePlain_shows y 0 0 (by decide) (by decide), (writePlain_tacho y 0 _).trans htacho, hj,
      fun hoff => writeSpeed_marks y _ (by rw [hlink]; exact hoff), he⟩

end Sys2Proof.Machine
end

section
/-! A minute event of each present driver (R129, R130), a card's insertion and withdrawal and a reconciliation by a frame (R131 to R133). -/

namespace Sys2Proof.Machine

/-! ### One minute of a driver's record (R129, R130) -/

section
variable (q : DriverRecord) (needed part window : Nat)

theorem minute_kept (a : Option Int) :
    (q.minute a needed part window).summary = q.summary ∧ (q.minute a needed part window).outcome = q.outcome ∧
      (q.minute a needed part window).sinceReconcile = min (q.sinceReconcile + 1) 1439 := by
  unfold DriverRecord.minute
  cases a with
  | none => exact ⟨rfl, rfl, rfl⟩
  | some v =>
    by_cases hv : v = 0
    · rw [hv]
      by_cases hneeded : needed ≤ q.breakAccum + min (q.stretch + 1) 1439
      · simp [hneeded, satInc]
      · simp [hneeded, satInc]
    · simp [hv, satInc]

/-- A minute without an activity leaves the counters and makes the driver ESTIMATING. -/
theorem minute_none :
    (q.minute none needed part window).state = .estimating ∧ (q.minute none needed part window).contDrive = q.contDrive ∧
      (q.minute none needed part window).breakAccum = q.breakAccum ∧ (q.minute none needed part window).stretch = q.stretch := by
  refine ⟨?_, rfl, rfl, rfl⟩
  unfold DriverRecord.minute
  exact ite_self _

/-- A counted minute leaves the driver's state unless the window since the last reconciliation has passed. -/
theorem minute_state (v : Int) :
    (q.minute (some v) needed part window).state =
      if window ≤ min (q.sinceReconcile + 1) 1439 then .estimating else q.state := by
  unfold DriverRecord.minute
  by_cases hv : v = 0
  · simp only [hv, if_true]
    split <;> rfl
  · simp only [hv, if_false]
    rfl

/-- A minute of rest lengthens the stretch, which may complete the break. -/
theorem minute_rest :
    if needed ≤ q.breakAccum + min (q.stretch + 1) 1439 then
      (q.minute (some 0) needed part window).contDrive = 0 ∧ (q.minute (some 0) needed part window).breakAccum = 0 ∧
        (q.minute (some 0) needed part window).stretch = 0
    else
      (q.minute (some 0) needed part window).contDrive = q.contDrive ∧
        (q.minute (some 0) needed part window).breakAccum = q.breakAccum ∧
        (q.minute (some 0) needed part window).stretch = min (q.stretch + 1) 1439 := by
  unfold DriverRecord.minute
  by_cases hneeded : needed ≤ q.breakAccum + min (q.stretch + 1) 1439
  · simp [hneeded, satInc]
  · simp [hneeded, satInc]

/-- A minute of any other activity ends the stretch, which counts as part of a break where it is long enough; driving counts. -/
theorem minute_work {v : Int} (hv : v ≠ 0) :
    (q.minute (some v) needed part window).stretch = 0 ∧
      (q.minute (some v) needed part window).breakAccum =
        (if part ≤ q.stretch then min 120 (q.breakAccum + q.stretch) else q.breakAccum) ∧
      (q.minute (some v) needed part window).contDrive = (if v = 3 then min (q.contDrive + 1) 1439 else q.contDrive) := by
  unfold DriverRecord.minute
  simp [hv, satInc]

end

/-! ### A minute event of a driver (R129) -/

/-- The record of driver `d` after a minute event. -/
def State.minuteRecord (s : State) (d : Driver) : DriverRecord :=
  if (s.driver d).state = .noDriver then s.driver d
  else (s.driver d).minute (s.activity d) (s.paramNat 18) (s.paramNat 19) (s.paramNat 20)

section
variable (s : State) (d : Driver)

theorem minuteEvent_absent (h : (s.driver d).state = .noDriver) : s.minuteEvent d = s :=
  if_neg (by simp [DriverRecord.present, h])

theorem minuteRecord_present (h : (s.driver d).state ≠ .noDriver) :
    s.minuteRecord d = (s.driver d).minute (s.activity d) (s.paramNat 18) (s.paramNat 19) (s.paramNat 20) := if_neg h

theorem minuteEvent_tacho : (s.minuteEvent d).tacho = (s.putDriver d (s.minuteRecord d)).tacho := by
  unfold State.minuteRecord
  split
  · next h =>
    rw [minuteEvent_absent s d h]
    cases d <;> rfl
  · next h => exact (minute_one s d h).1

/-- A minute event leaves all of the tachograph block but the drivers' records. -/
theorem minuteEvent_rest :
    (s.minuteEvent d).tacho = { s.tacho with d1 := (s.minuteEvent d).tacho.d1, d2 := (s.minuteEvent d).tacho.d2 } := by
  rw [minuteEvent_tacho]
  cases d <;> rfl

theorem driver_minuteEvent (e : Driver) : (s.minuteEvent d).driver e = if e = d then s.minuteRecord d else s.driver e :=
  (driver_of_tacho (minuteEvent_tacho s d) e).trans (driver_putDriver s d e _)

theorem minuteEvent_ripple : Ripple (fun n => n = contSlot d ∨ n = leftSlot d ∨ n = 13) s (s.minuteEvent d) := by
  by_cases h : (s.driver d).state = .noDriver
  · rw [minuteEvent_absent s d h]
    exact Ripple.refl _ s
  · exact (minute_one s d h).2.2.2

/-- A present driver's counter slots show its counters. -/
theorem minuteEvent_shows (h : (s.driver d).state ≠ .noDriver) :
    ((s.minuteEvent d).slot (contSlot d)).value = (s.minuteRecord d).contDrive ∧
      ((s.minuteEvent d).slot (leftSlot d)).value = s.param 17 - (s.minuteRecord d).contDrive := by
  rw [minuteRecord_present s d h]
  exact ⟨(minute_one s d h).2.1, (minute_one s d h).2.2.1⟩

variable {s d}

/-- The activity is read from a frame slot, which the tachograph block does not write. -/
theorem activity_ripple {t : State} (R : Ripple onlyTacho s t) (h : ∀ n, s.paramSlot (activityParam d) = some n → 16 ≤ n) :
    t.activity d = s.activity d := by
  have hslot : t.paramSlot (activityParam d) = s.paramSlot (activityParam d) := by
    unfold State.paramSlot State.paramNat
    rw [R.param]
  unfold State.activity
  rw [hslot]
  cases hn : s.paramSlot (activityParam d) with
  | none => rfl
  | some n =>
    have hno : ¬ onlyTacho n := by
      have := h n hn
      unfold onlyTacho
      omega
    simp only [R.slots n hno]

end

/-! ### The minute timer (R129) -/

theorem exec_minuteTimerExpiry (s : State) :
    exec .minuteTimerExpiry s = onExpiry s.tacho.minuteTimer State.minutePassed s := rfl

/-- The minute timer restarted. -/
def State.minuteRestarted (s : State) : State := { s with tacho.minuteTimer := some (s.clock + 60000000) }

theorem minutePassed_eq (s : State) : s.minutePassed = (s.minuteRestarted.minuteEvent .one).minuteEvent .two := rfl

theorem minutePassed_ripple (s : State) : Ripple onlyTacho s s.minutePassed := by
  rw [minutePassed_eq]
  exact (ripple_tacho onlyTacho s s.minuteRestarted.tacho).trans
    ((ripple_minuteEvent onlyTacho (fun _ h => h) s.minuteRestarted .one).trans (ripple_minuteEvent onlyTacho (fun _ h => h) _ .two))

section
variable {s : State} (h : ∀ d n, s.paramSlot (activityParam d) = some n → 16 ≤ n)
include h

/-- Driver 2's minute is that of the state before driver 1's. -/
theorem minuteRecord_second : (s.minuteEvent .one).minuteRecord .two = s.minuteRecord .two := by
  have R := ripple_minuteEvent onlyTacho (fun _ h => h) s .one
  have hd : (s.minuteEvent .one).driver .two = s.driver .two :=
    (driver_minuteEvent s .one .two).trans (if_neg Driver.noConfusion)
  unfold State.minuteRecord State.paramNat
  rw [hd, activity_ripple R (h .two), R.param, R.param, R.param]

theorem driver_minutePassed (d : Driver) : s.minutePassed.driver d = s.minuteRecord d := by
  have h2 := minuteRecord_second (s := s.minuteRestarted) h
  rw [minutePassed_eq, driver_minuteEvent, driver_minuteEvent, h2]
  cases d <;> rfl

/-- The counter slots of a present driver show its counters: the other driver's event does not write them. -/
theorem minutePassed_shows (d : Driver) (hd : (s.driver d).state ≠ .noDriver) :
    (s.minutePassed.slot (contSlot d)).value = (s.minuteRecord d).contDrive ∧
      (s.minutePassed.slot (leftSlot d)).value = s.param 17 - (s.minuteRecord d).contDrive := by
  rw [minutePassed_eq]
  cases d with
  | one =>
    have R := minuteEvent_ripple (s.minuteRestarted.minuteEvent .one) .two
    rw [R.slots _ (by decide), R.slots _ (by decide)]
    exact minuteEvent_shows s.minuteRestarted .one hd
  | two =>
    have hdriver : (s.minuteRestarted.minuteEvent .one).driver .two = s.driver .two :=
      (driver_minuteEvent _ .one .two).trans (if_neg Driver.noConfusion)
    have hshow := minuteEvent_shows (s.minuteRestarted.minuteEvent .one) .two (by rw [hdriver]; exact hd)
    rw [minuteRecord_second (s := s.minuteRestarted) h,
      (ripple_minuteEvent onlyTacho (fun _ h => h) s.minuteRestarted .one).param] at hshow
    exact hshow

end

/-- A minute leaves all of the tachograph block but the drivers' records and its own timer. -/
theorem minutePassed_tacho (s : State) :
    s.minutePassed.tacho =
      { s.tacho with
        d1 := s.minutePassed.tacho.d1, d2 := s.minutePassed.tacho.d2, minuteTimer := some (s.clock + 60000000) } := by
  have h1 := minuteEvent_rest s.minuteRestarted .one
  have h2 := minuteEvent_rest (s.minuteRestarted.minuteEvent .one) .two
  rw [minutePassed_eq]
  generalize (s.minuteRestarted.minuteEvent .one).minuteEvent .two = t at *
  rw [h1] at h2
  exact h2

/-! ### A card and a reconciliation by a frame (R131 to R133) -/

section
variable {s : State} {e : UpdateEvent} {d : Driver}

theorem cardParam_ne_contParam (d e : Driver) : cardParam d ≠ contParam e := by cases d <;> cases e <;> decide

theorem tachoField_mem (d : Driver) :
    cardParam d ∈ [10, 13, 14, 15, 16] ∧ contParam d ∈ [10, 13, 14, 15, 16] ∧ cardParam d ≠ 10 ∧ contParam d ≠ 10 := by
  cases d <;> decide

/-- The event of a driver's card slot reaches that driver's card alone. -/
theorem tachoEvent_card (h : OnlyField s (cardParam d) e.slot) (h0 : e.slot ≠ 0) : s.tachoEvent e = s.cardEvent d e := by
  obtain ⟨-, hother⟩ := h
  have hspeed : s.speedEvent e.slot = s :=
    speedEvent_apart (hother 10 (by simp) (tachoField_mem d).2.2.1.symm) h0
  have hcont : ∀ f, (s.cardEvent d e).contEvent f e = s.cardEvent d e := fun f =>
    contEvent_apart (by
      rw [param_cardEvent]
      exact hother _ (tachoField_mem f).2.1 (cardParam_ne_contParam d f).symm)
  unfold State.tachoEvent
  rw [hspeed]
  cases d with
  | one =>
    have htwo : (s.cardEvent .one e).cardEvent .two e = s.cardEvent .one e :=
      cardEvent_apart (by rw [param_cardEvent]; exact hother _ (by decide) (by decide))
    rw [htwo, hcont, hcont]
  | two =>
    have hone : s.cardEvent .one e = s := cardEvent_apart (hother _ (by decide) (by decide))
    rw [hone, hcont, hcont]

/-- The event of a driver's continuous-driving slot reaches that driver's counters alone. -/
theorem tachoEvent_cont (h : OnlyField s (contParam d) e.slot) (h0 : e.slot ≠ 0) : s.tachoEvent e = s.contEvent d e := by
  obtain ⟨-, hother⟩ := h
  have hspeed : s.speedEvent e.slot = s :=
    speedEvent_apart (hother 10 (by simp) (tachoField_mem d).2.2.2.symm) h0
  have hcard : ∀ f, s.cardEvent f e = s := fun f =>
    cardEvent_apart (hother _ (tachoField_mem f).1 (cardParam_ne_contParam f d))
  unfold State.tachoEvent
  rw [hspeed, hcard, hcard]
  cases d with
  | one =>
    have hparam : (s.contEvent .one e).param (contParam .two) = s.param (contParam .two) :=
      (ripple_contEvent onlyTacho (fun _ h => h) s .one e).param _
    exact contEvent_apart (by rw [hparam]; exact hother _ (by decide) (by decide))
  | two =>
    have hone : s.contEvent .one e = s := contEvent_apart (hother _ (by decide) (by decide))
    rw [hone]

theorem cardEvent_inserts (hn : s.param (cardParam d) = e.slot) (hi : e.inserts = true) : s.cardEvent d e = s.insertCard d :=
  (if_pos ((paramSlot_iff _ _ _).mpr hn)).trans (if_pos hi)

theorem cardEvent_withdraws (hn : s.param (cardParam d) = e.slot) (hw : e.freshWrite = true ∧ e.value = 0) :
    s.cardEvent d e = s.withdrawCard d := by
  have hi : ¬ e.inserts = true := by
    unfold UpdateEvent.inserts
    simp [hw.2]
  exact (if_pos ((paramSlot_iff _ _ _).mpr hn)).trans ((if_neg hi).trans (if_pos (by simp [hw])))

theorem cardEvent_none (hi : ¬ e.inserts = true) (hw : ¬ (e.freshWrite = true ∧ e.value = 0)) : s.cardEvent d e = s := by
  have hzero : ¬ (e.freshWrite && decide (e.value = 0)) = true := by rwa [Bool.and_eq_true, decide_eq_true_eq]
  by_cases hn : s.paramSlot (cardParam d) = some e.slot
  · exact (if_pos hn).trans ((if_neg hi).trans (if_neg hzero))
  · exact if_neg hn

theorem contEvent_reconciles {v : Nat} (hn : s.param (contParam d) = e.slot) (hw : e.freshWrite = true ∧ e.value = v)
    (hv : v ≤ 1439) (hp : (s.driver d).state ≠ .noDriver) : s.contEvent d e = s.reconcile d v := by
  obtain ⟨hf, he⟩ := hw
  refine (if_pos ⟨(paramSlot_iff _ _ _).mpr hn, hf, by simp [DriverRecord.present, hp], by omega, by omega⟩).trans ?_
  rw [he]
  rfl

/-- No reconciliation without a FRESH write in range, or for a driver that is absent (R131). -/
theorem contEvent_none (h : (∀ v : Nat, e.freshWrite = true ∧ e.value = v → 1439 < v) ∨ (s.driver d).state = .noDriver) :
    s.contEvent d e = s := by
  refine if_neg ?_
  rintro ⟨-, hf, hp, hlo, hhi⟩
  rcases h with h | h
  · have := h e.value.toNat ⟨hf, by omega⟩
    omega
  · simp [DriverRecord.present, h] at hp

end

/-! ### The event of a slot that a frame has landed in -/

section
variable (s : State) (e : RouteEntry) (x : Extractor) (w : SlotWrite)

theorem landedEvent_inserts :
    (landedEvent s e x w).inserts = true ↔
      w = .fresh 1 ∧ ((s.slot x.a.slot).value = 0 ∨ (s.slot x.a.slot).state = .never ∨ (s.slot x.a.slot).state = .stale) := by
  cases w with
  | fresh v =>
    show (true && decide (v = 1) && (decide ((s.slot x.a.slot).value = 0) || decide ((s.slot x.a.slot).state = .never) ||
      decide ((s.slot x.a.slot).state = .stale))) = true ↔ _
    simp [or_assoc]
  | notAvailable => simp [landedEvent, eventOf, slotAfter, UpdateEvent.inserts, UpdateEvent.freshWrite]
  | error => simp [landedEvent, eventOf, slotAfter, UpdateEvent.inserts, UpdateEvent.freshWrite]

theorem landedEvent_holds (v : Int) :
    ((landedEvent s e x w).freshWrite = true ∧ (landedEvent s e x w).value = v) ↔ w = .fresh v := by
  cases w with
  | fresh u => simp [landedEvent, eventOf, slotAfter, UpdateEvent.freshWrite]
  | notAvailable => simp [landedEvent, eventOf, slotAfter, UpdateEvent.freshWrite]
  | error => simp [landedEvent, eventOf, slotAfter, UpdateEvent.freshWrite]

end

/-- A frame lands in a frame slot, not in slot 0. -/
theorem landedEvent_frame {s : State} {r : FrameRecord} {rest : List FrameRecord} {e : RouteEntry} {x : Extractor} {w : SlotWrite}
    (h : Lands s r rest e x w) : (landedEvent s e x w).slot ≠ 0 := by
  obtain ⟨-, -, -, hlo, -, -⟩ := h
  exact Nat.ne_of_gt (Nat.lt_of_lt_of_le (by decide) hlo)

/-! ### What has been said of a state holds behind the link's marks -/

section
variable {s t u : State} {d : Driver} (R : Ripple onlyTacho t u) (ht : u.tacho = t.tacho)
include ht

theorem otherDriverKept_tail (h : OtherDriverKept s d t) : OtherDriverKept s d u := by
  unfold OtherDriverKept at *
  rw [ht]
  exact ⟨fun e he => (driver_of_tacho ht e).trans (h.1 e he), h.2⟩

variable (hs : ∀ n, u.slot n = t.slot n)
include R hs

theorem nextTransfer_tail {q : List Readout} (h : NextTransfer s q t) : NextTransfer s q u :=
  next_tail h R (by rw [ht]) (by rw [ht]) (by rw [ht]) fun e => hs _

theorem readoutEnqueued_tail (h : ReadoutEnqueued s d t) : ReadoutEnqueued s d u := by
  unfold ReadoutEnqueued at *
  rw [ht]
  exact ⟨h.1, fun hq hx => ⟨(h.2 hq hx).1, fun hi hp => nextTransfer_tail R ht hs ((h.2 hq hx).2 hi hp)⟩⟩

theorem cardInserted_tail (h : CardInserted s d t) : CardInserted s d u := by
  obtain ⟨hpresent, habsent, hother, hqueue, hripple⟩ := h
  unfold CardInserted Shows at *
  rw [driver_of_tacho ht, hs, hs]
  exact ⟨hpresent, habsent, otherDriverKept_tail ht hother, readoutEnqueued_tail R ht hs hqueue, hripple.trans R⟩

theorem cardWithdrawn_tail (h : CardWithdrawn s d t) : CardWithdrawn s d u := by
  obtain ⟨hrecord, hother, hcont, hstate, hvalue, hsummary, hnext, hbusy, v, hv, hrelease⟩ := h
  unfold CardWithdrawn
  rw [driver_of_tacho ht, hs, hs, hs, ht]
  exact ⟨hrecord, otherDriverKept_tail ht hother, hcont, hstate, hvalue, hsummary,
    fun hi => nextTransfer_tail R ht hs (hnext hi), hbusy, v, hv, hrelease.trans R⟩

end

/-- What the link's marks leave (R153). -/
theorem displayEvent_keeps (s : State) (n : Nat) :
    Ripple onlyTacho s (s.displayEvent n) ∧ (s.displayEvent n).tacho = s.tacho ∧ (∀ m, (s.displayEvent n).slot m = s.slot m) ∧
      LinkTold s (s.displayEvent n) ∧ s.displayEvent n = { s with display := (s.displayEvent n).display } := by
  obtain ⟨q, hq⟩ := markDirty_only s (slotKinds n)
  have hq : s.displayEvent n = _ := hq
  refine ⟨ripple_displayEvent onlyTacho s n, ?_, fun m => ?_, told_markDirty s _, ?_⟩
  · rw [hq]
  · rw [hq]
    rfl
  · rw [hq]

/-- A reconciliation writes one driver's record, its counter slots and slot 13 (R131). -/
theorem reconcile_spec (s : State) (d : Driver) (v : Nat) :
    Ripple (fun n => n = 13 ∨ n = contSlot d ∨ n = leftSlot d) s (s.reconcile d v) ∧
      (s.reconcile d v).tacho = (s.putDriver d ((s.driver d).reconciled v)).tacho := by
  refine ⟨((setDriver_ripple s d _).mono fun _ h => h.elim).trans ((writeCounters_ripple _ d).mono fun n h => ?_), ?_⟩
  · rcases h with h | h | h
    · exact .inr (.inl h)
    · exact .inr (.inr h)
    · exact .inl h
  · exact (writeCounters_tacho _ d).trans (setDriver_tacho s d _)

/-- What stands of the tachograph block where one driver's record alone is replaced. -/
theorem putDriver_keeps {s u t : State} {d : Driver} {q : DriverRecord} (hu : u.tacho = s.tacho)
    (ht : t.tacho = (u.putDriver d q).tacho) :
    OtherDriverKept s d t ∧ t.tacho.readout = s.tacho.readout ∧ t.tacho.transfer = s.tacho.transfer ∧
      t.tacho.transferTimer = s.tacho.transferTimer := by
  have hother : ∀ e, e ≠ d → t.driver e = s.driver e := fun e he =>
    (driver_of_tacho ht e).trans (((driver_putDriver u d e q).trans (if_neg he)).trans (driver_of_tacho hu e))
  have hrest : t.tacho = { s.tacho with d1 := t.tacho.d1, d2 := t.tacho.d2 } := by
    rw [ht, ← hu]
    cases d <;> rfl
  unfold OtherDriverKept
  rw [hrest]
  exact ⟨⟨hother, rfl, rfl, rfl, rfl, rfl⟩, rfl, rfl, rfl⟩

theorem contSlot_marked (d : Driver) : Marked (contSlot d) (pageOf d) := by
  cases d
  · exact .inr (.inl ⟨rfl, .inl rfl⟩)
  · exact .inr (.inr ⟨rfl, .inl rfl⟩)

theorem leftSlot_marked (d : Driver) : Marked (leftSlot d) (pageOf d) := by
  cases d
  · exact .inr (.inl ⟨rfl, .inr (.inl rfl)⟩)
  · exact .inr (.inr ⟨rfl, .inr (.inl rfl)⟩)

/-- Settles O55: each driver's minute is `DriverRecord.minute`, and a frame's event reaches the card or the counters of one driver. -/
theorem minuteEvents : Obligations.MinuteEvents := by
  refine ⟨fun s due hdue hact => ?_, fun s r rest e x w d hland hfield hok => ?_, fun s r rest e x w d hland hfield => ?_⟩
  · have R := minutePassed_ripple (s.reach due)
    have htacho := minutePassed_tacho (s.reach due)
    refine ⟨(s.reach due).minutePassed, by rw [exec_minuteTimerExpiry, onExpiry_running hdue], by rw [htacho]; rfl,
      by rw [htacho]; rfl, by rw [htacho]; rfl, by rw [htacho]; rfl, by rw [htacho]; rfl, R, fun d => ?_⟩
    have hd : (s.reach due).minutePassed.driver d = s.minuteRecord d := driver_minutePassed (s := s.reach due) hact d
    refine ⟨fun habsent => hd.trans (if_pos habsent), fun hpresent => ?_⟩
    have hshow := minutePassed_shows (s := s.reach due) hact d hpresent
    have hkept := minute_kept (s.driver d) (s.paramNat 18) (s.paramNat 19) (s.paramNat 20) (s.activity d)
    have hold := hd.trans (minuteRecord_present s d hpresent)
    rw [← minuteRecord_present s d hpresent, ← hd] at hkept
    rw [← show s.minuteRecord d = (s.reach due).minuteRecord d from rfl, ← hd] at hshow
    refine ⟨hkept.1, hkept.2.1, hkept.2.2, hshow.1, hshow.2, fun hoff hchange => ?_, fun ha => ?_, fun ha => ?_, fun ha => ?_,
      fun v ha hv => ?_⟩
    · rcases hchange with hchange | hchange | hchange
      · exact R.told.drivers hoff d hchange
      · exact R.told.slots hoff _ _ (contSlot_marked d) hchange
      · exact R.told.slots hoff _ _ (leftSlot_marked d) hchange
    · rw [hold, ha]
      exact minute_none _ _ _ _
    · obtain ⟨v, hv⟩ := Option.ne_none_iff_exists'.mp ha
      rw [hold, hv]
      exact minute_state _ _ _ _ v
    · rw [hold, ha]
      exact minute_rest _ _ _ _
    · rw [hold, ha]
      exact minute_work _ _ _ _ hv
  · obtain ⟨u, hrun, htold, htacho, hparam⟩ := routedFrame_told hland
    have hname : OnlyField u (cardParam d) (landedEvent s e x w).slot := onlyField_of_param hfield hparam
    rw [tachoEvent_card hname (landedEvent_frame hland)] at hrun
    refine ⟨u, _, hrun, htold, htacho, fun inserts hins => ?_⟩
    have hins : (landedEvent s e x w).inserts = true ↔ inserts := (landedEvent_inserts s e x w).trans hins.symm
    have hzero := landedEvent_holds s e x w 0
    refine ⟨fun hi => ?_, fun hw => ?_, fun hi hw => ?_⟩
    · obtain ⟨R, ht, hs, -, -⟩ := displayEvent_keeps (u.insertCard d) x.a.slot
      rw [cardEvent_inserts hname.1 (hins.mpr hi)]
      exact cardInserted_tail R ht hs (insertCard_spec u d)
    · obtain ⟨R, ht, hs, -, -⟩ := displayEvent_keeps (u.withdrawCard d) x.a.slot
      rw [cardEvent_withdraws hname.1 (hzero.mpr hw)]
      exact cardWithdrawn_tail R ht hs (withdrawCard_spec u d (by rw [htacho]; exact hok))
    · obtain ⟨-, -, -, hlink, hdisplay⟩ := displayEvent_keeps u x.a.slot
      rw [cardEvent_none (fun h => hi (hins.mp h)) fun h => hw (hzero.mp h)]
      exact ⟨hlink, hdisplay⟩
  · obtain ⟨u, hrun, htold, htacho, hparam⟩ := routedFrame_told hland
    have hname : OnlyField u (contParam d) (landedEvent s e x w).slot := onlyField_of_param hfield hparam
    have hdriver : ∀ f, u.driver f = s.driver f := driver_of_tacho htacho
    rw [tachoEvent_cont hname (landedEvent_frame hland)] at hrun
    refine ⟨u, _, hrun, htold, htacho, ?_⟩
    by_cases hv : ∃ v : Nat, w = .fresh v ∧ v ≤ 1439 ∧ (s.driver d).state ≠ .noDriver
    · obtain ⟨v, hw, hle, hp⟩ := hv
      rw [contEvent_reconciles hname.1 ((landedEvent_holds s e x w v).mpr hw) hle (by rw [hdriver]; exact hp)]
      obtain ⟨-, ht, hs, -, -⟩ := displayEvent_keeps (u.reconcile d v) x.a.slot
      obtain ⟨hripple, hrecord⟩ := reconcile_spec u d v
      obtain ⟨hother, hqueue, htransfer, htimer⟩ := putDriver_keeps htacho (ht.trans hrecord)
      obtain ⟨hcont, hleft⟩ := reconcile_shows u d v
      have hnew : ((u.reconcile d v).displayEvent x.a.slot).driver d = (s.driver d).reconciled v := by
        rw [driver_of_tacho ht, driver_reconcile, if_pos rfl, hdriver]
      refine ⟨hripple.trans (ripple_displayEvent _ _ _), hother, hqueue, htransfer, htimer, fun v' hw' _ _ => ?_, fun h => ?_⟩
      · obtain rfl : v' = v := by
          rw [hw] at hw'
          exact (Int.ofNat.inj (SlotWrite.fresh.inj hw')).symm
        rw [hs, hs, hcont, hleft, hparam]
        exact ⟨hnew, rfl, rfl⟩
      · rcases h with h | h
        · exact absurd (h v hw) (by omega)
        · exact absurd h hp
    · have hnone : (∀ v : Nat, w = .fresh v → 1439 < v) ∨ (s.driver d).state = .noDriver := by
        by_contra hno
        simp only [not_or, not_forall, not_lt] at hno
        obtain ⟨⟨v, hw, hle⟩, hp⟩ := hno
        exact hv ⟨v, hw, hle, hp⟩
      rw [contEvent_none (d := d) (hnone.imp (fun h v hev => h v ((landedEvent_holds s e x w v).mp hev)) (by rw [hdriver]; exact id))]
      obtain ⟨-, ht, -, hlink, hdisplay⟩ := displayEvent_keeps u x.a.slot
      have hself : (u.displayEvent x.a.slot).tacho = (u.putDriver d (u.driver d)).tacho := ht.trans (by cases d <;> rfl)
      obtain ⟨hother, hqueue, htransfer, htimer⟩ := putDriver_keeps htacho hself
      exact ⟨ripple_displayEvent _ u _, hother, hqueue, htransfer, htimer, fun v hw hle hp => absurd ⟨v, hw, hle, hp⟩ hv,
        fun _ => ⟨hlink, hdisplay⟩⟩

end Sys2Proof.Machine
end

section
/-! What WAKING entry comes to (R188): the stores loaded, every block at its entry, and the first writes and evaluations behind it. -/

namespace Sys2Proof.Machine

/-! ### The loads (R182 to R184) -/

/-- The configuration that a store gives at a load. -/
def loadedConfig (contents : StoreContents ConfigImage) : ConfigImage := (goodConfig contents).getD ConfigImage.empty

/-- A load installs the store's configuration, VALID where the store is good. -/
theorem loadConfig_eq (s : State) :
    s.loadConfig = s.installConfig (loadedConfig s.store.config) (goodConfig s.store.config).isSome := by
  unfold State.loadConfig loadedConfig
  split <;> next h => rw [h]; rfl

theorem configLoads (contents : StoreContents ConfigImage) :
    ConfigLoads contents (loadedConfig contents) (goodConfig contents).isSome := by
  unfold loadedConfig
  refine ⟨fun image h hp => ?_, fun h => ?_⟩
  · have e : goodConfig contents = some image := by rw [h]; exact if_pos hp
    rw [e]
    exact ⟨rfl, rfl⟩
  · have e : goodConfig contents = none := by
      match contents, h with
      | .blank, _ => rfl
      | .bad, _ => rfl
      | .image image, h => exact if_neg (by rw [h image rfl]; decide)
    rw [e]
    exact ⟨rfl, rfl⟩

/-- A loaded rule stands in a good image: its own ranges hold and no index stands twice. -/
theorem loadedConfig_rules (contents : StoreContents ConfigImage) :
    (∀ q ∈ (loadedConfig contents).rules, q.index < 64) ∧ ((loadedConfig contents).rules.map (·.index)).Nodup := by
  have key : ∀ image : ConfigImage, image.passes = true →
      (∀ q ∈ image.rules, q.index < 64) ∧ (image.rules.map (·.index)).Nodup := by
    intro image h
    simp only [ConfigImage.passes, Bool.and_eq_true, List.all_eq_true] at h
    obtain ⟨⟨⟨⟨_, hrules⟩, hascends⟩, _⟩, _⟩ := h
    refine ⟨fun q hq => ?_, (noneTwice_ascends _ hascends).imp fun h => Nat.ne_of_lt h⟩
    have hp := hrules q hq
    simp only [StoredRule.passes, Bool.and_eq_true, decide_eq_true_eq] at hp
    exact hp.1.1.1.1.1.1.1
  have none' : (∀ q ∈ ConfigImage.empty.rules, q.index < 64) ∧ (ConfigImage.empty.rules.map (·.index)).Nodup :=
    ⟨fun _ h => (List.not_mem_nil h).elim, List.nodup_nil⟩
  unfold loadedConfig goodConfig
  split
  · exact none'
  · exact none'
  · next image =>
    split
    · next h => exact key image h
    · exact none'

theorem calLoads (contents : StoreContents CalImage) : CalLoads contents (loadedCal contents) := by
  intro good hg
  have good_iff (i : CalImage) : good i ↔ i.passes = true := (hg i).trans (cal_good i).symm
  refine ⟨fun i h hi => ?_, fun h => ?_⟩
  · rw [h]
    exact if_pos ((good_iff i).mp hi)
  · match contents, h with
    | .blank, _ => rfl
    | .bad, _ => rfl
    | .image i, h => exact if_neg fun hp => h i rfl ((good_iff i).mpr hp)

/-- What the calibration store holds once a write in flight and its follow-on have had their time (R182, log 11). -/
def State.settledCal (s : State) : StoreContents CalImage :=
  match s.store.write with
  | .idle => s.store.calibration
  | .writing image => .image image
  | .writingPending _ => .image s.calImage

/-- The writes settled: the store and the controller's mark. -/
theorem settleWrite_eq (s : State) :
    s.settleWrite =
      { s with
        store.calibration := s.settledCal, store.write := .idle, store.writeTimer := none,
        ign.writeMark := s.ign.writeMark && decide (s.store.write = .idle) } := by
  unfold State.settleWrite State.settledCal
  cases h : s.store.write <;> simp [State.calWritten, h, State.startCalWrite, State.calImage]

/-! ### The blocks before the first writes -/

/-- Every block at WAKING entry, before the first writes. -/
def State.wokenBlocks (s : State) : State :=
  ((({ s with ign := s.ign.wake }).settleWrite.wakeManagement.loadConfig.loadCal).wakeInput.wakeOutput.wakeNeedlesAndLamps).pollDisplay

/-- What follows the blocks' entries: the first writes, the rules' first evaluation and the report of a bad configuration. -/
def State.firstEvents (s : State) : State := s.firstWrites.evalAll.reportConfig

/-- The controller after WAKING entry: prove-out runs where it has a length, and the line is compared. -/
def State.wokenIgn (s : State) : Ignition :=
  { s.ign with
    power := .waking, reports := Bank.fill 8 .none,
    proveOutRunning := decide (0 < (loadedConfig s.store.config).params.get 3 0), runSeconds := 0,
    writeMark := s.ign.writeMark && decide (s.store.write = .idle),
    timer := if s.pins.ign = s.ign.level then none else some (s.clock + if s.pins.ign then 100000 else 500000) }

/-- With every kind due the link that is IDLE chooses. -/
theorem poll_allDirty (d : Display) (ready : Bool) (now : Nat) (hi : d.link = .idle)
    (hd : d.dirty = ⟨true, true, true, true, true, true⟩) : d.poll ready now = linkChooses d ready now := by
  refine (poll_chooses d ready now hi).2 ?_
  simp [Display.due, hd]

theorem wakeFlags_inWord (flags : BitVec 12) (cut : Bool) (f : EventFlag) :
    f.inWord (wakeFlags flags cut) = (cut && decide (f = .saveFailed) && f.inWord flags) := by
  cases cut
  · cases f <;> simp [wakeFlags, EventFlag.inWord]
  · cases f <;> simp [wakeFlags, EventFlag.inWord, EventFlag.mask, EventFlag.index]

/-- The prove-out timer of 0 ms does not run. -/
theorem proveOut_zero (v : Int) (n : Nat) :
    (if v.toNat = 0 then (none : Timer) else some (n + v.toNat * 1000)) = if 0 < v then some (n + 1000 * v.toNat) else none := by
  by_cases h : 0 < v
  · rw [if_neg (by omega), if_pos h, Nat.mul_comm]
  · rw [if_pos (by omega), if_neg h]

/-- The blocks' entries on the stores' contents: the write settled, the configuration and the calibration loaded. -/
theorem wokenBlocks_form (s : State) :
    s.wokenBlocks =
      ((({ s with
          ign.power := .waking, ign.reports := Bank.fill 8 .none, ign.proveOutRunning := true, ign.runSeconds := 0,
          ign.writeMark := s.ign.writeMark && decide (s.store.write = .idle), store.calibration := s.settledCal,
          store.write := .idle, store.writeTimer := none } : State).wakeManagement.installConfig
        (loadedConfig s.store.config) (goodConfig s.store.config).isSome).loadCal.wakeInput.wakeOutput.wakeNeedlesAndLamps).pollDisplay := by
  unfold State.wokenBlocks
  rw [settleWrite_eq, loadConfig_eq]
  rfl

theorem wokenBlocks_flags (s : State) : s.wokenBlocks.mgmt.flags = wakeFlags s.mgmt.flags s.store.saveCut := by
  rw [wokenBlocks_form]
  rfl

theorem wokenBlocks_calibration (s : State) : s.wokenBlocks.store.calibration = s.settledCal := by
  rw [wokenBlocks_form]
  rfl

/-- Every channel is HOMING with the record loaded (R45, R54). -/
theorem wokenBlocks_channel (s : State) (n : Nat) (hn : n < 8) :
    s.wokenBlocks.channel n =
      homingChannel s.clock (s.channel n) ((loadedConfig s.store.config).gauges.get n LiveRecord.factory) := by
  have e : s.wokenBlocks.gauges =
      ((List.range 8).foldl (loadChannel (loadedConfig s.store.config)) s.gauges).map (fun c => c.home s.clock) := by
    rw [wokenBlocks_form]
    rfl
  unfold State.channel
  rw [e, Bank.get_map_inside _ _ _ _ Channel.powerOn hn, loadFold_get _ _ _ hn]
  rfl

/-- The rules are those of the loaded configuration (R87). -/
theorem wokenBlocks_rules (s : State) : s.wokenBlocks.telltale.rules = loadRules (loadedConfig s.store.config).rules := by
  rw [wokenBlocks_form]
  rfl

theorem wokenBlocks_rule_free (s : State) (i : Nat) (h : ∀ q ∈ (loadedConfig s.store.config).rules, q.index ≠ i) :
    s.wokenBlocks.rule i = Rule.blank := by
  obtain ⟨hin, hnodup⟩ := loadedConfig_rules s.store.config
  unfold State.rule
  rw [wokenBlocks_rules]
  exact ((loadRules_get _ _ hnodup hin).1 i h).trans (rule_reset i)

theorem wokenBlocks_rule_loaded (s : State) (q : StoredRule) (h : q ∈ (loadedConfig s.store.config).rules) :
    s.wokenBlocks.rule q.index = q.load := by
  obtain ⟨hin, hnodup⟩ := loadedConfig_rules s.store.config
  unfold State.rule
  rw [wokenBlocks_rules]
  exact (loadRules_get _ _ hnodup hin).2 q h

/-- The blocks before the first writes, with the controller as WAKING entry leaves it. -/
theorem wakingBlocks (s : State) :
    WakingBlocks s { s.wokenBlocks with ign := s.wokenIgn } (loadedConfig s.store.config)
      (goodConfig s.store.config).isSome (loadedCal s.settledCal) := by
  refine ⟨?_, fun f => ?_, ?_, wokenBlocks_channel s, fun i _ => wokenBlocks_rule_free s i, wokenBlocks_rule_loaded s⟩
  · unfold State.wokenBlocks
    rw [settleWrite_eq, loadConfig_eq]
    unfold State.pollDisplay
    rw [poll_allDirty _ _ _ rfl rfl, ← proveOut_zero]
    simp only [Nat.mul_comm 1000]
    rfl
  · show f.inWord s.wokenBlocks.mgmt.flags = _
    rw [wokenBlocks_flags, wakeFlags_inWord]
  · show s.wokenBlocks.store.calibration = _
    rw [wokenBlocks_calibration]
    unfold State.settledCal
    cases s.store.write <;> rfl

/-! ### The end of WAKING entry -/

theorem wokenBlocks_ign (s : State) :
    s.wokenBlocks.ign = { s.ign.wake with writeMark := s.ign.writeMark && decide (s.store.write = .idle) } := by
  rw [wokenBlocks_form]
  rfl

theorem wokenBlocks_pins (s : State) : s.wokenBlocks.pins = s.pins ∧ s.wokenBlocks.clock = s.clock := by
  rw [wokenBlocks_form]
  exact ⟨rfl, rfl⟩

/-- Prove-out runs where it has a length (R82). -/
theorem wokenBlocks_proveOut (s : State) :
    s.wokenBlocks.telltale.proveOut.isSome = decide (0 < (loadedConfig s.store.config).params.get 3 0) := by
  have e := congrArg (fun b : State => b.telltale.proveOut) (wakingBlocks s).1
  have e : s.wokenBlocks.telltale.proveOut = _ := e
  rw [e]
  by_cases h : 0 < (loadedConfig s.store.config).params.get 3 0 <;> simp [h]

theorem wokenBlocks_alert (s : State) : s.wokenBlocks.alert = { State.reset.alert with ackArmed := !s.pins.ack } := by
  have e := congrArg State.alert (wakingBlocks s).1
  exact e

theorem wokenBlocks_table (s : State) : s.wokenBlocks.table = State.reset.table := by
  have e := congrArg State.table (wakingBlocks s).1
  exact e

theorem wokenBlocks_slot (s : State) (n : Nat) : s.wokenBlocks.slot n = State.reset.slot n := by
  unfold State.slot
  rw [wokenBlocks_table]

theorem wokenBlocks_tacho (s : State) : s.wokenBlocks.tacho = State.reset.tacho := by
  have e := congrArg State.tacho (wakingBlocks s).1
  exact e

theorem wokenBlocks_report (s : State) : s.wokenBlocks.store.report = (goodConfig s.store.config).isSome := by
  have e := congrArg (fun b : State => b.store.report) (wakingBlocks s).1
  exact e

theorem wokenBlocks_odometer (s : State) : s.wokenBlocks.dist.liveOdo = (loadedCal s.settledCal).odometer := by
  have e := congrArg (fun b : State => b.dist.liveOdo) (wakingBlocks s).1
  exact e

/-- The lamps resolved, and nothing else. -/
def LampsSettled (s t : State) : Prop :=
  Ripple (fun _ => False) s t ∧ ∃ lamps : Bank Lamp 32, t = { s with telltale.lamps := lamps }

theorem lampsSettled_settleLamps (s : State) : LampsSettled s s.settleLamps :=
  ⟨ripple_settleLamps _ s, settleLamps_only s⟩

theorem LampsSettled.trans {s t u : State} (h : LampsSettled s t) (k : LampsSettled t u) : LampsSettled s u := by
  obtain ⟨hr, l, rfl⟩ := h
  obtain ⟨kr, m, rfl⟩ := k
  exact ⟨hr.trans kr, m, rfl⟩

/-- With no channel's report, the end of prove-out at WAKING entry is the controller's mark and the lamps. -/
theorem skipProveOut_settled (u : State) (hr : u.ign.reports = Bank.fill 8 .none) (hp : u.ign.proveOutRunning = true) :
    LampsSettled { u with ign.proveOutRunning := u.telltale.proveOut.isSome } u.skipProveOut.settleLamps := by
  unfold State.skipProveOut
  split
  · next h =>
    have hn : u.telltale.proveOut = none := Option.isNone_iff_eq_none.mp h
    have e : ({ u with telltale.proveOut := none, ign.proveOutRunning := false } : State) =
        { u with ign.proveOutRunning := u.telltale.proveOut.isSome } := by
      have hb : u.telltale.proveOut.isSome = false := by rw [hn]; rfl
      rw [hb, ← hn]
    unfold State.proveOutEnded
    rw [e]
    have R := lampsSettled_settleLamps { u with ign.proveOutRunning := u.telltale.proveOut.isSome }
    rw [judgeRun_unreported _ (by rw [R.1.ign]; exact hr)]
    exact R.trans (lampsSettled_settleLamps _)
  · next h =>
    have hs : u.telltale.proveOut.isSome = true := by
      cases hq : u.telltale.proveOut <;> simp_all
    have e : ({ u with ign.proveOutRunning := u.telltale.proveOut.isSome } : State) = u := by
      rw [hs, ← hp]
    rw [e]
    exact lampsSettled_settleLamps u

/-- The slots that the first writes after slot 13's name (R39). -/
theorem firstList_slots {odo : Int} {p : Nat × SlotWrite} (hp : p ∈ firstList odo) :
    p.1 ∈ firstSlots ∧ p.1 ≠ 13 ∧ p.1 < 96 := by
  have known : ∀ n ∈ [1, 2, 4, 6, 5, 7, 8, 9, 12, 14], n ∈ firstSlots ∧ n ≠ 13 ∧ n < 96 := by decide
  have hl : p.1 ∈ (firstList odo).map (·.1) := List.mem_map_of_mem hp
  exact known p.1 hl

theorem ripple_firstSlots (s : State) : Ripple (· ∈ firstSlots) s s.firstWrites := by
  have h13 : 13 ∈ firstSlots := by decide
  rw [firstWrites_eq]
  exact (ripple_writePlain _ s 13 _ h13 h13).trans (runWrites_ripple _ h13 _ _ fun p hp => (firstList_slots hp).1)

theorem ripple_firstEvents (s : State) : Ripple (· ∈ firstSlots) s s.firstEvents (fun _ => True) := by
  have h13 : 13 ∈ firstSlots := by decide
  exact (((ripple_firstSlots s).wide fun _ _ => trivial).trans (ripple_evalAll _ _ h13)).trans
    ((ripple_reportConfig _ _ h13).wide fun _ _ => trivial)

/-- The state with other lamps and another controller. -/
def State.relit (u : State) (lamps : Bank Lamp 32) (g : Ignition) : State := { u with telltale.lamps := lamps, ign := g }

@[simp] theorem relit_slot (u : State) (lamps : Bank Lamp 32) (g : Ignition) (n : Nat) :
    (u.relit lamps g).slot n = u.slot n := rfl

@[simp] theorem relit_rule (u : State) (lamps : Bank Lamp 32) (g : Ignition) (i : Nat) :
    (u.relit lamps g).rule i = u.rule i := rfl

@[simp] theorem relit_tacho (u : State) (lamps : Bank Lamp 32) (g : Ignition) : (u.relit lamps g).tacho = u.tacho := rfl

@[simp] theorem relit_alert (u : State) (lamps : Bank Lamp 32) (g : Ignition) : (u.relit lamps g).alert = u.alert := rfl

@[simp] theorem relit_mgmt (u : State) (lamps : Bank Lamp 32) (g : Ignition) : (u.relit lamps g).mgmt = u.mgmt := rfl

/-- WAKING entry's end: the state of the first events with the lamps resolved and the controller as it is left. -/
theorem wakingEntry_settled (s : State) :
    Ripple (· ∈ firstSlots) { s.wokenBlocks with ign := s.wokenIgn } s.wakingEntry (fun _ => True) ∧
      ∃ lamps : Bank Lamp 32, s.wakingEntry = s.wokenBlocks.firstEvents.relit lamps s.wokenIgn := by
  have entry : s.wakingEntry = (s.wokenBlocks.firstEvents.skipProveOut.settleLamps).compareIgn := rfl
  have R := ripple_firstEvents s.wokenBlocks
  have hign := wokenBlocks_ign s
  obtain ⟨hpins, hclock⟩ := wokenBlocks_pins s
  have hproof := wokenBlocks_proveOut s
  rw [entry]
  generalize s.wokenBlocks = b at *
  generalize b.firstEvents = u at *
  have hu : u.ign = { s.ign.wake with writeMark := s.ign.writeMark && decide (s.store.write = .idle) } := R.ign.trans hign
  have hrun : u.telltale.proveOut.isSome = decide (0 < (loadedConfig s.store.config).params.get 3 0) := by
    rw [← hproof]
    have e := congrArg Telltale.proveOut R.telltale
    exact congrArg Option.isSome e
  obtain ⟨Q, lamps, hl⟩ := skipProveOut_settled u (by rw [hu]; rfl) (by rw [hu]; rfl)
  generalize u.skipProveOut.settleLamps = w at *
  have e : w.compareIgn = { w with ign := s.wokenIgn } := by
    unfold State.compareIgn State.ignMark State.after State.wokenIgn
    have hi := Q.ign
    rw [hrun, hu] at hi
    rw [hi, Q.pins, Q.clock, R.pins, R.clock, hpins, hclock]
    cases s.pins.ign <;> rfl
  refine ⟨?_, lamps, by rw [e, hl]; rfl⟩
  rw [e]
  have hpower : s.wokenIgn.power = b.ign.power := by rw [hign]; rfl
  have hpower' : s.wokenIgn.power = u.ign.power := by rw [hu]; rfl
  exact (ripple_ign s.wokenIgn R hpower).trans
    (((ripple_ign s.wokenIgn Q hpower').mono fun _ h => h.elim).wide fun _ _ => trivial)

/-! ### The first writes, the first evaluation and the report of a bad configuration -/

theorem cascade_reportConfig (s : State) : Cascade s s.reportConfig := by
  unfold State.reportConfig
  split
  · exact Cascade.refl s
  · exact (cascade_raise s _).trans (cascade_send _ _)

theorem firstWrites_tacho (s : State) : s.firstWrites.tacho = s.tacho := by
  rw [firstWrites_eq, runWrites_tacho, writePlain_tacho]

theorem firstEvents_tacho (s : State) : s.firstEvents.tacho = s.tacho :=
  ((cascade_reportConfig _).tacho.trans (evalAll_spec _).1).trans (firstWrites_tacho s)

/-- Slot 13 is FRESH from its own write on (R39). -/
theorem firstEvents_top (s : State) : (s.firstEvents.slot 13).state = .fresh := by
  refine (cascade_reportConfig _).top ((evalAll_spec _).2.1 ?_)
  rw [firstWrites_eq]
  exact runWrites_top _ _ (by simp [firstList]) (write13_top s 0)

/-- Every slot of the list holds its own first write (R39). -/
theorem firstEvents_slot (s : State) (p : Nat × SlotWrite) (hp : p ∈ firstList (s.dist.liveOdo / 100 : Nat)) :
    s.firstEvents.slot p.1 = (s.slot p.1).written p.2 none s.clock := by
  obtain ⟨_, h13, hroom⟩ := firstList_slots hp
  have later : s.firstEvents.slot p.1 = s.firstWrites.slot p.1 :=
    ((ripple_reportConfig (· = 13) _ rfl).slots p.1 h13).trans ((ripple_evalAll (· = 13) _ rfl).slots p.1 h13)
  have top := ripple_writePlain (· = 13) s 13 (.fresh 0) rfl rfl
  have once : ((firstList (s.dist.liveOdo / 100 : Nat)).map (·.1)).Nodup := by
    show [1, 2, 4, 6, 5, 7, 8, 9, 12, 14].Nodup
    decide
  rw [later, firstWrites_eq, runWrites_slot _ _ once p hp h13 hroom, top.slots p.1 h13, top.clock]

/-- A rule on a slot that the first writes leave stands as it was until its first evaluation. -/
theorem firstWrites_rule (s : State) (i n : Nat) (hn : (s.rule i).liveSlot = some n) (hf : n ∉ firstSlots) :
    s.firstWrites.rule i = s.rule i := by
  have apart : ∀ m, m ∈ firstSlots → (s.rule i).liveSlot ≠ some m :=
    fun m hm e => hf (by rw [Option.some.inj (hn.symm.trans e)]; exact hm)
  have h13 := apart 13 (by decide)
  have first := (apart_writePlain s 13 (.fresh 0)).rules i h13 h13
  rw [firstWrites_eq, runWrites_rules _ _ i (by rw [first]; exact h13), first]
  intro p hp
  rw [first]
  exact apart p.1 (firstList_slots hp).1

/-- A rule on a slot that the first writes leave evaluates that slot's record once (R87). -/
theorem firstEvents_rule (s : State) (i n : Nat) (hi : i < 64) (hp : s.ign.power = .waking)
    (hn : (s.rule i).liveSlot = some n) (hf : n ∉ firstSlots) :
    s.firstEvents.rule i = ((s.rule i).react i s.clock (s.slot n)).1 := by
  have h13 : n ≠ 13 := fun e => hf (by rw [e]; decide)
  have R := ripple_firstSlots s
  have writes := firstWrites_rule s i n hn hf
  have evaluated : (s.firstWrites.evalRule i).1.rule i = ((s.rule i).react i s.clock (s.slot n)).1 := by
    unfold State.evalRule
    rw [writes, hn, R.ign, R.clock]
    simp only [hp, true_or, if_true]
    rw [State.rule_putRule_same _ _ _ hi, R.slots n hf]
  have heval := (evalAll_spec s.firstWrites).2.2 i hi (by rw [writes, hn]; exact fun e => h13 (Option.some.inj e))
  have hnamed : (s.firstWrites.evalAll.rule i).liveSlot = some n := by
    rw [heval, evaluated, ← hn]
    exact liveSlot_fixed (Rule.react_fixed _ _ _ _)
  have hreport := (cascade_reportConfig s.firstWrites.evalAll).rules i
    (by rw [hnamed]; exact fun e => h13 (Option.some.inj e))
  exact hreport.trans (heval.trans evaluated)

/-- Without a LIVE rule the first writes and the first evaluation leave the alert block, and the report of a bad configuration is its
one push (R183). -/
theorem firstEvents_unruled (s : State) (hp : s.ign.power = .waking) (hr : s.store.report = false)
    (hl : ∀ i, (s.rule i).liveSlot = none) (hb : s.alert.backlog = []) (hs : s.alert.stack = [])
    (h15 : (s.slot 15).state = .never) :
    Flagged s.firstEvents .configInvalid ∧ (s.firstEvents.slot 13).value = 3 ∧
      s.firstEvents.alert.stack =
        [{ code := 0xF001, severity := .stop, origin := .config, held := true, repeats := 0, raisedAt := 0 }] := by
  have R := ripple_firstSlots s
  have writes : s.firstWrites.alert = s.alert ∧ s.firstWrites.telltale.rules = s.telltale.rules := by
    have first := hushed_write s 13 (.fresh 0) (unruled_unwatched s hl 13)
    have rest := unruled_writes (firstList (s.dist.liveOdo / 100 : Nat)) (s.writePlain 13 (.fresh 0))
      (fun i => by simp only [State.rule, first.rules]; exact hl i)
    rw [firstWrites_eq]
    exact ⟨rest.1.trans first.alert, rest.2.trans first.rules⟩
  have hl' : ∀ i, (s.firstWrites.rule i).liveSlot = none := fun i => by simp only [State.rule, writes.2]; exact hl i
  have eval : s.firstWrites.evalAll = s.firstWrites := unruled_evalAll _ hl' (by rw [writes.1]; exact hb)
  have report : s.firstEvents = (s.firstWrites.raise .configInvalid).push 0xF001 .stop .config := by
    show s.firstWrites.evalAll.reportConfig = _
    rw [eval]
    unfold State.reportConfig
    rw [R.store, hr]
    rfl
  have push := unruled_push (s.firstWrites.raise .configInvalid) 0xF001 .stop .config
    (fun i => by simp only [State.rule, State.raise_telltale]; exact hl' i)
    (by rw [State.raise_alert, writes.1]; exact hb) (by rw [State.raise_alert, writes.1]; exact hs)
    (by rw [State.raise_ign, R.ign]; exact hp)
    (by simp only [State.slot, State.raise_table]; exact (congrArg SlotRecord.state (R.slots 15 (by decide))).trans h15)
  rw [report]
  exact ⟨(ripple_push (fun _ => True) _ _ _ _ trivial).flags _ (raise_flagged _ _), push.2, push.1⟩

/-! ### WAKING entry -/

/-- An evaluation from condition false and INACTIVE (R75). -/
theorem react_first (r : Rule) (i now : Nat) (rec : SlotRecord) (c : RulePartC) (hl : r.live = .inactive)
    (hc : r.condition = false) (hn : r.confirm = none) (hpart : r.c = some c) :
    FirstEvaluated r now c.confirmTime rec (r.react i now rec).1 := by
  have htime : r.confirmTime = 100000 * c.confirmTime := by
    simp only [Rule.confirmTime, hpart, ms]
    omega
  unfold FirstEvaluated Rule.react
  rw [hl, hc]
  cases hj : r.judge false rec
  · simp [hn]
  · by_cases hz : c.confirmTime = 0
    · have h0 : r.confirmTime = 0 := by rw [htime, hz]
      simp [h0, hz, Rule.activate]
    · simp [hz, htime, Nat.pos_of_ne_zero hz]

/-- A slot of the list after WAKING entry (R39). -/
theorem wakingEntry_slot (s : State) (p : Nat × SlotWrite)
    (hp : p ∈ firstList ((loadedCal s.settledCal).odometer / 100 : Nat)) :
    s.wakingEntry.slot p.1 = (State.reset.slot p.1).written p.2 none s.clock := by
  obtain ⟨_, lamps, entry⟩ := wakingEntry_settled s
  have h := firstEvents_slot s.wokenBlocks p (by rw [wokenBlocks_odometer]; exact hp)
  rw [entry, relit_slot, h, (wokenBlocks_pins s).2, wokenBlocks_slot]

theorem wakingEntry_shows (s : State) (n : Nat) (v : Int)
    (hp : (n, SlotWrite.fresh v) ∈ firstList ((loadedCal s.settledCal).odometer / 100 : Nat)) :
    Shows s.wakingEntry n v := by
  have h := wakingEntry_slot s _ hp
  unfold Shows
  rw [h]
  exact ⟨rfl, rfl⟩

theorem wakingEntry_notAvailable (s : State) (n : Nat)
    (hp : (n, SlotWrite.notAvailable) ∈ firstList ((loadedCal s.settledCal).odometer / 100 : Nat)) (hn : n < 16) :
    (s.wakingEntry.slot n).state = .notAvailable ∧ (s.wakingEntry.slot n).value = 0 := by
  have h := wakingEntry_slot s _ hp
  rw [h, slot_reset n (by omega), if_pos hn]
  exact ⟨rfl, rfl⟩

/-- A needle keeps to its homing while the first events are told (R51). -/
theorem wakingEntry_channel (s : State) (n : Nat) (hn : n < 8) :
    s.wakingEntry.channel n =
      { s.wokenBlocks.channel n with
        pending := (s.wakingEntry.channel n).pending, restTimer := (s.wakingEntry.channel n).restTimer,
        restMark := (s.wakingEntry.channel n).restMark } := by
  obtain ⟨R, _⟩ := wakingEntry_settled s
  refine channel_eq _ _ (R.channels n) (R.still n ?_)
  have e := wokenBlocks_channel s n hn
  intro h
  have h : (s.wokenBlocks.channel n).state = .tracking := h
  rw [e] at h
  exact nomatch h

/-- A loaded rule on a slot that the first writes leave has evaluated that slot's record (R87). -/
theorem wakingEntry_rule (s : State) (q : StoredRule) (hq : q ∈ (loadedConfig s.store.config).rules)
    (hf : q.a.slot ∉ firstSlots) :
    FirstEvaluated (s.wokenBlocks.rule q.index) s.clock q.c.confirmTime (State.reset.slot q.a.slot)
      (s.wakingEntry.rule q.index) := by
  obtain ⟨_, lamps, entry⟩ := wakingEntry_settled s
  have loaded := wokenBlocks_rule_loaded s q hq
  have once := firstEvents_rule s.wokenBlocks q.index q.a.slot ((loadedConfig_rules s.store.config).1 q hq)
    (by rw [wokenBlocks_ign]; rfl) (by rw [loaded]; rfl) hf
  rw [entry, relit_rule, once, (wokenBlocks_pins s).2, wokenBlocks_slot]
  exact react_first _ _ _ _ q.c (by rw [loaded]; rfl) (by rw [loaded]; rfl) (by rw [loaded]; rfl) (by rw [loaded]; rfl)

/-- An invalid configuration at WAKING entry: its flag and its alert (R183). -/
theorem wakingEntry_invalid (s : State) (hv : (goodConfig s.store.config).isSome = false) :
    Flagged s.wakingEntry .configInvalid ∧ (s.wakingEntry.slot 13).value = 3 ∧
      s.wakingEntry.alert.stack =
        [{ code := 0xF001, severity := .stop, origin := .config, held := true, repeats := 0, raisedAt := 0 }] := by
  obtain ⟨_, lamps, entry⟩ := wakingEntry_settled s
  have bare : (loadedConfig s.store.config).rules = [] := by
    unfold loadedConfig
    rw [Option.isSome_eq_false_iff, Option.isNone_iff_eq_none] at hv
    rw [hv]
    rfl
  have h := firstEvents_unruled s.wokenBlocks (by rw [wokenBlocks_ign]; rfl) (by rw [wokenBlocks_report, hv])
    (fun i => by rw [wokenBlocks_rule_free s i (by rw [bare]; exact fun _ h => nomatch h)]; rfl)
    (by rw [wokenBlocks_alert]; rfl) (by rw [wokenBlocks_alert]; rfl)
    (by rw [wokenBlocks_slot, slot_reset 15 (by decide)]; rfl)
  unfold Flagged at h ⊢
  rw [entry, relit_mgmt, relit_slot, relit_alert]
  exact h

theorem wakingEntry_entered (s : State) : WakingEntered s s.wakingEntry := by
  obtain ⟨R, lamps, entry⟩ := wakingEntry_settled s
  refine ⟨_, _, _, _, configLoads s.store.config, ?_, wakingBlocks s, R, ?_, fun n hn => ?_, fun n hn => ?_, ?_,
    fun n hn => ?_, ?_, wakingEntry_channel s, wakingEntry_rule s, wakingEntry_invalid s⟩
  · show CalLoads s.wokenBlocks.store.calibration _
    rw [wokenBlocks_calibration]
    exact calLoads _
  · rw [entry, relit_tacho, firstEvents_tacho, wokenBlocks_tacho]
  · exact (R.slots n hn).trans (wokenBlocks_slot s n)
  · have listed : ∀ odo : Int, ∀ n ∈ [1, 4, 6, 8, 9, 12, 14], (n, SlotWrite.fresh 0) ∈ firstList odo := by
      simp [firstList]
    exact wakingEntry_shows s n 0 (listed _ n hn)
  · exact wakingEntry_shows s 2 _ (by simp [firstList])
  · have listed : ∀ odo : Int, ∀ n ∈ [5, 7], (n, SlotWrite.notAvailable) ∈ firstList odo ∧ n < 16 := by
      simp [firstList]
    exact wakingEntry_notAvailable s n (listed _ n hn).1 (listed 0 n hn).2
  · rw [entry, relit_slot]
    exact firstEvents_top _

end Sys2Proof.Machine
end

section
/-! RESTART and RESTART_EXECUTE (R177): O20. -/

namespace Sys2Proof.Machine

theorem exec_restart (s : State) : exec .restart s = onRequest 0x06 judgeRestart s := rfl

theorem exec_restartExecute (s : State) : exec .restartExecute s = execRestartExecute s := rfl

/-- RESTART is answered OK and held pending behind its response (R177). -/
theorem restart_answers {s : State} {r : FrameRecord} {rest : List FrameRecord} (h : Asked 0x06 s r rest)
    (hs : ¬ Saving s) :
    exec .restart s = .next
      { answered s r rest .ok [] with
        mgmt.restart := some { ahead := s.responsePlace, limit := s.clock + 250000 } } := by
  have verdict : judgeRestart r { s with intake.queue := rest } =
      accepts (fun t => { t with mgmt.restart := some { ahead := s.responsePlace, limit := s.clock + 250000 } }) :=
    unlessSaving_idle _ hs
  rw [exec_restart, onRequest_verdict h verdict]
  rfl

/-- A pending restart waits for a calibration write in flight (R177). -/
theorem restartExecute_waits {s : State} {p : PendingRestart} (hp : s.mgmt.restart = some p) (hw : s.store.write ≠ .idle) :
    exec .restartExecute s = .next s := by
  rw [exec_restartExecute]
  unfold execRestartExecute
  rw [hp]
  exact if_neg hw

/-- A pending restart carried out, at its moment (R177). -/
theorem restartExecute_starts {s : State} {p : PendingRestart} (hp : s.mgmt.restart = some p) (hw : s.store.write = .idle) :
    exec .restartExecute s = .next
      (powerOnFrom { s with clock := max s.clock (if p.ahead = 0 then s.clock else p.limit) }).sampleIgn := by
  rw [exec_restartExecute]
  unfold execRestartExecute
  rw [hp]
  exact if_pos hw

theorem sampleIgn_low {x : State} (h : x.pins.ign = false) : x.sampleIgn = x := by
  unfold State.sampleIgn
  exact if_neg (by rw [h]; decide)

theorem sampleIgn_high {x : State} (h : x.pins.ign = true) : x.sampleIgn = State.wakingEntry { x with ign.level := true } := by
  unfold State.sampleIgn
  exact if_pos h

/-- Settles O20, by the power-on condition of R192 and what WAKING entry comes to from it. -/
theorem restart : Obligations.Restart := by
  refine ⟨fun s r rest h hs => ⟨_, restart_answers h hs, rfl⟩, fun s p hp hw => ⟨_, restartExecute_starts hp hw, ?_⟩,
    fun s p hp hw => restartExecute_waits hp hw⟩
  generalize hx : ({ s with clock := max s.clock (if p.ahead = 0 then s.clock else p.limit) } : State) = x
  have hclock : max s.clock (if p.ahead = 0 then s.clock else p.limit) = x.clock := by rw [← hx]
  have hpins : s.pins = x.pins := by rw [← hx]
  have hpending : s.pending = x.pending := by rw [← hx]
  have hstore : s.store = x.store := by rw [← hx]
  obtain ⟨_, clock, pins, pending, _, _, power, queue, pendingRestart, mask, config, calibration, _, _⟩ :=
    sampleIgn_spec (powerOnFrom x) rfl rfl rfl rfl rfl rfl rfl
  rw [hclock, hpins, hpending, hstore]
  refine ⟨clock, pins, pending, pendingRestart, queue, config, calibration, mask, fun low => sampleIgn_low low, fun high => ?_⟩
  have high' : (powerOnFrom x).pins.ign = true := high
  rw [high'] at power
  refine ⟨power, ?_⟩
  rw [sampleIgn_high high']
  exact wakingEntry_entered _

end Sys2Proof.Machine
end

section
/-! What PARKING entry and the return to RUN make of a channel and a rule (R58, R60, R88, R189, R191). -/

namespace Sys2Proof.Machine

/-! ### PARKING entry (R189) -/

/-- A needle at rest on another position than 0 starts down (R53). -/
theorem startMotion_home {c : Channel} (now : Nat) (ht : c.target = 0) (hp : c.position ≠ 0) :
    c.startMotion now = { c with direction := .down, level := 0, stepTimer := some (now + c.live.settings.intervals.get 0 0) } := by
  unfold Channel.startMotion Channel.interval
  rw [if_neg (by omega), if_pos (by omega)]

theorem park_parks (c : Channel) (now : Nat) : ChannelParks now c (c.park now) := by
  unfold Channel.park
  refine ⟨fun hs hd hp => ?_, fun hs hd hp => ?_, fun hs hd => ?_, fun hs => ?_, fun ht hh => ?_⟩
  · simp [hs, hd, hp]
  · simp only [hs, hd, if_true, hp, if_false]
    exact startMotion_home now rfl hp
  · simp [hs, hd]
  · simp [hs]
  · cases hs : c.state with
    | tracking => exact absurd hs ht
    | homing => exact absurd hs hh
    | unhomed => rfl
    | parking => rfl
    | parked => rfl
    | fault => rfl

theorem park_parkedRule (r : Rule) : r.park = parkedRule r := by
  unfold Rule.park parkedRule
  cases r.life <;> rfl

/-- No channel takes an event of PARKING entry once it has parked (R48, R58). -/
theorem parkingEntry_channel (s : State) (c : Nat) (hc : c < 8) :
    ChannelParks s.clock (s.channel c) (s.parkingEntry.channel c) := by
  obtain ⟨p, q, he, R, hp⟩ := parkingEntry_spec s
  have hg : p.gauges = s.gauges.map (fun c => c.park s.clock) := by
    obtain ⟨_, _, _, _, _, _, _, _, _, _, _, _, _, _, _, hg, _⟩ := hp
    exact hg
  have hch : p.channel c = (s.channel c).park s.clock := by
    unfold State.channel
    rw [hg]
    exact Bank.get_map_inside _ _ _ _ _ hc
  have kept : s.parkingEntry.channel c = (s.channel c).park s.clock := by
    rw [he]
    exact (R.deaf c (by rw [hch]; exact park_deaf _ _)).trans hch
  rw [kept]
  exact park_parks _ _

/-- No rule evaluates in PARKING (R75, R88). -/
theorem parkingEntry_rule (s : State) (i : Nat) (hi : i < 64) : s.parkingEntry.rule i = parkedRule (s.rule i) := by
  obtain ⟨p, q, he, R, hp⟩ := parkingEntry_spec s
  obtain ⟨_, hpower, _, _, _, _, _, _, _, _, _, _, _, _, _, _, hrules, _⟩ := hp
  have hrule : p.rule i = (s.rule i).park := by
    unfold State.rule
    rw [hrules]
    exact Bank.get_map_inside _ _ _ _ _ hi
  have kept : q.rule i = p.rule i := by
    by_contra hne
    have run := (R.evaluated i hne).1
    rw [hpower] at run
    simp at run
  rw [he]
  exact kept.trans (hrule.trans (park_parkedRule _))

/-! ### The return to RUN (R191) -/

theorem unpark_returns {s : State} {c : Channel} (h : curveAscends c.live.curve = true) :
    ChannelReturns s c (c.unpark s.table.slots s.clock) := by
  unfold Channel.unpark
  refine ⟨fun hs => ?_, fun hs => ?_, fun hs hm => ?_, fun hp hd hh => ?_⟩
  · rw [hs]
    exact evaluate_evaluated s _ false h
  · rw [hs]
    exact evaluate_evaluated s _ false h
  · rw [hs]
    simp only [hm, if_true]
    exact evaluate_evaluated s _ false h
  · cases hs : c.state with
    | parking => exact absurd hs hp
    | parked => exact absurd hs hd
    | homing =>
      have hm : c.parkMark = false := hh.resolve_left (fun h => h hs)
      simp [hm]
    | unhomed => rfl
    | tracking => rfl
    | fault => rfl

/-- The state of the return to RUN before the rules evaluate: the timers and the needles. -/
theorem returnToRun_form (s : State) :
    ∃ x : State, s.returnToRun = ((x.resumeRules.settleLamps.tryStart).markDirty [.pageSelect]).compareIgn ∧
      x.ign.power = .run ∧ x.clock = s.clock ∧ x.table = s.table ∧ x.mgmt = s.mgmt ∧ x.alert = s.alert ∧
      x.telltale = s.telltale ∧ x.gauges = s.gauges.map (fun c => c.unpark s.table.slots s.clock) ∧
      x.tacho = { s.tacho with minuteTimer := some (s.clock + 60000000) } := by
  obtain ⟨reports, hm⟩ := moveAll_only
    { s with
      ign.power := .run, ign.hold := false, ign.parkingTimer := none, ign.secondTimer := s.after (ms 1000),
      tacho.minuteTimer := s.after (ms 60000) } (fun c => c.unpark s.table.slots s.clock)
  unfold State.returnToRun
  simp only []
  rw [hm]
  exact ⟨_, rfl, rfl, rfl, rfl, rfl, rfl, rfl, rfl, rfl⟩

/-- The rules have evaluated at the return to RUN, and then the alert block acts on what they sent. -/
theorem resumeRules_form (x : State) :
    ∃ rules : Bank Rule 64, x.resumeRules =
        ({ x with telltale.rules := rules } : State).send ((List.range 64).flatMap fun i => (resumed x i).2) ∧
      ∀ i, i < 64 → ({ x with telltale.rules := rules } : State).rule i = (resumed x i).1 := by
  obtain ⟨rules, hr⟩ := resumeFold_rules (List.range 64) (x, [])
  obtain ⟨each, sent⟩ := resume_rule (List.range 64) (x, []) (fun i hi => List.mem_range.mp hi) List.nodup_range
  refine ⟨rules, ?_, fun i hi => ?_⟩
  · unfold State.resumeRules
    simp only []
    rw [sent, hr]
    rfl
  · rw [← hr, each i hi, if_pos (List.mem_range.mpr hi)]

/-- What follows the rules' evaluation reaches only what names slots 8, 9 and 13. -/
theorem far_afterResume (x : State) (l : List AlertAction) :
    Far x (((x.send l).settleLamps.tryStart).markDirty [.pageSelect]).compareIgn :=
  ((((cascade_send x l).far.trans (cascade_settleLamps _).far).trans (far_tryStart _)).trans (cascade_markDirty _ _).far).trans
    (far_compareIgn _)

theorem consumes_false {c : Channel} {n : Nat} (h : c.live.settings.source ≠ n ∧ c.live.settings.fallback ≠ some n) :
    c.consumes n = false := by
  unfold Channel.consumes
  simp [h.1, h.2]

theorem returnToRun_channel {s : State} (hr : RecordsOk s) {c : Nat} (hc : c < 8)
    (hn : ∀ n ∈ [8, 9, 13], (s.channel c).live.settings.source ≠ n ∧ (s.channel c).live.settings.fallback ≠ some n) :
    ChannelReturns s (s.channel c) (s.returnToRun.channel c) := by
  obtain ⟨x, he, _, _, _, _, _, _, hg, _⟩ := returnToRun_form s
  obtain ⟨rules, hs, _⟩ := resumeRules_form x
  have moved : ({ x with telltale.rules := rules } : State).channel c = (s.channel c).unpark s.table.slots s.clock := by
    unfold State.channel
    show x.gauges.get c _ = _
    rw [hg]
    exact Bank.get_map_inside _ _ _ _ _ hc
  have kept := (far_afterResume { x with telltale.rules := rules } ((List.range 64).flatMap fun i => (resumed x i).2)).channels c
    (fun n h => by rw [moved]; exact consumes_false (by rw [unpark_live]; exact hn n h))
  rw [he, hs, kept, moved]
  exact unpark_returns (recordsOk_ascends hr hc)

/-- A rule that PARKING left INACTIVE, at the return to RUN (R88's table). -/
theorem resume_returns {r : Rule} {c : RulePartC} (i now : Nat) (rec : SlotRecord) (hl : r.live = .inactive)
    (hc : r.condition = false) (hn : r.confirm = none) (hpart : r.c = some c) :
    RuleReturns now c.confirmTime rec r (r.resume i now rec).1 := by
  have fixed := Rule.react_fixed r i now rec
  unfold Rule.resume
  refine ⟨?_, fun ho => ?_, fun ho => ?_⟩
  · split
    · split <;> rfl
    · next ho =>
      have kept : (r.react i now rec).1.releaseOwed = r.releaseOwed := by
        have e := congrArg Rule.releaseOwed fixed
        exact e
      rw [kept]
      exact Bool.eq_false_iff.mpr ho
  · cases hj : r.judge false rec <;> simp [ho, Rule.activate, Rule.deactivate]
  · simp only [ho, Bool.false_eq_true, if_false]
    exact ⟨react_first r i now rec c hl hc hn hpart, fixed⟩

/-- What that rule sends (R88's table). -/
theorem resume_sends {r : Rule} {c : RulePartC} (i now : Nat) (rec : SlotRecord) (hl : r.live = .inactive)
    (hc : r.condition = false) (hpart : r.c = some c) :
    (r.resume i now rec).2 =
      if r.releaseOwed then if r.judge false rec then [] else r.releases i
      else if r.judge false rec = true ∧ c.confirmTime = 0 then r.pushes i else [] := by
  have hzero : r.confirmTime = 0 ↔ c.confirmTime = 0 := by
    simp only [Rule.confirmTime, hpart, ms]
    omega
  unfold Rule.resume Rule.react
  rw [hl, hc]
  cases r.releaseOwed <;> cases r.judge false rec
  · rfl
  · by_cases hz : c.confirmTime = 0
    · simp [hz, hzero.mpr hz]
    · simp [hz, mt hzero.mp hz]
  · rfl
  · rfl

theorem resume_liveSlot (r : Rule) (i now : Nat) (rec : SlotRecord) : (r.resume i now rec).1.liveSlot = r.liveSlot := by
  unfold Rule.resume
  split
  · split <;> rfl
  · exact liveSlot_fixed (Rule.react_fixed _ _ _ _)

theorem liveSlot_notLive {r : Rule} (hl : r.life ≠ .live) : r.liveSlot = none := by
  unfold Rule.liveSlot
  cases h : r.life with
  | live => exact absurd h hl
  | free => rfl
  | editing => rfl

theorem resumed_live {s : State} {i : Nat} {a : RulePartA} (hl : (s.rule i).life = .live) (ha : (s.rule i).a = some a) :
    resumed s i = (s.rule i).resume i s.clock (s.slot a.slot) := by
  unfold resumed
  rw [(liveSlot_iff _ _).mpr ⟨hl, a, ha, rfl⟩]

theorem resumed_notLive {s : State} {i : Nat} (hl : (s.rule i).life ≠ .live) : resumed s i = (s.rule i, []) := by
  unfold resumed
  rw [liveSlot_notLive hl]

/-- A LIVE rule as PARKING entry leaves it, with its parts. -/
def ParkedLive (r : Rule) : Prop := r.live = .inactive ∧ r.condition = false ∧ r.a ≠ none ∧ r.c ≠ none

theorem resumed_sends {s : State} {i : Nat} (h : (s.rule i).life = .live → ParkedLive (s.rule i)) :
    (resumed s i).2 = returnActions s i := by
  unfold returnActions
  by_cases hl : (s.rule i).life = .live
  · obtain ⟨hlive, hcond, ha, hc⟩ := h hl
    obtain ⟨a, ha⟩ := Option.ne_none_iff_exists'.mp ha
    obtain ⟨c, hc⟩ := Option.ne_none_iff_exists'.mp hc
    rw [resumed_live hl ha, resume_sends i s.clock _ hlive hcond hc, hl, ha, hc]
    unfold Rule.releases Rule.pushes
    rcases hd : (s.rule i).d with _ | ⟨_ | ⟨code, severity⟩⟩
    · simp
    · simp
    · rfl
  · rw [resumed_notLive hl]
    cases hk : (s.rule i).life with
    | live => exact absurd hk hl
    | free => rfl
    | editing => rfl

/-- What a rule makes of its slot depends on the clock, the rules and the slots alone. -/
theorem resumed_congr {s x : State} (hc : x.clock = s.clock) (ht : x.telltale = s.telltale) (hs : x.table = s.table) (i : Nat) :
    resumed x i = resumed s i := by
  unfold resumed State.rule State.slot
  rw [hc, ht, hs]

theorem returnToRun_rule {s : State} {i : Nat} {a : RulePartA} (hi : i < 64) (hl : (s.rule i).life = .live)
    (ha : (s.rule i).a = some a) (hn : a.slot ∉ [8, 9, 13]) :
    s.returnToRun.rule i = ((s.rule i).resume i s.clock (s.slot a.slot)).1 := by
  obtain ⟨x, he, _, hclock, htable, _, _, htelltale, _, _⟩ := returnToRun_form s
  obtain ⟨rules, hs, each⟩ := resumeRules_form x
  have evaluated : ({ x with telltale.rules := rules } : State).rule i = ((s.rule i).resume i s.clock (s.slot a.slot)).1 := by
    rw [each i hi, resumed_congr hclock htelltale htable, resumed_live hl ha]
  have named : (({ x with telltale.rules := rules } : State).rule i).liveSlot = some a.slot := by
    rw [evaluated, resume_liveSlot]
    exact (liveSlot_iff _ _).mpr ⟨hl, a, ha, rfl⟩
  have kept := (far_afterResume { x with telltale.rules := rules } ((List.range 64).flatMap fun i => (resumed x i).2)).rules i
    (fun n h e => hn (by rw [Option.some.inj (named.symm.trans e)]; exact h))
  rw [he, hs, kept, evaluated]

/-- With a transfer on its way, or none asked for, no transfer starts (R136). -/
theorem tryStart_idle {s : State} (h : s.tacho.readout = [] ∨ s.tacho.transfer ≠ .idle) : s.tryStart = s := by
  rcases h with h | h
  · unfold State.tryStart
    rw [h]
    cases s.tacho.transfer <;> rfl
  · exact tryStart_not s (.inl h)

theorem compareIgn_alert (s : State) : s.compareIgn.alert = s.alert := rfl

/-- The alert block takes what the rules send at the return to RUN, and no more where no transfer starts (R88, R191). -/
theorem returnToRun_alert {s : State} (hp : ∀ i, i < 64 → (s.rule i).life = .live → ParkedLive (s.rule i))
    (ht : s.tacho.readout = [] ∨ s.tacho.transfer ≠ .idle) :
    ∃ x : State, x.alert = s.alert ∧ x.ign.power = .run ∧ x.table = s.table ∧ x.clock = s.clock ∧ x.mgmt = s.mgmt ∧
      (∀ i, i < 64 → x.rule i = (resumed s i).1) ∧
      s.returnToRun.alert = (x.send ((List.range 64).flatMap (returnActions s))).alert := by
  obtain ⟨x, he, hpower, hclock, htable, hmgmt, halert, htelltale, _, htacho⟩ := returnToRun_form s
  obtain ⟨rules, hs, each⟩ := resumeRules_form x
  have same (i : Nat) := resumed_congr hclock htelltale htable i
  have actions : ((List.range 64).flatMap fun i => (resumed x i).2) = (List.range 64).flatMap (returnActions s) := by
    rw [List.flatMap_def, List.flatMap_def]
    refine congrArg List.flatten (List.map_congr_left fun i hi => ?_)
    rw [same i]
    exact resumed_sends (hp i (List.mem_range.mp hi))
  rw [actions] at hs
  refine ⟨{ x with telltale.rules := rules }, halert, hpower, htable, hclock, hmgmt, fun i hi => by rw [each i hi, same i], ?_⟩
  rw [he, hs]
  have sent := (cascade_send { x with telltale.rules := rules } ((List.range 64).flatMap (returnActions s))).tacho
  generalize ({ x with telltale.rules := rules } : State).send ((List.range 64).flatMap (returnActions s)) = y at *
  have tacho : y.settleLamps.tacho = x.tacho := (cascade_settleLamps y).tacho.trans sent
  rw [tryStart_idle (by rw [tacho, htacho]; exact ht)]
  rw [compareIgn_alert, (hushed_markDirty y.settleLamps [.pageSelect]).alert, settle_alert]

end Sys2Proof.Machine
end

section
/-! The ignition controller's events (R187 to R191): O25. -/

namespace Sys2Proof.Machine

/-! ### IGN_CHANGE -/

theorem exec_ignChange (s : State) (high : Bool) : exec (.ignChange high) s = execIgnChange high s := rfl

theorem ignChange_same (s : State) : exec (.ignChange s.pins.ign) s = .next s := by
  rw [exec_ignChange]
  unfold execIgnChange
  rw [if_pos rfl]

theorem ignChange_unpowered {s : State} {high : Bool} (hp : s.powered = false) (hne : s.pins.ign ≠ high) :
    exec (.ignChange high) s = .next { s with pins.ign := high } := by
  rw [exec_ignChange]
  unfold execIgnChange
  rw [if_neg hne, hp]
  rfl

theorem ignChange_powered {s : State} {high : Bool} (hp : s.powered = true) (hne : s.pins.ign ≠ high) :
    exec (.ignChange high) s = .next
      { s with
        pins.ign := high,
        ign.timer := if high = s.ign.level then none else some (s.clock + if high then 100000 else 500000) } := by
  rw [exec_ignChange]
  unfold execIgnChange State.compareIgn State.ignMark
  rw [if_neg hne, hp]
  cases high <;> rfl

/-! ### IGN_TIMER_EXPIRY -/

theorem exec_ignTimerExpiry (s : State) : exec .ignTimerExpiry s = onExpiry s.ign.timer State.takeIgnLevel s := rfl

/-- The IGN level is the line's, and the IGN timer has stopped. -/
def State.levelled (s : State) : State := { s with ign.level := s.pins.ign, ign.timer := none }

theorem takeIgnLevel_wakes {s : State} (hp : s.ign.power = .sleep) (hi : s.pins.ign = true) :
    s.takeIgnLevel = s.levelled.wakingEntry := by
  unfold State.takeIgnLevel
  simp only [hp, hi]
  rw [← hi]
  rfl

theorem takeIgnLevel_parks {s : State} (hp : s.ign.power = .waking ∨ s.ign.power = .run) (hi : s.pins.ign = false) :
    s.takeIgnLevel = s.levelled.parkingEntry := by
  unfold State.takeIgnLevel
  rcases hp with hp | hp <;> simp only [hp, hi] <;> rw [← hi] <;> rfl

theorem takeIgnLevel_returns {s : State} (hp : s.ign.power = .parking) (hi : s.pins.ign = true) :
    s.takeIgnLevel = s.levelled.returnToRun := by
  unfold State.takeIgnLevel
  simp only [hp, hi]
  rw [← hi]
  rfl

/-- The outcomes of the level taken (R187's table). -/
theorem takeIgnLevel_cases (s : State) :
    s.takeIgnLevel = s.levelled.wakingEntry ∨ s.takeIgnLevel = s.levelled.parkingEntry ∨
      s.takeIgnLevel = s.levelled.returnToRun ∨ s.takeIgnLevel = s.levelled := by
  have named : ({ s with ign.level := s.pins.ign, ign.timer := none } : State) = s.levelled := rfl
  unfold State.takeIgnLevel
  rw [named]
  generalize s.levelled = y
  simp only []
  split
  · exact .inl rfl
  · exact .inr (.inl rfl)
  · exact .inr (.inl rfl)
  · exact .inr (.inr (.inl rfl))
  · exact .inr (.inr (.inr rfl))

/-- Whatever follows the level, the clock and the line stand, and the level is the line's. -/
theorem takeIgnLevel_keeps (s : State) :
    s.takeIgnLevel.clock = s.clock ∧ s.takeIgnLevel.pins = s.pins ∧ s.takeIgnLevel.ign.level = s.pins.ign := by
  have level : s.levelled.ign.level = s.pins.ign := rfl
  have clock : s.levelled.clock = s.clock := rfl
  have pins : s.levelled.pins = s.pins := rfl
  rw [← level, ← clock, ← pins]
  have h := takeIgnLevel_cases s
  generalize s.levelled = y at h ⊢
  rcases h with h | h | h | h <;> rw [h]
  · obtain ⟨_, _, level, _, clock, pins, _⟩ := wakingEntry_spec y
    exact ⟨clock, pins, level⟩
  · obtain ⟨clock, pins, level, _⟩ := parkingEntry_fields y
    exact ⟨clock, pins, level⟩
  · obtain ⟨_, _, _, level, _, clock, pins, _⟩ := returnToRun_spec y
    exact ⟨clock, pins, level⟩
  · exact ⟨rfl, rfl, rfl⟩

/-- Settles O25: the level taken brings WAKING entry, PARKING entry or the return to RUN, each by what is said of it above. -/
theorem ignitionEvents : Obligations.IgnitionEvents := by
  refine ⟨fun _ _ => ignChange_powered, fun _ _ => ignChange_unpowered, ignChange_same, fun s due hdue => ?_⟩
  have run : exec .ignTimerExpiry s = .next (s.reach due).takeIgnLevel := by
    rw [exec_ignTimerExpiry]
    exact onExpiry_running hdue _ s
  obtain ⟨clock, pins, level⟩ := takeIgnLevel_keeps (s.reach due)
  refine ⟨_, run, clock, pins, level, fun hp hline => ?_, fun hp hline => ?_, fun hp hline => ?_⟩
  · rw [takeIgnLevel_wakes (s := s.reach due) hp hline]
    obtain ⟨power, hold, _, _, _, _, _, _, restart, _, queue, build, _, _, _, onT, onL, link⟩ :=
      wakingEntry_spec (s.reach due).levelled
    have high : (s.reach due).levelled = { s.reach due with ign.level := true, ign.timer := none } := by
      rw [← hline]
      rfl
    refine ⟨power, hold, onT, onL, queue, build, link, restart, ?_⟩
    rw [← high]
    exact wakingEntry_entered _
  · rw [takeIgnLevel_parks (s := s.reach due) hp hline]
    generalize hy : (s.reach due).levelled = y
    obtain ⟨clock, pins, level, power, hold, parkingTimer, secondTimer, writeMark, write, dist, proveOut, queue, routes,
      portL, slots⟩ :=
      parkingEntry_fields y
    obtain ⟨minuteTimer, readout, transfer, drivers, summaries, transmit⟩ := parking_tacho y
    have alert := parking_alert y
    have channels := parkingEntry_channel y
    have rules := parkingEntry_rule y
    rw [← clock] at channels
    have stops (d : Driver) : stopsTransfer y d = stopsTransfer { s with clock := y.parkingEntry.clock } d := by
      rw [clock, ← hy]
      rfl
    have offers (d : Driver) : (y.offer (stopFrame y d)).intake.transmit = (s.offer (stopFrame s d)).intake.transmit := by
      rw [offer_transmit, offer_transmit, ← hy]
      rfl
    simp only [stops, offers] at drivers transmit
    generalize y.parkingEntry = t at *
    subst hy
    exact ⟨power, hold, parkingTimer, secondTimer, writeMark, write, dist, proveOut, queue, routes, portL, slots, channels,
      rules, minuteTimer, readout, transfer, drivers, summaries, fun hb => by
        rw [alert hb]
        exact ⟨rfl, rfl, rfl, rfl, transmit hb⟩⟩
  · rw [takeIgnLevel_returns (s := s.reach due) hp hline]
    generalize hy : (s.reach due).levelled = y
    obtain ⟨power, hold, parkingTimer, _, secondTimer, clock, _, _, runSeconds, _, _, queue, routes, _, dist, store, _,
      slots, _⟩ :=
      returnToRun_spec y
    have channels := fun (ok : RecordsOk y) (c : Nat) (hc : c < 8) => returnToRun_channel ok hc
    have rules := fun (i : Nat) (a : RulePartA) (hi : i < 64) => returnToRun_rule (s := y) (i := i) (a := a) hi
    have alerts := returnToRun_alert (s := y)
    rw [← clock] at secondTimer
    generalize y.returnToRun = t at *
    subst hy
    refine ⟨power, hold, parkingTimer, secondTimer, runSeconds, dist, store, queue, routes, slots, fun ok c hc hn => ?_,
      fun i a c hi hl hlive hcond hconf ha hc hn => ?_, fun hparked htransfer => ?_⟩
    · rw [clock]
      exact channels ok c hc hn
    · rw [rules i a hi hl ha hn, clock]
      exact resume_returns i _ _ hlive hcond hconf hc
    · obtain ⟨x, xalert, xpower, xtable, xclock, xmgmt, xrules, sent⟩ := alerts hparked htransfer
      refine ⟨x, xalert, xpower, xtable, xclock.trans clock.symm, xmgmt, fun i hi hl => ?_,
        fun i a c hi hl hconf ha hc => ?_, sent⟩
      · exact (xrules i hi).trans (congrArg Prod.fst (resumed_notLive (s := (s.reach due).levelled) hl))
      · obtain ⟨hlive, hcond, _⟩ := hparked i hi hl
        rw [xrules i hi, resumed_live (s := (s.reach due).levelled) hl ha, clock]
        exact resume_returns i _ _ hlive hcond hconf hc

end Sys2Proof.Machine
end

section
/-! What an operation leaves of the gauge records (R41, R42): all but the load at WAKING entry, GAUGE_FIELD and GAUGE_COMMIT keep the
live and the staged record of every channel. -/

namespace Sys2Proof.Machine

/-- The live and the staged record of each channel. -/
def gaugeRecords (gauges : Bank Channel 8) (c : Nat) : LiveRecord × StagedRecord :=
  ((gauges.get c Channel.powerOn).live, (gauges.get c Channel.powerOn).staged)

/-! ### Banks of channels -/

/-- A channel replaced by one with its records. -/
theorem gaugeRecords_put {g : Bank Channel 8} {c : Nat} {ch : Channel}
    (h : c < 8 → ch.live = (g.get c Channel.powerOn).live ∧ ch.staged = (g.get c Channel.powerOn).staged) :
    gaugeRecords (g.put c ch) = gaugeRecords g := by
  funext d
  unfold gaugeRecords
  by_cases hc : c < 8
  · obtain ⟨hl, hst⟩ := h hc
    by_cases hd : c = d
    · subst hd
      rw [Bank.get_put_same _ _ _ _ hc, hl, hst]
    · rw [Bank.get_put_other _ _ _ _ _ hd]
  · rw [Bank.put_outside _ _ _ (Nat.le_of_not_lt hc)]

/-- Every channel changed alike but for its records. -/
theorem gaugeRecords_map (g : Bank Channel 8) {f : Channel → Channel}
    (h : ∀ c, (f c).live = c.live ∧ (f c).staged = c.staged) : gaugeRecords (g.map f) = gaugeRecords g := by
  funext c
  unfold gaugeRecords
  by_cases hc : c < 8
  · rw [Bank.get_map_inside _ _ _ _ Channel.powerOn hc, (h _).1, (h _).2]
  · rw [Bank.get_outside _ _ _ (Nat.le_of_not_lt hc), Bank.get_outside _ _ _ (Nat.le_of_not_lt hc)]

/-- What leaves the fixed part of a channel leaves its records. -/
theorem records_of_fixed {c d : Channel} (h : d.fixed = c.fixed) : d.live = c.live ∧ d.staged = c.staged := by
  have hl := congrArg Channel.live h
  have hst := congrArg Channel.staged h
  exact ⟨hl, hst⟩

theorem Ripple.records {ch ev : Nat → Prop} {s t : State} (h : Ripple ch s t ev) :
    gaugeRecords t.gauges = gaugeRecords s.gauges := by
  funext c
  obtain ⟨hl, hst⟩ := records_of_fixed (h.channels c)
  exact Prod.ext hl hst

theorem Travel.records {ch : Nat → Prop} {s t : State} (h : Travel ch s t) : gaugeRecords t.gauges = gaugeRecords s.gauges := by
  have R : Ripple ch (s.travelAs t) t := h
  exact R.records

/-! ### Changes of one channel (R53 to R61, R65) -/

theorem stepOnce_records (c : Channel) : c.stepOnce.live = c.live ∧ c.stepOnce.staged = c.staged := by
  unfold Channel.stepOnce
  split <;> exact ⟨rfl, rfl⟩

theorem startMotion_records (c : Channel) (now : Nat) :
    (c.startMotion now).live = c.live ∧ (c.startMotion now).staged = c.staged :=
  records_of_fixed (c.startMotion_fixed now)

theorem step_records (c : Channel) (now : Nat) : (c.step now).live = c.live ∧ (c.step now).staged = c.staged := by
  have taken : c.takePending.live = c.live ∧ c.takePending.staged = c.staged := by
    rw [takePending_eq]
    exact ⟨rfl, rfl⟩
  have same := stepOnce_records c.takePending
  have back := stepOnce_records { c.takePending with direction := c.takePending.direction.reversed }
  unfold Channel.step
  simp only []
  split
  · exact ⟨same.1.trans taken.1, same.2.trans taken.2⟩
  · split
    · exact ⟨same.1.trans taken.1, same.2.trans taken.2⟩
    · split
      · exact ⟨back.1.trans taken.1, back.2.trans taken.2⟩
      · exact taken

theorem homed_records (c : Channel) (now : Nat) : (c.homed now).live = c.live ∧ (c.homed now).staged = c.staged := by
  unfold Channel.homed
  simp only []
  split
  · exact ⟨rfl, rfl⟩
  · exact startMotion_records _ now

theorem homingStep_records (c : Channel) (now : Nat) :
    (c.homingStep now).live = c.live ∧ (c.homingStep now).staged = c.staged := by
  unfold Channel.homingStep
  simp only []
  split
  · exact ⟨rfl, rfl⟩
  · exact homed_records _ now

theorem park_records (c : Channel) (now : Nat) : (c.park now).live = c.live ∧ (c.park now).staged = c.staged := by
  unfold Channel.park
  split
  · simp only []
    split
    · split
      · exact ⟨rfl, rfl⟩
      · exact startMotion_records _ now
    · exact ⟨rfl, rfl⟩
  all_goals exact ⟨rfl, rfl⟩

theorem evaluate_records (c : Channel) (slots : Bank SlotRecord 96) (now : Nat) (band : Bool) :
    (c.evaluate slots now band).live = c.live ∧ (c.evaluate slots now band).staged = c.staged :=
  records_of_fixed (c.evaluate_fixed slots now band)

theorem unpark_records (c : Channel) (slots : Bank SlotRecord 96) (now : Nat) :
    (c.unpark slots now).live = c.live ∧ (c.unpark slots now).staged = c.staged := by
  unfold Channel.unpark
  split
  · exact evaluate_records _ slots now false
  · exact evaluate_records _ slots now false
  · split
    · exact evaluate_records _ slots now false
    · exact ⟨rfl, rfl⟩
  all_goals exact ⟨rfl, rfl⟩

theorem restExpired_fixed (c : Channel) (now : Nat) : (c.restExpired now).fixed = c.fixed :=
  Channel.consider_fixed { c with restTimer := none, restMark := true } now true _

theorem restExpired_records (c : Channel) (now : Nat) :
    (c.restExpired now).live = c.live ∧ (c.restExpired now).staged = c.staged := records_of_fixed (restExpired_fixed c now)

/-! ### Shared operations -/

section
variable (s : State)

@[simp] theorem records_send (l : List AlertAction) : gaugeRecords (s.send l).gauges = gaugeRecords s.gauges :=
  (ripple_send (fun _ => True) s l trivial).records

@[simp] theorem records_push (code : Nat) (v : Severity) (o : Origin) :
    gaugeRecords (s.push code v o).gauges = gaugeRecords s.gauges := records_send s _

@[simp] theorem records_release (code : Nat) (o : Origin) :
    gaugeRecords (s.release code o).gauges = gaugeRecords s.gauges := records_send s _

@[simp] theorem records_settleLamps : gaugeRecords s.settleLamps.gauges = gaugeRecords s.gauges :=
  (ripple_settleLamps (fun _ => True) s).records

@[simp] theorem records_writePlain (n : Nat) (w : SlotWrite) :
    gaugeRecords (s.writePlain n w).gauges = gaugeRecords s.gauges :=
  (ripple_writePlain (fun _ => True) s n w trivial trivial).records

@[simp] theorem records_writeOther (n : Nat) (v : Int) : gaugeRecords (s.writeOther n v).gauges = gaugeRecords s.gauges :=
  (ripple_writeOther (fun _ => True) s n v trivial trivial).records

@[simp] theorem records_changeSlot (n : Nat) (c : Cause) (r : SlotRecord) :
    gaugeRecords (s.changeSlot n c r).gauges = gaugeRecords s.gauges :=
  (ripple_changeSlot (fun _ => True) (fun _ _ => trivial) s n c r trivial).records

@[simp] theorem records_setMarks (a b : Bool) : gaugeRecords (s.setMarks a b).gauges = gaugeRecords s.gauges := by
  obtain ⟨-, -, -, -, -, R⟩ := setMarks_spec s a b
  exact R.records

@[simp] theorem records_evalRule (i : Nat) : gaugeRecords (s.evalRule i).1.gauges = gaugeRecords s.gauges :=
  (ripple_evalRule (fun _ => True) s i (fun _ => True) (fun _ _ => trivial) (fun _ _ => trivial)).records

@[simp] theorem records_acknowledge : gaugeRecords s.acknowledge.gauges = gaugeRecords s.gauges :=
  (ripple_acknowledge (fun _ => True) s trivial).records

@[simp] theorem records_minuteEvent (d : Driver) : gaugeRecords (s.minuteEvent d).gauges = gaugeRecords s.gauges :=
  (ripple_minuteEvent (fun _ => True) (fun _ _ => trivial) s d).records

@[simp] theorem records_tryStart : gaugeRecords s.tryStart.gauges = gaugeRecords s.gauges :=
  (ripple_tryStart (fun _ => True) (fun _ _ => trivial) s).records

@[simp] theorem records_enqueue (d : Driver) (attempt : Nat) :
    gaugeRecords (s.enqueue d attempt).gauges = gaugeRecords s.gauges :=
  (ripple_enqueue (fun _ => True) (fun _ _ => trivial) s d attempt).records

@[simp] theorem records_requestCal : gaugeRecords s.requestCal.gauges = gaugeRecords s.gauges :=
  (requestCal_travel (fun _ => True) s).2.2.records

@[simp] theorem records_paramChanged (id : Nat) : gaugeRecords (s.paramChanged id).gauges = gaugeRecords s.gauges :=
  (ripple_paramChanged (fun _ => True) (fun _ _ => trivial) s id).records

@[simp] theorem records_reportFault (c : Nat) : gaugeRecords (s.reportFault c).gauges = gaugeRecords s.gauges := by
  simp [State.reportFault]

/-! ### The changes of power state (R188 to R191) -/

@[simp] theorem records_runEntry : gaugeRecords s.runEntry.gauges = gaugeRecords s.gauges :=
  (ripple_runEntry (fun _ => True) s trivial trivial).records

@[simp] theorem records_sleepEntry : gaugeRecords s.sleepEntry.gauges = gaugeRecords s.gauges := by
  obtain ⟨-, -, -, -, -, -, -, -, -, -, -, -, -, -, -, -, -, -, -, -, -, hg⟩ := sleepEntry_spec s
  rw [hg]
  exact gaugeRecords_map _ fun _ => ⟨rfl, rfl⟩

@[simp] theorem records_parkingEntry : gaugeRecords s.parkingEntry.gauges = gaugeRecords s.gauges := by
  obtain ⟨p, q, he, R, hp⟩ := parkingEntry_spec s
  obtain ⟨-, -, -, -, -, -, -, -, -, -, -, -, -, -, -, hg, -⟩ := hp
  have hq : gaugeRecords s.parkingEntry.gauges = gaugeRecords q.gauges := by rw [he]; rfl
  rw [hq, R.records, hg]
  exact gaugeRecords_map _ fun c => park_records c s.clock

@[simp] theorem records_resumeRules : gaugeRecords s.resumeRules.gauges = gaugeRecords s.gauges := by
  obtain ⟨rules, he, -⟩ := resumeRules_form s
  rw [he, records_send]

@[simp] theorem records_returnToRun : gaugeRecords s.returnToRun.gauges = gaugeRecords s.gauges := by
  obtain ⟨x, he, -, -, -, -, -, -, hg, -⟩ := returnToRun_form s
  have hx : gaugeRecords s.returnToRun.gauges = gaugeRecords x.gauges := by rw [he]; simp
  rw [hx, hg]
  exact gaugeRecords_map _ fun c => unpark_records c _ _

@[simp] theorem records_judgeRun : gaugeRecords s.judgeRun.gauges = gaugeRecords s.gauges := by
  unfold State.judgeRun
  split
  · exact records_runEntry s
  · rfl

@[simp] theorem records_judgeSleep : gaugeRecords s.judgeSleep.gauges = gaugeRecords s.gauges := by
  unfold State.judgeSleep
  split
  · exact records_sleepEntry s
  · rfl

/-- A channel that moves, with what the controller makes of its report. -/
theorem records_moveChannel (c : Nat) (ch : Channel) :
    gaugeRecords (s.moveChannel c ch).gauges = gaugeRecords (s.gauges.put c ch) := by
  obtain ⟨reports, hn⟩ := noteChannel_only (s.putChannel c ch) s.gauges c
  unfold State.moveChannel
  simp only [hn]
  split
  · rfl
  · rw [records_judgeSleep, records_judgeRun]
    rfl

end

end Sys2Proof.Machine
end

section
/-! The gauge records through the operations that the commands come to, and through the moves of a channel (R41, R42). -/

namespace Sys2Proof.Machine

section
variable (s : State)

@[simp] theorem records_reportValid : gaugeRecords s.reportValid.gauges = gaugeRecords s.gauges := by
  unfold State.reportValid
  split <;> simp

@[simp] theorem records_calWritten : gaugeRecords s.calWritten.gauges = gaugeRecords s.gauges := by
  unfold State.calWritten
  split <;> simp

@[simp] theorem records_saveRead (image : ConfigImage) (equal : Bool) :
    gaugeRecords (s.saveRead image equal).gauges = gaugeRecords s.gauges := by
  unfold State.saveRead
  cases equal <;> simp

@[simp] theorem records_hearFrame (p : Port) : gaugeRecords (s.hearFrame p).gauges = gaugeRecords s.gauges := by
  have e : gaugeRecords (s.hearFrame p).gauges = gaugeRecords (s.setPort p (heard s p)).gauges := (hear_ripple s p).records
  rw [e, State.setPort_gauges]

@[simp] theorem records_sortFrame (p : Port) (f : BusFrame) :
    gaugeRecords (s.sortFrame p f).gauges = gaugeRecords s.gauges := by
  unfold State.sortFrame State.intakeOffer
  split
  · split <;> simp
  · simp

@[simp] theorem records_countTxError (p : Port) : gaugeRecords (s.countTxError p).gauges = gaugeRecords s.gauges := by
  unfold State.countTxError
  simp only []
  split <;> simp

@[simp] theorem records_fallSilent (p : Port) : gaugeRecords (s.fallSilent p).gauges = gaugeRecords s.gauges := by
  unfold State.fallSilent
  simp only []
  split <;> simp

@[simp] theorem records_countSecond : gaugeRecords s.countSecond.gauges = gaugeRecords s.gauges := by
  simp [State.countSecond]

@[simp] theorem records_routeFrame (route : Route) (r : FrameRecord) :
    gaugeRecords (s.routeFrame route r).gauges = gaugeRecords s.gauges := by
  unfold State.routeFrame
  simp only []
  split
  · exact (extract_ripple route r.data route.extractors _).records
  · rfl

@[simp] theorem records_deleteRoute (e : RouteEntry) :
    gaugeRecords (s.deleteRoute e).gauges = gaugeRecords s.gauges := (deleteRoute_resets s e).1.records

@[simp] theorem records_openBuild (b : Build) : gaugeRecords (s.openBuild b).gauges = gaugeRecords s.gauges := by
  unfold State.openBuild State.abandonBuild
  split <;> simp

@[simp] theorem records_expireSlot (n : Nat) : gaugeRecords (s.expireSlot n).gauges = gaugeRecords s.gauges :=
  records_changeSlot s _ _ _

@[simp] theorem records_writeSpeed (w : SlotWrite) : gaugeRecords (s.writeSpeed w).gauges = gaugeRecords s.gauges :=
  records_changeSlot s _ _ _

@[simp] theorem records_checkLamp (n : Nat) (current : Bool) :
    gaugeRecords (s.checkLamp n current).gauges = gaugeRecords s.gauges := by
  unfold State.checkLamp
  simp only []
  split <;> simp

@[simp] theorem records_enableRule (i : Nat) : gaugeRecords (s.enableRule i).gauges = gaugeRecords s.gauges := by
  simp [State.enableRule, State.evalAlone]

@[simp] theorem records_clearRule (i : Nat) : gaugeRecords (s.clearRule i).gauges = gaugeRecords s.gauges := by
  simp [State.clearRule]

@[simp] theorem records_confirmRule (i : Nat) : gaugeRecords (s.confirmRule i).gauges = gaugeRecords s.gauges := by
  simp [State.confirmRule]

@[simp] theorem records_advancePhase : gaugeRecords s.advancePhase.gauges = gaugeRecords s.gauges := by
  simp [State.advancePhase]

@[simp] theorem records_proveOutEnded : gaugeRecords s.proveOutEnded.gauges = gaugeRecords s.gauges := by
  simp [State.proveOutEnded]

@[simp] theorem records_ackRecognised : gaugeRecords s.ackRecognised.gauges = gaugeRecords s.gauges := by
  unfold State.ackRecognised
  simp only []
  split <;> simp

@[simp] theorem records_ackLevel (pressed : Bool) : gaugeRecords (s.ackLevel pressed).gauges = gaugeRecords s.gauges := by
  unfold State.ackLevel
  split <;> rfl

@[simp] theorem records_pageLevel (pressed : Bool) : gaugeRecords (s.pageLevel pressed).gauges = gaugeRecords s.gauges := by
  unfold State.pageLevel
  split <;> rfl

@[simp] theorem records_takeRaw (p : Pin) (high : Bool) : gaugeRecords (s.takeRaw p high).gauges = gaugeRecords s.gauges := by
  unfold State.takeRaw State.filterChange
  repeat' split
  all_goals simp

@[simp] theorem records_acceptEdge (p : Pin) : gaugeRecords (s.acceptEdge p).gauges = gaugeRecords s.gauges := by
  unfold State.acceptEdge
  cases p
  · simp only []
    split
    · rw [(pulse_travel _).records]; simp
    · simp
  · rw [(spbEdge_travel _).records]; simp

@[simp] theorem records_zeroExpired : gaugeRecords s.zeroExpired.gauges = gaugeRecords s.gauges := by
  unfold State.zeroExpired
  simp only []
  split <;> simp

@[simp] theorem records_watchExpired : gaugeRecords s.watchExpired.gauges = gaugeRecords s.gauges := by
  simp [State.watchExpired]

@[simp] theorem records_minutePassed : gaugeRecords s.minutePassed.gauges = gaugeRecords s.gauges := by
  simp [State.minutePassed]

@[simp] theorem records_storeOdometer : gaugeRecords s.storeOdometer.gauges = gaugeRecords s.gauges := by
  simp [State.storeOdometer]

@[simp] theorem records_changeK (k : Nat) : gaugeRecords (s.changeK k).gauges = gaugeRecords s.gauges := by
  simp [State.changeK]

@[simp] theorem records_sealNow : gaugeRecords s.sealNow.gauges = gaugeRecords s.gauges := by
  simp [State.sealNow]

@[simp] theorem records_setOdometer (metres : Nat) :
    gaugeRecords (s.setOdometer metres).gauges = gaugeRecords s.gauges := by
  simp [State.setOdometer, State.showOdometer]

@[simp] theorem records_longPress : gaugeRecords s.longPress.gauges = gaugeRecords s.gauges := by
  unfold State.longPress
  simp only []
  split <;> simp

@[simp] theorem records_turnPage : gaugeRecords s.turnPage.gauges = gaugeRecords s.gauges := by
  simp [State.turnPage]

@[simp] theorem records_startRecord : gaugeRecords s.startRecord.gauges = gaugeRecords s.gauges := by
  unfold State.startRecord
  split
  · split <;> rfl
  · rfl

@[simp] theorem records_readyUp : gaugeRecords s.readyUp.gauges = gaugeRecords s.gauges := by
  unfold State.readyUp
  simp only []
  split <;> rfl

@[simp] theorem records_retry : gaugeRecords s.retry.gauges = gaugeRecords s.gauges := by
  unfold State.retry
  split <;> rfl

theorem records_failChannel (c : Nat) (cause : CoilFault) :
    gaugeRecords (s.failChannel c cause).gauges = gaugeRecords s.gauges := by
  unfold State.failChannel
  simp only [records_judgeSleep, records_judgeRun, records_reportFault]
  exact gaugeRecords_put fun _ => ⟨rfl, rfl⟩

theorem records_stepChannel (c : Nat) : gaugeRecords (s.stepChannel c).gauges = gaugeRecords s.gauges := by
  unfold State.stepChannel
  rw [records_moveChannel]
  exact gaugeRecords_put fun _ => step_records _ _

theorem records_homeChannel (c : Nat) : gaugeRecords (s.homeChannel c).gauges = gaugeRecords s.gauges := by
  unfold State.homeChannel
  rw [records_moveChannel]
  exact gaugeRecords_put fun _ => homingStep_records _ _

theorem records_restDelay (c : Nat) :
    gaugeRecords (s.putChannel c ((s.channel c).restExpired s.clock)).gauges = gaugeRecords s.gauges :=
  gaugeRecords_put fun _ => restExpired_records _ _

end

end Sys2Proof.Machine
end

section
/-! The ranges of the gauge records: what GAUGE_FIELD writes, a commit copies and a load installs keeps them (R41 to R45, R183). -/

namespace Sys2Proof.Machine

/-! ### The ranges of a staged record (R42) -/

/-- A curve point in its ranges (R42). -/
def CurvePoint.inRange (p : CurvePoint) : Bool := fits32 p.value && decide (p.position ≤ 4095)

/-- The fields of a staged record in their ranges (R42). -/
def StagedOk (r : StagedRecord) : Prop :=
  r.settings.inRange = true ∧ r.settings.rest ≤ 4095 ∧ r.points.items.all CurvePoint.inRange = true

/-- Every live record passes and every staged record keeps its ranges: what `RecordsOk` says, by the records alone. -/
structure GaugesOk (s : State) : Prop where
  live : ∀ c, c < 8 → (gaugeRecords s.gauges c).1.passes = true
  staged : ∀ c, c < 8 → StagedOk (gaugeRecords s.gauges c).2

theorem recordsOk_iff (s : State) : RecordsOk s ↔ GaugesOk s :=
  ⟨fun h => ⟨fun c hc => (h c hc).1, fun c hc => (h c hc).2⟩, fun h c hc => ⟨h.live c hc, h.staged c hc⟩⟩

theorem GaugesOk.same {s t : State} (h : GaugesOk s) (e : gaugeRecords t.gauges = gaugeRecords s.gauges) : GaugesOk t :=
  ⟨by rw [e]; exact h.live, by rw [e]; exact h.staged⟩

theorem gaugeRecords_put_same (g : Bank Channel 8) {c : Nat} (ch : Channel) (hc : c < 8) :
    gaugeRecords (g.put c ch) c = (ch.live, ch.staged) := by
  unfold gaugeRecords
  rw [Bank.get_put_same _ _ _ _ hc]

theorem gaugeRecords_put_other (g : Bank Channel 8) {c d : Nat} (ch : Channel) (h : c ≠ d) :
    gaugeRecords (g.put c ch) d = gaugeRecords g d := by
  unfold gaugeRecords
  rw [Bank.get_put_other _ _ _ _ _ h]

/-- One channel takes other records in their ranges. -/
theorem GaugesOk.put {s t : State} {c : Nat} {ch : Channel} (h : GaugesOk s)
    (e : gaugeRecords t.gauges = gaugeRecords (s.gauges.put c ch)) (hl : ch.live.passes = true) (hst : StagedOk ch.staged) :
    GaugesOk t := by
  have each : ∀ d, d < 8 → (gaugeRecords t.gauges d).1.passes = true ∧ StagedOk (gaugeRecords t.gauges d).2 := by
    intro d hd
    rw [e]
    by_cases hc : c = d
    · subst hc
      rw [gaugeRecords_put_same _ _ hd]
      exact ⟨hl, hst⟩
    · rw [gaugeRecords_put_other _ _ hc]
      exact ⟨h.live d hd, h.staged d hd⟩
  exact ⟨fun d hd => (each d hd).1, fun d hd => (each d hd).2⟩

/-! ### GAUGE_FIELD (R42) -/

/-- Every record of a bank still satisfies a test after one is replaced by another that does. -/
theorem bank_all_put {α : Type} {n : Nat} {b : Bank α n} {p : α → Bool} {a : α} (i : Nat) (h : b.items.all p = true)
    (ha : p a = true) : (b.put i a).items.all p = true := by
  rw [List.all_eq_true] at *
  intro x hx
  rcases List.mem_or_eq_of_mem_set hx with hx | rfl
  · exact h x hx
  · exact ha

/-- The ranges of a record's settings, as one proposition (R41). -/
theorem settings_inRange_iff (g : GaugeSettings) :
    g.inRange = true ↔
      g.source ≤ 95 ∧ g.fallback.getD 0 ≤ 95 ∧ 1 ≤ g.fullScale ∧ g.fullScale ≤ 4095 ∧ g.restDelay ≤ 255 ∧ g.deadBand ≤ 15 ∧
        g.intervals.items.all (fun i => decide (200 ≤ i) && decide (i ≤ 20000)) = true := by
  simp only [GaugeSettings.inRange, Bool.and_eq_true, decide_eq_true_eq, and_assoc]

/-- A field of the settings written in its range keeps the ranges (R42). -/
theorem setField_settings {g : GaugeSettings} {field : Nat} {v : Int} (hf : field < 16) (hv : fieldInRange field v = true)
    (h : g.inRange = true ∧ g.rest ≤ 4095) :
    (g.setField field v).inRange = true ∧ (g.setField field v).rest ≤ 4095 := by
  obtain ⟨h, hr⟩ := h
  obtain ⟨h1, h2, h3, h4, h5, h6, h7⟩ := (settings_inRange_iff g).mp h
  rw [settings_inRange_iff]
  match field with
  | 0 =>
    have hv : 0 ≤ v ∧ v ≤ 95 := by simpa [fieldInRange] using hv
    exact ⟨⟨show v.toNat ≤ 95 by omega, h2, h3, h4, h5, h6, h7⟩, hr⟩
  | 1 =>
    have hv : -1 ≤ v ∧ v ≤ 95 := by simpa [fieldInRange] using hv
    have hn : (if v < 0 then none else some v.toNat).getD 0 ≤ 95 := by
      split
      · exact Nat.zero_le _
      · show v.toNat ≤ 95
        omega
    exact ⟨⟨h1, hn, h3, h4, h5, h6, h7⟩, hr⟩
  | 2 =>
    have hv : 1 ≤ v ∧ v ≤ 4095 := by simpa [fieldInRange] using hv
    exact ⟨⟨h1, h2, show 1 ≤ v.toNat by omega, show v.toNat ≤ 4095 by omega, h5, h6, h7⟩, hr⟩
  | 3 =>
    have hv : 0 ≤ v ∧ v ≤ 4095 := by simpa [fieldInRange] using hv
    exact ⟨⟨h1, h2, h3, h4, h5, h6, h7⟩, show v.toNat ≤ 4095 by omega⟩
  | 4 => exact ⟨⟨h1, h2, h3, h4, h5, h6, h7⟩, hr⟩
  | 5 =>
    have hv : 0 ≤ v ∧ v ≤ 255 := by simpa [fieldInRange] using hv
    exact ⟨⟨h1, h2, h3, h4, show v.toNat ≤ 255 by omega, h6, h7⟩, hr⟩
  | 6 =>
    have hv : 0 ≤ v ∧ v ≤ 15 := by simpa [fieldInRange] using hv
    exact ⟨⟨h1, h2, h3, h4, h5, show v.toNat ≤ 15 by omega, h7⟩, hr⟩
  | 7 => exact absurd hv Bool.false_ne_true
  | n + 8 =>
    have hv : 200 ≤ v ∧ v ≤ 20000 := by simpa [fieldInRange, hf] using hv
    have hi : (decide (200 ≤ v.toNat) && decide (v.toNat ≤ 20000)) = true := by
      rw [Bool.and_eq_true, decide_eq_true_eq, decide_eq_true_eq]
      omega
    exact ⟨⟨h1, h2, h3, h4, h5, h6, bank_all_put n h7 hi⟩, hr⟩

/-- A record's place read from a bank whose records all satisfy a test. -/
theorem bank_get_of_all {α : Type} {n : Nat} {b : Bank α n} {p : α → Bool} (i : Nat) {d : α} (hd : p d = true)
    (h : b.items.all p = true) : p (b.get i d) = true := by
  by_cases hi : i < n
  · exact (Bank.all_iff b d p).mp h i hi
  · rw [Bank.get_outside _ _ _ (Nat.le_of_not_lt hi)]
    exact hd

/-- The range of a curve point's field (R42). -/
theorem fieldInRange_point (n : Nat) (v : Int) :
    fieldInRange (n + 16) v =
      if n + 16 < 24 then fits32 v else if n + 16 < 32 then decide (0 ≤ v) && decide (v ≤ 4095) else false :=
  if_neg (c := n + 16 < 16) (t := decide (200 ≤ v) && decide (v ≤ 20000)) (by omega)

/-- The value or the position of a point written in its range (R42). -/
theorem point_of_fieldInRange {field : Nat} {v : Int} (hf : 16 ≤ field) (hv : fieldInRange field v = true) :
    (field < 24 → fits32 v = true) ∧ (24 ≤ field → 0 ≤ v ∧ v ≤ 4095) := by
  obtain ⟨n, rfl⟩ := Nat.exists_eq_add_of_le' hf
  rw [fieldInRange_point] at hv
  split at hv
  · next h => exact ⟨fun _ => hv, fun h' => absurd h (Nat.not_lt.mpr h')⟩
  · next h =>
    refine ⟨fun h' => absurd h' h, fun _ => ?_⟩
    split at hv
    · simpa using hv
    · cases hv

/-- A field of a staged record written in its range keeps the ranges (R42). -/
theorem stagedOk_setField {r : StagedRecord} {field : Nat} {v : Int} (h : StagedOk r) (hv : fieldInRange field v = true) :
    StagedOk (r.setField field v) := by
  obtain ⟨hs, hr, hp⟩ := h
  have point := fun i => bank_get_of_all (p := CurvePoint.inRange) i (d := ⟨0, 0⟩) (by decide) hp
  unfold StagedRecord.setField
  split
  · next hf =>
    obtain ⟨hs', hr'⟩ := setField_settings hf hv ⟨hs, hr⟩
    exact ⟨hs', hr', hp⟩
  · next hf =>
    obtain ⟨hvalue, hposition⟩ := point_of_fieldInRange (Nat.le_of_not_lt hf) hv
    split
    · next hf' =>
      refine ⟨hs, hr, bank_all_put _ hp ?_⟩
      have hq := point (field - 16)
      rw [CurvePoint.inRange, Bool.and_eq_true] at hq ⊢
      exact ⟨hvalue hf', hq.2⟩
    · next hf' =>
      refine ⟨hs, hr, bank_all_put _ hp ?_⟩
      have hq := point (field - 24)
      rw [CurvePoint.inRange, Bool.and_eq_true] at hq ⊢
      obtain ⟨h0, h1⟩ := hposition (Nat.le_of_not_lt hf')
      exact ⟨hq.1, decide_eq_true (show v.toNat ≤ 4095 by omega)⟩

/-! ### GAUGE_COMMIT and a load (R43, R45) -/

/-- A staged record in its ranges that passes the checks of a commit is a live record that passes (R43). -/
theorem passes_of_commit {r : StagedRecord} {points : Nat} (h : StagedOk r) (h2 : 2 ≤ points) (h8 : points ≤ 8)
    (hp : r.passes points = true) :
    ({ settings := r.settings, curve := r.points.items.take points } : LiveRecord).passes = true := by
  obtain ⟨hs, -, hpoints⟩ := h
  have hlen : (r.points.items.take points).length = points := by
    rw [List.length_take, r.points.len]
    omega
  have hvalues : (r.points.items.take points).all (fun p => fits32 p.value) = true := by
    rw [List.all_eq_true] at hpoints ⊢
    intro p hm
    have hq := hpoints p (List.mem_of_mem_take hm)
    rw [CurvePoint.inRange, Bool.and_eq_true] at hq
    exact hq.1
  simp only [LiveRecord.passes, Bool.and_eq_true, decide_eq_true_eq, hlen]
  exact ⟨⟨⟨⟨hs, h2⟩, h8⟩, hvalues⟩, hp⟩

/-- The staged record that copies a live record that passes keeps its ranges (R45). -/
theorem stagedOk_toStaged {l : LiveRecord} (h : l.passes = true) : StagedOk l.toStaged := by
  simp only [LiveRecord.passes, recordPasses, Bool.and_eq_true, decide_eq_true_eq] at h
  obtain ⟨⟨⟨⟨hs, -⟩, -⟩, hvalues⟩, ⟨⟨-, hpositions⟩, hrest⟩, -⟩ := h
  obtain ⟨-, -, -, hfull, -, -, -⟩ := (settings_inRange_iff _).mp hs
  refine ⟨hs, hrest.trans hfull, ?_⟩
  rw [List.all_eq_true] at hvalues hpositions ⊢
  intro p hp
  rcases List.mem_append.mp (List.mem_of_mem_take hp) with hm | hm
  · have hpos := of_decide_eq_true (hpositions p hm)
    rw [CurvePoint.inRange, Bool.and_eq_true]
    exact ⟨hvalues p hm, decide_eq_true (hpos.trans hfull)⟩
  · rw [List.eq_of_mem_replicate hm]
    decide

/-- The configuration that a load installs passes (R183). -/
theorem loadedConfig_passes (contents : StoreContents ConfigImage) : (loadedConfig contents).passes = true := by
  unfold loadedConfig goodConfig
  split
  · decide
  · decide
  · split
    · assumption
    · decide

/-- WAKING entry loads live records that pass, with their copies (R45). -/
theorem gaugesOk_wakingEntry (s : State) : GaugesOk s.wakingEntry := by
  have hp := loadedConfig_passes s.store.config
  simp only [ConfigImage.passes, Bool.and_eq_true] at hp
  obtain ⟨⟨⟨⟨⟨-, hg⟩, -⟩, -⟩, -⟩, -⟩ := hp
  have loaded := (Bank.all_iff _ LiveRecord.factory _).mp hg
  have hrec : ∀ c, c < 8 → gaugeRecords s.wakingEntry.gauges c =
      ((loadedConfig s.store.config).gauges.get c LiveRecord.factory,
        ((loadedConfig s.store.config).gauges.get c LiveRecord.factory).toStaged) := by
    intro c hc
    have hch := wakingEntry_channel s c hc
    rw [wokenBlocks_channel s c hc] at hch
    show ((s.wakingEntry.channel c).live, (s.wakingEntry.channel c).staged) = _
    rw [hch]
    rfl
  refine ⟨fun c hc => ?_, fun c hc => ?_⟩
  · rw [hrec c hc]
    exact loaded c hc
  · rw [hrec c hc]
    exact stagedOk_toStaged (loaded c hc)

end Sys2Proof.Machine
end

section
/-! The gauge records through every command and every step (R41, R42): O15. -/

namespace Sys2Proof.Machine

namespace GaugesOk

variable {s t : State}

/-! ### What a classifier path, a request and an expiry keep -/

theorem path {path : State → FrameRecord → Bool} {f : FrameRecord → State → State} (ht : takeHead path f s = .next t)
    (hf : ∀ r u, gaugeRecords (f r u).gauges = gaugeRecords u.gauges) (hs : GaugesOk s) : GaugesOk t := by
  rcases takeHead_cases ht with rfl | ⟨r, rest, -, -, rfl⟩
  · exact hs
  · exact hs.same (hf r _)

theorem timer {timer : Timer} {f : State → State} (ht : onExpiry timer f s = .next t)
    (hf : ∀ u, gaugeRecords (f u).gauges = gaugeRecords u.gauges) (hs : GaugesOk s) : GaugesOk t := by
  rcases onExpiry_cases ht with rfl | ⟨due, -, rfl⟩
  · exact hs
  · exact hs.same (hf _)

/-- A request takes effect on the state on which it was judged, once its response has been offered. -/
theorem requestOffered {code : Nat} {judge : FrameRecord → State → Verdict} (ht : onRequest code judge s = .next t)
    (hj : ∀ r u f, GaugesOk u → GaugesOk ((judge r u).effect (u.offer f))) (hs : GaugesOk s) : GaugesOk t := by
  rcases takeHead_cases ht with rfl | ⟨r, rest, -, -, rfl⟩
  · exact hs
  · exact hj r _ _ (hs.same rfl)

theorem request {code : Nat} {judge : FrameRecord → State → Verdict} (ht : onRequest code judge s = .next t)
    (hj : ∀ r u, (judge r u).Keeps GaugesOk u) (hs : GaugesOk s) : GaugesOk t :=
  requestOffered ht (fun r u f hu => hj r u _ (quiet_offer u f) (hu.same (by rw [State.offer_gauges]))) hs

/-- A verdict whose effect leaves the records. -/
theorem keeps {v : Verdict} {u : State} (h : ∀ x, gaugeRecords (v.effect x).gauges = gaugeRecords x.gauges) :
    v.Keeps GaugesOk u := fun x _ hx => hx.same (h x)

theorem accepts {f : State → State} {u : State} (h : ∀ x, gaugeRecords (f x).gauges = gaugeRecords x.gauges) :
    (Machine.accepts f).Keeps GaugesOk u := keeps h

theorem read {code : Nat} {judge : FrameRecord → State → Verdict} (ht : onRequest code judge s = .next t)
    (hj : ∀ r u, (judge r u).Reads) (hs : GaugesOk s) : GaugesOk t := by
  refine request ht (fun r u => keeps fun x => ?_) hs
  rcases hj r u with e | e <;> rw [e] <;> rfl

/-! ### The supply and the controller -/

theorem poweredOn (s : State) : GaugesOk s.poweredOn := ((recordsOk_iff _).mp recordsOk_reset).same rfl

theorem start (s : State) : GaugesOk s.start := by
  unfold State.start State.sampleIgn
  split
  · exact gaugesOk_wakingEntry _
  · exact poweredOn s

theorem powerOn (ht : execPowerOn s = .next t) (hs : GaugesOk s) : GaugesOk t := by
  cases ht
  split
  · exact hs
  · exact start s

theorem supplyLoss (ht : execSupplyLoss s = .next t) (hs : GaugesOk s) : GaugesOk t := by
  cases ht
  split
  · exact (poweredOn s).same rfl
  · exact hs

theorem ignChange {high : Bool} (ht : execIgnChange high s = .next t) (hs : GaugesOk s) : GaugesOk t := by
  cases ht
  refine hs.same ?_
  split
  · rfl
  · split <;> rfl

theorem takeIgnLevel (hs : GaugesOk s) : GaugesOk s.takeIgnLevel := by
  have hl : GaugesOk { s with ign.level := s.pins.ign, ign.timer := none } := hs.same rfl
  unfold State.takeIgnLevel
  simp only []
  split
  · exact gaugesOk_wakingEntry _
  · exact hl.same (records_parkingEntry _)
  · exact hl.same (records_parkingEntry _)
  · exact hl.same (records_returnToRun _)
  · exact hl

theorem ignTimerExpiry (ht : execIgnTimerExpiry s = .next t) (hs : GaugesOk s) : GaugesOk t := by
  rcases onExpiry_cases ht with rfl | ⟨due, -, rfl⟩
  · exact hs
  · exact takeIgnLevel (hs.same rfl)

theorem restartExecute (ht : execRestartExecute s = .next t) (hs : GaugesOk s) : GaugesOk t := by
  unfold execRestartExecute at ht
  split at ht
  · cases ht; exact hs
  · split at ht <;> cases ht
    · exact start _
    · exact hs

/-! ### Requests -/

theorem setNoticeMask (ht : execSetNoticeMask s = .next t) (hs : GaugesOk s) : GaugesOk t :=
  request ht (fun _ u => keeps_ite (fun _ => keeps fun _ => rfl) fun _ => keeps_refuse _ u _) hs

theorem setParam (ht : execSetParam s = .next t) (hs : GaugesOk s) : GaugesOk t :=
  request ht (fun _ _ => keeps_unlessSaving (keeps_check fun _ => keeps_check fun _ => keeps_check fun _ =>
    keeps fun x => records_paramChanged (x.setHeld _ _) _)) hs

theorem routeOpen (ht : execRouteOpen s = .next t) (hs : GaugesOk s) : GaugesOk t :=
  request ht (fun _ _ => keeps_unlessSaving (keeps_check fun _ => keeps_check fun _ => keeps_check fun _ =>
    keeps_check fun _ => keeps fun x => records_openBuild x _)) hs

theorem acceptPart (u : State) (b : Build) : (acceptPart b).Keeps GaugesOk u := by
  unfold Machine.acceptPart
  split <;> exact keeps fun _ => rfl

theorem extA (ht : execExtA s = .next t) (hs : GaugesOk s) : GaugesOk t := by
  refine request ht (fun r u => keeps_unlessSaving ?_) hs
  split
  · exact keeps_refuse _ u _
  · exact keeps_check fun _ => keeps_check fun _ => keeps_check fun _ => acceptPart u _

theorem extB (ht : execExtB s = .next t) (hs : GaugesOk s) : GaugesOk t := by
  refine request ht (fun r u => keeps_unlessSaving ?_) hs
  split
  · exact keeps_refuse _ u _
  · exact keeps_check fun _ => keeps_check fun _ => acceptPart u _

theorem extC (ht : execExtC s = .next t) (hs : GaugesOk s) : GaugesOk t := by
  refine request ht (fun r u => keeps_unlessSaving ?_) hs
  split
  · exact keeps_refuse _ u _
  · exact keeps_check fun _ => acceptPart u _

theorem routeDelete (ht : execRouteDelete s = .next t) (hs : GaugesOk s) : GaugesOk t := by
  refine request ht (fun r u => keeps_unlessSaving (keeps_check fun _ => ?_)) hs
  split
  · exact keeps fun x => records_deleteRoute x _
  · exact keeps_ite (fun _ => keeps fun _ => rfl) fun _ => keeps_refuse _ u _

/-- GAUGE_FIELD writes a field in its range (R42). -/
theorem gaugeField (ht : execGaugeField s = .next t) (hs : GaugesOk s) : GaugesOk t := by
  refine request ht (fun r u => keeps_check fun hc => keeps_check fun hv x _ hx => ?_) hs
  have hb : r.byte 2 < 8 := by omega
  exact hx.put rfl (hx.live _ hb) (stagedOk_setField (hx.staged _ hb) (by simpa using hv))

/-- An accepted commit copies a staged record that passes; the channel's reaction leaves its records (R43, R44). -/
theorem commitChannel {c points : Nat} (hs : GaugesOk s) (hc : c < 8) (h2 : 2 ≤ points) (h8 : points ≤ 8)
    (hp : (s.channel c).staged.passes points = true) : GaugesOk (s.commitChannel c points) := by
  obtain ⟨hlive, hstaged⟩ :=
    records_of_fixed (afterCommit_fixed ((s.channel c).commit points) s.table.slots s.clock)
  refine hs.put (records_moveChannel s c _) ?_ ?_
  · rw [hlive]
    exact passes_of_commit (hs.staged c hc) h2 h8 hp
  · rw [hstaged]
    exact hs.staged c hc

theorem gaugeCommit (ht : execGaugeCommit s = .next t) (hs : GaugesOk s) : GaugesOk t := by
  refine requestOffered ht (fun r u f hu => ?_) hs
  have ho : GaugesOk (u.offer f) := hu.same (by rw [State.offer_gauges])
  have hch : (u.offer f).channel (r.byte 2) = u.channel (r.byte 2) := by
    unfold State.channel
    rw [State.offer_gauges]
  unfold judgeGaugeCommit unlessSaving
  split
  · exact ho
  split
  · exact ho
  split
  · exact ho
  split
  · exact ho
  next hc hn hp =>
  split
  · exact ho
  · exact commitChannel ho (by omega) (by omega) (by omega) (by rw [hch]; simpa using hp)

theorem writePart (u : State) (i : Nat) (f : Rule → Rule) : (writePart i f).Keeps GaugesOk u := keeps fun _ => rfl

theorem ruleA (ht : execRuleA s = .next t) (hs : GaugesOk s) : GaugesOk t := by
  refine request ht (fun r u => keeps_editable ?_) hs
  split
  · exact writePart u _ _
  · exact keeps_refuse _ u _

theorem ruleC (ht : execRuleC s = .next t) (hs : GaugesOk s) : GaugesOk t := by
  refine request ht (fun r u => keeps_editable ?_) hs
  split
  · exact writePart u _ _
  · exact keeps_refuse _ u _

theorem ruleD (ht : execRuleD s = .next t) (hs : GaugesOk s) : GaugesOk t := by
  refine request ht (fun r u => keeps_editable ?_) hs
  split
  · exact keeps_refuse _ u _
  · exact keeps_check fun _ => writePart u _ _

theorem ruleEnable (ht : execRuleEnable s = .next t) (hs : GaugesOk s) : GaugesOk t :=
  request ht (fun r _ => keeps_unlessSaving (keeps_check fun _ => keeps_check fun _ => keeps_check fun _ =>
    accepts fun x => records_enableRule x (r.byte 2))) hs

theorem ruleClear (ht : execRuleClear s = .next t) (hs : GaugesOk s) : GaugesOk t :=
  request ht (fun r _ => keeps_unlessSaving (keeps_check fun _ => accepts fun x => records_clearRule x (r.byte 2))) hs

theorem alertAck (ht : execAlertAck s = .next t) (hs : GaugesOk s) : GaugesOk t := by
  refine request ht (fun _ u => keeps_ite (fun _ => ?_) fun _ => keeps_refuse _ u _) hs
  unfold AckResult.verdict
  split <;> exact keeps records_acknowledge

theorem setKfactor (ht : execSetKfactor s = .next t) (hs : GaugesOk s) : GaugesOk t := by
  refine request ht (fun r u => ?_) hs
  unfold judgeSetKfactor
  exact keeps_check fun _ => keeps_check fun _ => keeps_check fun _ => keeps fun x => records_changeK x (r.word 2)

theorem setOdometer (ht : execSetOdometer s = .next t) (hs : GaugesOk s) : GaugesOk t := by
  refine request ht (fun r u => ?_) hs
  unfold judgeSetOdometer
  exact keeps_check fun _ => keeps fun x => records_setOdometer x (r.long 2)

theorem sealOdometer (ht : execSealOdometer s = .next t) (hs : GaugesOk s) : GaugesOk t :=
  request ht (fun _ _ => keeps_check fun _ => keeps records_sealNow) hs

theorem cardRead (ht : execCardRead s = .next t) (hs : GaugesOk s) : GaugesOk t := by
  refine request ht (fun r u => ?_) hs
  unfold judgeCardRead
  split
  · exact keeps_refuse _ u _
  · exact keeps_check fun _ => keeps_check fun _ => keeps fun x => records_enqueue x _ 1

/-! ### The other commands with a case of their own -/

theorem configSaveEnd {equal : Bool} (ht : execConfigSaveEnd equal s = .next t) (hs : GaugesOk s) : GaugesOk t := by
  unfold execConfigSaveEnd at ht
  split at ht <;> cases ht
  · exact hs
  · exact hs.same (by simp)

/-- A command that does its work where a condition holds. -/
theorem guarded {c : Prop} [Decidable c] {u v : State} (hs : GaugesOk s)
    (hu : gaugeRecords u.gauges = gaugeRecords s.gauges) (hv : gaugeRecords v.gauges = gaugeRecords s.gauges) :
    GaugesOk (if c then u else v) := by
  split
  · exact hs.same hu
  · exact hs.same hv

theorem routedFrame (ht : execRoutedFrame s = .next t) (hs : GaugesOk s) : GaugesOk t := by
  refine path ht (fun r u => ?_) hs
  split
  · exact records_routeFrame u _ r
  · rfl

theorem xferOpen (ht : execXferOpen s = .next t) (hs : GaugesOk s) : GaugesOk t := by
  refine path ht (fun r u => ?_) hs
  split
  · exact (ripple_takeOpen onlyTacho (fun _ h => h) u _ _).records
  · rfl

theorem xferData (ht : execXferData s = .next t) (hs : GaugesOk s) : GaugesOk t := by
  refine path ht (fun r u => ?_) hs
  split
  · exact (ripple_takeData onlyTacho (fun _ h => h) u _ _).records
  · rfl

theorem xferClose (ht : execXferClose s = .next t) (hs : GaugesOk s) : GaugesOk t := by
  refine path ht (fun r u => ?_) hs
  split
  · exact (ripple_takeClose onlyTacho (fun _ h => h) u _).records
  · rfl

theorem calWriteComplete (ht : execCalWriteComplete s = .next t) (hs : GaugesOk s) : GaugesOk t :=
  timer ht (fun u => by rw [records_judgeSleep, records_calWritten]) hs

theorem xferStray (ht : execXferStray s = .next t) (hs : GaugesOk s) : GaugesOk t := path ht (fun _ _ => rfl) hs

theorem unroutedFrame (ht : execUnroutedFrame s = .next t) (hs : GaugesOk s) : GaugesOk t :=
  path ht (fun _ u => by rw [State.setPort_gauges]) hs

theorem foreignMgmt (ht : execForeignMgmt s = .next t) (hs : GaugesOk s) : GaugesOk t := path ht (fun _ _ => rfl) hs

theorem badRequest (ht : execBadRequest s = .next t) (hs : GaugesOk s) : GaugesOk t :=
  path ht (fun _ u => congrArg gaugeRecords (State.offer_gauges u _)) hs

theorem busOffRecovery {p : Port} (ht : execBusOffRecoveryExpiry p s = .next t) (hs : GaugesOk s) : GaugesOk t :=
  timer ht (fun u => by rw [State.setPort_gauges]) hs

theorem silence {p : Port} (ht : execSilenceTimerExpiry p s = .next t) (hs : GaugesOk s) : GaugesOk t :=
  timer ht (fun u => records_fallSilent u p) hs

theorem slotExpiry {n : Nat} (ht : execSlotExpiry n s = .next t) (hs : GaugesOk s) : GaugesOk t :=
  timer ht (fun u => records_expireSlot u n) hs

theorem stepEvent {c : Nat} (ht : execStepEvent c s = .next t) (hs : GaugesOk s) : GaugesOk t :=
  timer ht (fun u => records_stepChannel u c) hs

theorem homingStep {c : Nat} (ht : execHomingStep c s = .next t) (hs : GaugesOk s) : GaugesOk t :=
  timer ht (fun u => records_homeChannel u c) hs

theorem restDelay {c : Nat} (ht : execRestDelayExpiry c s = .next t) (hs : GaugesOk s) : GaugesOk t :=
  timer ht (fun u => records_restDelay u c) hs

theorem confirmTimer {i : Nat} (ht : execConfirmTimerExpiry i s = .next t) (hs : GaugesOk s) : GaugesOk t :=
  timer ht (fun u => records_confirmRule u i) hs

theorem filterStability {p : Pin} (ht : execFilterStabilityExpiry p s = .next t) (hs : GaugesOk s) : GaugesOk t :=
  timer ht (fun u => records_acceptEdge u p) hs

/-! ### Every command and every step -/

theorem exec {c : Instr} (ht : Machine.exec c s = .next t) (hs : GaugesOk s) : GaugesOk t := by
  cases c with
  | powerOn => exact powerOn ht hs
  | supplyLoss => exact supplyLoss ht hs
  | ignChange => exact ignChange ht hs
  | ignTimerExpiry => exact ignTimerExpiry ht hs
  | parkingTimerExpiry => exact timer ht records_sleepEntry hs
  | secondTimerExpiry => exact timer ht records_countSecond hs
  | validFrameReceived p f => cases ht; exact hs.guarded (by simp) rfl
  | rxErrorDetected => cases ht; exact hs.guarded (by simp) rfl
  | txErrorDetected => cases ht; exact hs.guarded (by simp) rfl
  | busOffRecoveryExpiry => exact busOffRecovery ht hs
  | silenceTimerExpiry => exact silence ht hs
  | txFrameComplete => cases ht; exact hs.guarded rfl rfl
  | routedFrame => exact routedFrame ht hs
  | unroutedFrame => exact unroutedFrame ht hs
  | foreignMgmt => exact foreignMgmt ht hs
  | badRequest => exact badRequest ht hs
  | readEvents => exact request ht (fun _ _ => keeps fun _ => rfl) hs
  | setNoticeMask => exact setNoticeMask ht hs
  | readCounters => exact read ht reads_readCounters hs
  | setParam => exact setParam ht hs
  | getParam => exact read ht reads_getParam hs
  | restart => exact request ht (fun _ _ => keeps_unlessSaving (keeps fun _ => rfl)) hs
  | restartExecute => exact restartExecute ht hs
  | configSave => exact request ht (fun _ _ => keeps_unlessSaving (keeps fun _ => rfl)) hs
  | configSaveEnd => exact configSaveEnd ht hs
  | configErase => exact request ht (fun _ _ => keeps_unlessSaving (keeps fun _ => rfl)) hs
  | routeOpen => exact routeOpen ht hs
  | extA => exact extA ht hs
  | extB => exact extB ht hs
  | extC => exact extC ht hs
  | routeDelete => exact routeDelete ht hs
  | routeRead => exact read ht reads_routeRead hs
  | slotExpiry => exact slotExpiry ht hs
  | readSlot => exact read ht reads_readSlot hs
  | gaugeField => exact gaugeField ht hs
  | gaugeCommit => exact gaugeCommit ht hs
  | gaugeRead => exact read ht reads_gaugeRead hs
  | stepEvent => exact stepEvent ht hs
  | homingStep => exact homingStep ht hs
  | restDelayExpiry => exact restDelay ht hs
  | coilFaultReport c cause => cases ht; exact hs.guarded (records_failChannel s c cause) rfl
  | ruleA => exact ruleA ht hs
  | ruleB => exact request ht (fun _ u => keeps_editable (writePart u _ _)) hs
  | ruleC => exact ruleC ht hs
  | ruleD => exact ruleD ht hs
  | ruleEnable => exact ruleEnable ht hs
  | ruleClear => exact ruleClear ht hs
  | ruleRead => exact read ht reads_ruleRead hs
  | lampRead => exact read ht reads_lampRead hs
  | confirmTimerExpiry => exact confirmTimer ht hs
  | phaseEvent => exact timer ht records_advancePhase hs
  | proveOutEnd => exact timer ht records_proveOutEnded hs
  | lampTurnOnCheck n current => cases ht; exact hs.guarded (records_checkLamp s n current) rfl
  | ackPress => exact timer ht records_ackRecognised hs
  | alertAck => exact alertAck ht hs
  | alertRead => exact read ht reads_alertRead hs
  | chimeIntervalEnd => exact timer ht (fun u => (ripple_chimeNext onlyTacho u).records) hs
  | toneCounterExpiry => exact timer ht (fun _ => rfl) hs
  | pinRawChange p high => cases ht; exact hs.guarded rfl (records_takeRaw s p high)
  | filterStabilityExpiry => exact filterStability ht hs
  | zeroTimerExpiry => exact timer ht records_zeroExpired hs
  | setKfactor => exact setKfactor ht hs
  | setOdometer => exact setOdometer ht hs
  | sealOdometer => exact sealOdometer ht hs
  | readCalHistory => exact read ht reads_readCalHistory hs
  | distanceRead => exact read ht reads_distanceRead hs
  | calWriteComplete => exact calWriteComplete ht hs
  | minuteTimerExpiry => exact timer ht records_minutePassed hs
  | cardRead => exact cardRead ht hs
  | xferOpen => exact xferOpen ht hs
  | xferData => exact xferData ht hs
  | xferClose => exact xferClose ht hs
  | xferAbort => exact path ht (fun _ u => (ripple_takeAbort onlyTacho (fun _ h => h) u).records) hs
  | xferStray => exact xferStray ht hs
  | transferTimerExpiry => exact timer ht (fun u => (ripple_transferTimeout onlyTacho (fun _ h => h) u).records) hs
  | tachoRead => exact read ht reads_tachoRead hs
  | mismatchTimerExpiry =>
    exact timer ht (fun u => (ripple_confirmSide (fun _ => True) (fun _ _ => trivial) u trivial).records) hs
  | silenceWatchExpiry => exact timer ht records_watchExpired hs
  | readyRise => cases ht; exact hs.same (records_readyUp s)
  | readyTimerExpiry => exact timer ht (fun _ => rfl) hs
  | retryTimerExpiry => exact timer ht records_retry hs
  | displayTransferStart => exact timer ht records_startRecord hs
  | displayTransferComplete => exact timer ht (fun _ => rfl) hs
  | pageShortPress => exact timer ht records_turnPage hs
  | pageLongPress => exact timer ht records_longPress hs
  | displayRead => exact read ht reads_displayRead hs
  | readyFall => cases ht; exact hs.same rfl
  | ackInputChange pressed => cases ht; exact hs.guarded rfl (records_ackLevel s pressed)
  | pageInputChange pressed => cases ht; exact hs.guarded rfl (records_pageLevel s pressed)

/-- A step on an empty queue sends what is on its way, runs what is due, or lets a microsecond pass. -/
theorem idle (ht : Machine.idle s = .next t) (hs : GaugesOk s) : GaugesOk t := by
  unfold Machine.idle at ht
  split at ht
  · cases ht; exact hs.same (records_send s [])
  · split at ht
    · exact exec ht hs
    · split at ht <;> cases ht
      · exact hs
      · exact hs.same rfl

theorem step (ht : Machine.step s = .next t) (hs : GaugesOk s) : GaugesOk t := by
  unfold Machine.step at ht
  split at ht
  · exact exec ht (hs.same rfl)
  · exact idle ht hs

end GaugesOk

/-- Settles O15: a command keeps the gauge records but for GAUGE_FIELD, GAUGE_COMMIT and a load, each of which checks what it writes. -/
theorem recordsKept : Obligations.RecordsKept := fun s t hs ht =>
  (recordsOk_iff t).mpr (((recordsOk_iff s).mp hs).step ht)

end Sys2Proof.Machine
end

section
/-! The requests of the gauge channels: GAUGE_FIELD, GAUGE_COMMIT and GAUGE_READ (R42 to R46): O36 and O37. -/

namespace Sys2Proof.Machine

/-! ### GAUGE_FIELD (R42) -/

theorem exec_gaugeField (s : State) : exec .gaugeField s = onRequest 0x20 judgeGaugeField s := rfl

theorem exec_gaugeCommit (s : State) : exec .gaugeCommit s = onRequest 0x21 judgeGaugeCommit s := rfl

theorem exec_gaugeRead (s : State) : exec .gaugeRead s = onRequest 0x22 judgeGaugeRead s := rfl

@[simp] theorem answered_channel (s : State) (r : FrameRecord) (l : List FrameRecord) (c : ResultCode) (d : List Byte) (n : Nat) :
    (answered s r l c d).channel n = s.channel n := by
  unfold State.channel
  rw [answered_gauges]

theorem gaugeField_answers {s : State} {r : FrameRecord} {rest : List FrameRecord} (h : Asked 0x20 s r rest) :
    exec .gaugeField s = .next
      (if 7 < r.byte 2 ∨ fieldInRange (r.byte 3) (r.signedLong 4) = false then answered s r rest .badArg []
       else
         { answered s r rest .ok [] with
           gauges := s.gauges.put (r.byte 2)
             { s.channel (r.byte 2) with
               staged := (s.channel (r.byte 2)).staged.setField (r.byte 3) (r.signedLong 4) } }) := by
  rw [exec_gaugeField]
  split
  · next hb =>
    refine onRequest_answers h ?_
    unfold judgeGaugeField
    split
    · rfl
    · next hc => exact if_pos (hb.resolve_left hc)
  · next hb =>
    obtain ⟨hc, hv⟩ := not_or.mp hb
    rw [onRequest_verdict h (by unfold judgeGaugeField; rw [if_neg hc, if_neg hv])]
    show Host.Outcome.next (State.putChannel (answered s r rest .ok []) _ _) = _
    unfold State.putChannel
    simp only [answered_gauges, answered_channel]

/-! ### GAUGE_COMMIT (R43, R44) -/

/-- The checks of GAUGE_COMMIT once the record has left the queue (R43). -/
theorem judgeGaugeCommit_idle {s : State} {r : FrameRecord} (rest : List FrameRecord) (hs : ¬ Saving s) :
    judgeGaugeCommit r { s with intake.queue := rest } =
      if 7 < r.byte 2 then refuse .badArg
      else if r.byte 3 < 2 ∨ 8 < r.byte 3 then refuse .badArg
      else if (s.channel (r.byte 2)).staged.passes (r.byte 3) = false then refuse .badArg
      else if (s.channel (r.byte 2)).staged.settings.fullScale < (s.channel (r.byte 2)).farthest then refuse .wrongState
      else accepts (fun t => t.commitChannel (r.byte 2) (r.byte 3)) := unlessSaving_idle _ hs

/-- A staged record that passes has an ascending curve (R43). -/
theorem commit_ascends {c : Channel} {points : Nat} (h : c.staged.passes points = true) :
    curveAscends (c.commit points).live.curve = true := by
  simp only [StagedRecord.passes, recordPasses, Bool.and_eq_true] at h
  obtain ⟨⟨⟨ha, -⟩, -⟩, -⟩ := h
  exact ha

/-- An accepted commit changes its channel alone, which keeps its state and reacts, on a state `x` that has the channels, the slots and the
clock of `s` (R43, R44). -/
theorem commitChannel_reacts {s x : State} {c points : Nat} (hg : x.gauges = s.gauges) (ht : x.table = s.table)
    (hc : x.clock = s.clock) (h : (s.channel c).staged.passes points = true) :
    ∃ ch, x.commitChannel c points = { x with gauges := s.gauges.put c ch } ∧
      ch.state = (s.channel c).state ∧ ch.position = (s.channel c).position ∧ ch.staged = (s.channel c).staged ∧
      ch.live.settings = (s.channel c).staged.settings ∧ ch.live.curve = (s.channel c).staged.points.items.take points ∧
      CommitReaction s { s.channel c with live := ch.live } ch := by
  have hx : x.channel c = s.channel c := by unfold State.channel; rw [hg]
  have hreact := afterCommit_reaction s _ (commit_ascends h)
  have hfixed := afterCommit_fixed ((s.channel c).commit points) s.table.slots s.clock
  generalize hch : ((s.channel c).commit points).afterCommit s.table.slots s.clock = ch at hreact hfixed
  have hstate : ch.fixed.state = (s.channel c).state := by rw [hfixed]; rfl
  have hposition : ch.fixed.position = (s.channel c).position := by rw [hfixed]; rfl
  obtain ⟨hlive, hstaged⟩ := records_of_fixed hfixed
  refine ⟨ch, ?_, hstate, hposition, hstaged, by rw [hlive]; rfl, by rw [hlive]; rfl, ?_⟩
  · have hmove : x.commitChannel c points = x.moveChannel c ch := by
      unfold State.commitChannel
      rw [hx, ht, hc, hch]
    rw [hmove, moveChannel_same x c ch (by rw [hx]; exact hstate.symm), hg]
  · rw [hlive]
    exact hreact

theorem gaugeCommit_answers {s : State} {r : FrameRecord} {rest : List FrameRecord} (h : Asked 0x21 s r rest)
    (hs : ¬ Saving s) :
    if 7 < r.byte 2 ∨ r.byte 3 < 2 ∨ 8 < r.byte 3 ∨ (s.channel (r.byte 2)).staged.passes (r.byte 3) = false then
      exec .gaugeCommit s = .next (answered s r rest .badArg [])
    else if (s.channel (r.byte 2)).staged.settings.fullScale < (s.channel (r.byte 2)).farthest then
      exec .gaugeCommit s = .next (answered s r rest .wrongState [])
    else
      ∃ t ch, exec .gaugeCommit s = .next t ∧
        t = { answered s r rest .ok [] with gauges := s.gauges.put (r.byte 2) ch } ∧
        ch.state = (s.channel (r.byte 2)).state ∧ ch.position = (s.channel (r.byte 2)).position ∧
        ch.staged = (s.channel (r.byte 2)).staged ∧
        ch.live.settings = (s.channel (r.byte 2)).staged.settings ∧
        ch.live.curve = (s.channel (r.byte 2)).staged.points.items.take (r.byte 3) ∧
        CommitReaction s { s.channel (r.byte 2) with live := ch.live } ch := by
  have hj := judgeGaugeCommit_idle (r := r) rest hs
  rw [exec_gaugeCommit]
  split
  · next hb =>
    refine onRequest_answers h (hj.trans ?_)
    by_cases hc : 7 < r.byte 2
    · exact if_pos hc
    rw [if_neg hc]
    by_cases hn : r.byte 3 < 2 ∨ 8 < r.byte 3
    · exact if_pos hn
    rw [if_neg hn]
    exact if_pos (((hb.resolve_left hc).resolve_left fun k => hn (.inl k)).resolve_left fun k => hn (.inr k))
  · next hb =>
    obtain ⟨hc, hn⟩ := not_or.mp hb
    obtain ⟨hn2, hn⟩ := not_or.mp hn
    obtain ⟨hn8, hp⟩ := not_or.mp hn
    rw [if_neg hc, if_neg (not_or.mpr ⟨hn2, hn8⟩), if_neg hp] at hj
    split
    · next hf => exact onRequest_answers h (hj.trans (if_pos hf))
    · next hf =>
      obtain ⟨ch, he, hch⟩ := commitChannel_reacts (x := answered s r rest .ok []) (answered_gauges s r rest .ok [])
        (answered_table s r rest .ok []) (answered_clock s r rest .ok []) (Bool.eq_true_of_not_eq_false hp)
      refine ⟨_, ch, onRequest_verdict h (hj.trans (if_neg hf)), he, hch⟩

/-- Settles O36: each request answers by its checks, and one that passes writes one channel: a field of its staged record, or its live
record with the reaction to it. -/
theorem gaugeWrites : Obligations.GaugeWrites := fun _ _ _ => ⟨gaugeField_answers, gaugeCommit_answers⟩

/-! ### GAUGE_READ (R46) -/

section
variable {s : State} {r : FrameRecord} {rest : List FrameRecord}

theorem gaugeRead_refuses (h : Asked 0x22 s r rest)
    (hb : 7 < r.byte 2 ∨ 4 < r.byte 3 ∨ (r.byte 3 = 3 ∧ 31 < r.byte 4) ∨ (r.byte 3 = 4 ∧ (31 < r.byte 4 ∨ r.byte 4 = 7))) :
    exec .gaugeRead s = .next (answered s r rest .badArg []) := by
  rw [exec_gaugeRead]
  refine onRequest_answers h ?_
  unfold judgeGaugeRead
  split
  · rfl
  · next hc =>
    rcases hb.resolve_left hc with hb | ⟨h3, hb⟩ | ⟨h4, hb⟩
    · obtain ⟨k, hk⟩ := Nat.exists_eq_add_of_le' hb
      simp only [hk]
      rfl
    · simp only [h3, if_pos hb]
      rfl
    · simp only [h4, if_pos hb]
      rfl

/-- GAUGE_READ of a channel that the part has, by its selector (R46). -/
theorem judgeGaugeRead_channel (rest : List FrameRecord) (hc : r.byte 2 ≤ 7) :
    judgeGaugeRead r { s with intake.queue := rest } =
      match r.byte 3 with
      | 0 => reads (s.channel (r.byte 2)).stateData
      | 1 => reads (u16 (s.channel (r.byte 2)).position ++ u16 (s.channel (r.byte 2)).target)
      | 2 => readsFree ((s.channel (r.byte 2)).pendingData s.fresh)
      | 3 =>
        if 31 < r.byte 4 then refuse .badArg else readsFree ((s.channel (r.byte 2)).live.fieldData (r.byte 4) s.fresh)
      | 4 =>
        if 31 < r.byte 4 ∨ r.byte 4 = 7 then refuse .badArg
        else reads ((s.channel (r.byte 2)).staged.fieldData (r.byte 4))
      | _ => refuse .badArg := if_neg (Nat.not_lt.mpr hc)

/-- A field of the live record, with the free value written out (R46, log 14). -/
theorem liveFieldData_eq (l : LiveRecord) (field free : Nat) :
    l.fieldData field free =
      if field = 7 then s32 l.curve.length
      else if field < 16 then s32 (l.settings.field field)
      else
        match l.curve[(field - 16) % 8]? with
        | some p => s32 (if field < 24 then p.value else p.position)
        | none => u32 (Config.absentCurvePoint free).toNat := rfl

/-- A read by a selector whose data may hold a free value. -/
theorem gaugeRead_free (h : Asked 0x22 s r rest) {data : List Byte}
    (hj : judgeGaugeRead r { s with intake.queue := rest } = readsFree data) :
    exec .gaugeRead s = .next (answered s r rest .ok data).useFree := by
  rw [exec_gaugeRead]
  exact onRequest_verdict h hj

/-- Settles O37: the selector picks the data; the two open values are those that the model draws. -/
theorem gaugeRead : Obligations.GaugeRead := by
  intro s r rest h
  refine ⟨gaugeRead_refuses h, fun hc h0 => ?_, fun hc h1 => ?_, fun hc h2 => ?_, fun hc h3 hf => ?_, fun hc h4 hf hn => ?_⟩
  all_goals have hj := judgeGaugeRead_channel (s := s) rest hc
  · simp only [h0] at hj
    exact onRequest_answers h hj
  · simp only [h1] at hj
    exact onRequest_answers h hj
  · simp only [h2] at hj
    exact ⟨_, (Config.absentPending s.fresh).isLt, gaugeRead_free h hj⟩
  · simp only [h3, if_neg (Nat.not_lt.mpr hf), liveFieldData_eq] at hj
    exact ⟨_, (Config.absentCurvePoint s.fresh).isLt, gaugeRead_free h hj⟩
  · simp only [h4, if_neg (not_or.mpr ⟨Nat.not_lt.mpr hf, hn⟩)] at hj
    exact onRequest_answers h hj

end

end Sys2Proof.Machine
end

section
/-! The events of a gauge channel: a step, a homing step, the end of the rest delay and a coil fault report, with the controller's judgement
of the report (R50, R53 to R56, R64 to R66): O38 and O39. -/

namespace Sys2Proof.Machine

theorem exec_stepEvent (s : State) (c : Nat) :
    exec (.stepEvent c) s = onExpiry (s.stepDue c) (fun t => t.stepChannel c) s := rfl

theorem exec_homingStep (s : State) (c : Nat) :
    exec (.homingStep c) s = onExpiry (s.homingDue c) (fun t => t.homeChannel c) s := rfl

theorem exec_restDelayExpiry (s : State) (c : Nat) :
    exec (.restDelayExpiry c) s =
      onExpiry (s.channel c).restTimer (fun t => t.putChannel c ((t.channel c).restExpired t.clock)) s := rfl

theorem exec_coilFaultReport (s : State) (c : Nat) (cause : CoilFault) :
    exec (.coilFaultReport c cause) s =
      .next (if decide (c < 8) && (s.channel c).reports cause then s.failChannel c cause else s) := rfl

/-! ### A channel that reports (R66) -/

/-- A channel that enters a state which it reports: its report stands, and the controller judges. -/
theorem moveChannel_reports {s : State} {c : Nat} {ch : Channel} {report : ChannelReport} (hc : c < 8)
    (hne : (s.channel c).state ≠ ch.state) (hr : ch.state.report = some report) :
    s.moveChannel c ch =
      (({ s with gauges := s.gauges.put c ch, ign.reports := s.ign.reports.put c report } : State).judgeRun).judgeSleep := by
  have hch : (s.putChannel c ch).channel c = ch := State.channel_putChannel_same s c ch hc
  have hnote : (s.putChannel c ch).noteChannel s.gauges c =
      { s with gauges := s.gauges.put c ch, ign.reports := s.ign.reports.put c report } := by
    unfold State.noteChannel
    simp only [hch, hr]
    exact if_neg (Ne.symm hne)
  unfold State.moveChannel
  simp only []
  rw [if_neg hne, hnote]

/-- What the controller makes of such a report (R188, R190). -/
theorem moveChannel_judged {s : State} {c : Nat} {ch : Channel} {report : ChannelReport} (hc : c < 8)
    (hne : (s.channel c).state ≠ ch.state) (hr : ch.state.report = some report) :
    Judged { s with gauges := s.gauges.put c ch, ign.reports := s.ign.reports.put c report } (s.moveChannel c ch) := by
  rw [moveChannel_reports hc hne hr]
  exact judge_spec _

/-! ### STEP_EVENT (R53, R59) -/

theorem stepDue_driven {s : State} {c : Nat} (h : (s.channel c).state = .tracking ∨ (s.channel c).state = .parking) :
    s.stepDue c = (s.channel c).stepTimer := by
  unfold State.stepDue
  rcases h with h | h <;> rw [h]

theorem homingDue_homing {s : State} {c : Nat} (h : (s.channel c).state = .homing) :
    s.homingDue c = (s.channel c).stepTimer := by
  unfold State.homingDue
  rw [h]

/-- A needle at its target at level 0 stops (R53). -/
theorem step_stops {c : Channel} (now : Nat) (hl : c.level = 0) (hp : c.pending.getD c.target = c.position) :
    c.step now =
      { c with
        state := if c.state = .parking then .parked else c.state, target := c.position, pending := none,
        direction := .none, level := 0, stepTimer := none } := by
  obtain ⟨-, -, -, hrow⟩ := step_rows c now
  rw [takePending_eq, hp] at hrow
  have ha : ({ c with target := c.position, pending := none } : Channel).ahead = 0 := by
    unfold Channel.ahead
    cases c.direction <;> simp
  rw [hrow ha hl]
  rfl

/-- Settles O38: the step table by its rows; a PARKING needle at rest at its target is PARKED, which it reports. -/
theorem stepEvent : Obligations.StepEvent := by
  refine ⟨fun s c due hc ht hd hs => ?_, fun s c due hc ht hd hs hl hp => ?_⟩
  · have hdue : s.stepDue c = some due := by
      rw [stepDue_driven (hs.imp_right And.left), ht]
    obtain ⟨htarget, hpending, hstate, hrows⟩ := step_spec (s.channel c) (max s.clock due) hd
    have hkept : ((s.channel c).step (max s.clock due)).state = (s.channel c).state := by
      refine hstate fun ⟨hpark, hlevel, hat⟩ => ?_
      rcases hs with hs | ⟨-, hmoves⟩
      · rw [hs] at hpark
        cases hpark
      · rcases hmoves with hmoves | hmoves
        · omega
        · exact hmoves hat
    refine ⟨_, (s.channel c).step (max s.clock due), ?_, rfl, htarget, hpending, hkept, hrows⟩
    rw [exec_stepEvent, onExpiry_running hdue]
    exact congrArg Host.Outcome.next (moveChannel_same (s.reach due) c _ hkept.symm)
  · have hdue : s.stepDue c = some due := by rw [stepDue_driven (.inr hs), ht]
    have hstep := step_stops (max s.clock due) hl hp
    rw [if_pos hs] at hstep
    refine ⟨_, by rw [exec_stepEvent, onExpiry_running hdue], ?_⟩
    show Judged _ ((s.reach due).moveChannel c ((s.channel c).step (max s.clock due)))
    rw [hstep]
    exact moveChannel_judged (s := s.reach due) hc
      (by show (s.channel c).state ≠ .parked; rw [hs]; exact ChannelState.noConfusion) rfl

/-! ### HOMING_STEP (R55, R56) -/

/-- A homing step with more to come (R55). -/
theorem homingStep_goesOn {c : Channel} (now : Nat) (h : 1 < c.homingLeft) :
    c.homingStep now =
      { c with
        position := c.position - 1, driveIndex := (c.driveIndex + 47) % 48, homingLeft := c.homingLeft - 1,
        stepTimer := some (now + c.live.settings.intervals.get 4 0) } :=
  if_pos (c := 0 < c.homingLeft - 1) (by omega)

/-- The last homing step ends homing (R55). -/
theorem homingStep_ends {c : Channel} (now : Nat) (h : c.homingLeft ≤ 1) :
    c.homingStep now = ({ c.stepDown with homingLeft := 0 } : Channel).homed now := by
  have h0 : c.homingLeft - 1 = 0 := by omega
  unfold Channel.homingStep
  rw [h0]
  rfl

/-- The last homing step of a channel that parks (R56). -/
theorem homingStep_parks {c : Channel} (now : Nat) (h : c.homingLeft ≤ 1) (hp : c.parkMark = true) :
    c.homingStep now =
      { c with
        state := .parked, parkMark := false, position := 0, target := 0, pending := none, level := 0, direction := .none,
        stepTimer := none, driveIndex := 0, homingLeft := 0 } := by
  rw [homingStep_ends now h]
  exact if_pos hp

/-- A needle at rest at 0 starts up to another target (R52). -/
theorem startMotion_fromZero (c : Channel) (now goal : Nat) :
    ({ c with position := 0, target := goal, level := 0, direction := .none, stepTimer := none } : Channel).startMotion now =
      { c with
        position := 0, target := goal, level := 0, direction := if goal = 0 then .none else .up,
        stepTimer := if goal = 0 then none else some (now + c.live.settings.intervals.get 0 0) } := by
  unfold Channel.startMotion
  by_cases h0 : goal = 0
  · subst h0
    rfl
  · rw [if_pos (Nat.pos_of_ne_zero h0), if_neg h0, if_neg h0]
    rfl

/-- The last homing step of a channel that does not park: it starts toward its target from position 0 (R56). -/
theorem homingStep_tracks {c : Channel} (now : Nat) (h : c.homingLeft ≤ 1) (hp : c.parkMark = false) :
    c.homingStep now =
      { c with
        state := .tracking, position := 0, target := c.pending.getD c.target, pending := none, level := 0, driveIndex := 0,
        homingLeft := 0, direction := if c.pending.getD c.target = 0 then .none else .up,
        stepTimer := if c.pending.getD c.target = 0 then none
          else some (now + c.live.settings.intervals.get 0 0) } := by
  have homed : ({ c.stepDown with homingLeft := 0 } : Channel).homed now =
      ({ c with
        state := .tracking, position := 0, target := c.pending.getD c.target, pending := none, level := 0, driveIndex := 0,
        homingLeft := 0, direction := .none, stepTimer := none } : Channel).startMotion now :=
    if_neg (by rw [Bool.not_eq_true]; exact hp)
  rw [homingStep_ends now h, homed]
  exact startMotion_fromZero
    { c with state := .tracking, pending := none, driveIndex := 0, homingLeft := 0 } now (c.pending.getD c.target)

theorem homingStep_state {c : Channel} (now : Nat) (h : c.homingLeft ≤ 1) :
    (c.homingStep now).state = if c.parkMark then .parked else .tracking := by
  cases hp : c.parkMark with
  | true => rw [homingStep_parks now h hp]; rfl
  | false => rw [homingStep_tracks now h hp]; rfl

/-- The report of the last homing step, which the controller judges (R56, R66). -/
theorem homeChannel_judged {s : State} {c due : Nat} (hc : c < 8) (hs : (s.channel c).state = .homing)
    (h : (s.channel c).homingLeft ≤ 1) :
    Judged
      { s.reach due with
        gauges := s.gauges.put c ((s.channel c).homingStep (max s.clock due)),
        ign.reports := s.ign.reports.put c (if (s.channel c).parkMark then .parked else .tracking) }
      ((s.reach due).homeChannel c) := by
  have hst := homingStep_state (max s.clock due) h
  refine moveChannel_judged (s := s.reach due) (ch := (s.channel c).homingStep (max s.clock due)) hc ?_ ?_
  · show (s.channel c).state ≠ _
    rw [hs, hst]
    split <;> exact ChannelState.noConfusion
  · rw [hst]
    split <;> rfl

/-! ### REST_DELAY_EXPIRY (R50) -/

theorem startMotion_rest (c : Channel) (now : Nat) :
    (c.startMotion now).restTimer = c.restTimer ∧ (c.startMotion now).restMark = c.restMark := by
  unfold Channel.startMotion
  split
  · exact ⟨rfl, rfl⟩
  · split <;> exact ⟨rfl, rfl⟩

/-- A candidate judged leaves the rest-delay timer and the rest mark (R51). -/
theorem consider_rest (c : Channel) (now : Nat) (band : Bool) (k : Nat) :
    (c.consider now band k).restTimer = c.restTimer ∧ (c.consider now band k).restMark = c.restMark := by
  unfold Channel.consider Channel.place
  simp only []
  split
  · exact ⟨rfl, rfl⟩
  · split
    · exact startMotion_rest _ now
    · exact ⟨rfl, rfl⟩

theorem restExpired_rest (c : Channel) (now : Nat) :
    (c.restExpired now).restTimer = none ∧ (c.restExpired now).restMark = true :=
  consider_rest { c with restTimer := none, restMark := true } now true _

/-! ### COIL_FAULT_REPORT (R63 to R65) -/

/-- The coils of a channel give the reports that R64 allows. -/
theorem reports_iff (c : Channel) (cause : CoilFault) : c.reports cause = true ↔ CanReport c cause := by
  have hdriven : c.driven = true ↔ c.state = .homing ∨ c.state = .tracking ∨ c.state = .parking := by
    unfold Channel.driven
    cases c.state <;> simp
  unfold CanReport
  rw [← hdriven]
  unfold Channel.reports Channel.duties
  cases c.driven <;> cases cause <;> simp

/-- The channel that a fault report leaves, before what follows from it (R65). -/
def State.faulted (s : State) (c : Nat) (cause : CoilFault) : State := s.putChannel c ((s.channel c).fail cause)

/-- The state once slot 14 shows the fault and its flag is set, before its push (R65). -/
def State.faultShown (s : State) (c : Nat) (cause : CoilFault) : State :=
  ((s.faulted c cause).writePlain 14 (.fresh (faultSum (s.faulted c cause).gauges))).raise .gaugeFault

/-- The state once its alert has been pushed (R65). -/
def State.faultPushed (s : State) (c : Nat) (cause : CoilFault) : State :=
  (s.faultShown c cause).push (0xF010 + c) .caution (.gauge c)

/-- The state in which the controller judges a fault's report (R66). -/
def State.faultNoted (s : State) (c : Nat) (cause : CoilFault) : State :=
  { s.faultPushed c cause with ign.reports := (s.faultPushed c cause).ign.reports.put c .fault }

theorem failChannel_eq (s : State) (c : Nat) (cause : CoilFault) :
    s.failChannel c cause = ((s.faultNoted c cause).judgeRun).judgeSleep := rfl

/-- A ripple stays one when both its ends hold other channel reports. -/
theorem Ripple.reported {ch ev : Nat → Prop} {s t : State} (h : Ripple ch s t ev) (b : Bank ChannelReport 8) :
    Ripple ch { s with ign.reports := b } { t with ign.reports := b } ev where
  outside := by
    have e := congrArg (fun x : State => ({ x with ign.reports := b } : State)) h.outside
    exact e
  slots := h.slots
  marks := h.marks
  channels := h.channels
  deaf := h.deaf
  still := h.still
  followed := h.followed
  aside := h.aside
  rules := h.rules
  reacted := h.reacted
  spared := h.spared
  dimmed := h.dimmed
  telltale := h.telltale
  alert := h.alert
  stack := h.stack
  asleep := h.asleep
  told := { h.told with }
  flags := h.flags
  sent := h.sent
  room := h.room

section
variable (s : State) (c : Nat) (cause : CoilFault)

theorem faultShown_ripple : Ripple (fun n => n = 13 ∨ n = 14) (s.faulted c cause) (s.faultShown c cause) :=
  (ripple_writePlain _ _ 14 _ (.inr rfl) (.inl rfl)).trans (ripple_raise _ _ _)

/-- The push behind it reaches slot 13 alone (R65). -/
theorem faultPushed_ripple : Ripple (· = 13) (s.faultShown c cause) (s.faultPushed c cause) := ripple_push _ _ _ _ _ rfl

theorem faultPushed_all : Ripple (fun n => n = 13 ∨ n = 14) (s.faulted c cause) (s.faultPushed c cause) :=
  (faultShown_ripple s c cause).trans ((faultPushed_ripple s c cause).mono fun _ h => .inl h)

/-- The report changes the controller's reports alone (R66). -/
theorem faultNoted_eq :
    s.faultNoted c cause = { s.faultPushed c cause with ign.reports := s.ign.reports.put c .fault } := by
  unfold State.faultNoted
  rw [(faultPushed_all s c cause).ign]
  rfl

theorem faultNoted_ign : (s.faultNoted c cause).ign = { s.ign with reports := s.ign.reports.put c .fault } := by
  rw [faultNoted_eq]
  exact congrArg (fun g : Ignition => { g with reports := s.ign.reports.put c .fault }) (faultPushed_all s c cause).ign

theorem faultNoted_ripple :
    Ripple (fun n => n = 13 ∨ n = 14) { s.faulted c cause with ign.reports := s.ign.reports.put c .fault }
      (s.faultNoted c cause) := by
  rw [faultNoted_eq]
  exact (faultPushed_all s c cause).reported _

/-- The other channels go on in their states (R31, R51). -/
theorem faultNoted_state (d : Nat) : ((s.faultNoted c cause).channel d).state = ((s.faulted c cause).channel d).state := by
  have h := congrArg Channel.state ((faultNoted_ripple s c cause).channels d)
  exact h

/-- A channel in FAULT takes no event (R48). -/
theorem faultNoted_channel (hc : c < 8) : (s.faultNoted c cause).channel c = (s.channel c).fail cause := by
  have hch : (s.faulted c cause).channel c = (s.channel c).fail cause := State.channel_putChannel_same _ _ _ hc
  have hdeaf : ((s.faulted c cause).channel c).attends = false := by rw [hch]; rfl
  exact ((faultNoted_ripple s c cause).deaf c hdeaf).trans hch

theorem faultNoted_flagged : Flagged (s.faultNoted c cause) .gaugeFault := by
  have h : Flagged (s.faultPushed c cause) .gaugeFault :=
    (faultPushed_ripple s c cause).flags _ (raise_flagged _ _)
  rw [faultNoted_eq]
  exact h

/-- GAUGE_FAULTS by the states of the channels (R34). -/
theorem faultSum_congr {g k : Bank Channel 8}
    (h : ∀ d, (g.get d Channel.powerOn).state = (k.get d Channel.powerOn).state) : faultSum g = faultSum k := by
  unfold faultSum
  simp only [h]

/-- Slot 14 shows the channels in FAULT (R34, R65). -/
theorem faultNoted_shows : Shows (s.faultNoted c cause) 14 (faultSum (s.faultNoted c cause).gauges) := by
  have hsum : faultSum (s.faultNoted c cause).gauges = faultSum (s.faulted c cause).gauges :=
    faultSum_congr (faultNoted_state s c cause)
  have hwritten := writePlain_shows (s.faulted c cause) 14 (faultSum (s.faulted c cause).gauges) (by decide) (by decide)
  have hraised := (ripple_raise (· = 13) _ .gaugeFault).shows (by decide) hwritten
  have hpushed := (faultPushed_ripple s c cause).shows (by decide) hraised
  rw [hsum, faultNoted_eq]
  exact hpushed

end

/-- Settles O39: a homing step by what remains, the rest delay's end as a candidate placed, and a fault report by the list of R65. -/
theorem channelEvents : Obligations.ChannelEvents := by
  refine ⟨fun s c due hc hs ht hm => ?_, fun s c due hc hs ht hl => ?_, fun s c due hc ht => ?_,
    fun s c cause hc hn => ?_, fun s c cause hc hcan => ?_⟩
  · have hdue : s.homingDue c = some due := by rw [homingDue_homing hs, ht]
    have hstep := homingStep_goesOn (max s.clock due) hm
    have hkept : ((s.channel c).homingStep (max s.clock due)).state = (s.channel c).state := by rw [hstep]
    rw [exec_homingStep, onExpiry_running hdue, ← hstep]
    exact congrArg Host.Outcome.next (moveChannel_same (s.reach due) c _ hkept.symm)
  · have hdue : s.homingDue c = some due := by rw [homingDue_homing hs, ht]
    refine ⟨(s.channel c).homingStep (max s.clock due), _, by rw [exec_homingStep, onExpiry_running hdue],
      homingStep_parks _ hl, fun goal hg hp => ?_, ?_⟩
    · rw [hg]
      exact homingStep_tracks _ hl hp
    · exact homeChannel_judged hc hs hl
  · obtain ⟨htimer, hmark⟩ := restExpired_rest (s.channel c) (max s.clock due)
    refine ⟨_, (s.channel c).restExpired (max s.clock due), ?_, rfl, htimer, hmark, restExpired_fixed _ _,
      consider_placed _ _ _ _⟩
    rw [exec_restDelayExpiry, onExpiry_running ht]
    rfl
  · rw [exec_coilFaultReport, if_neg]
    rw [Bool.and_eq_true, reports_iff]
    exact fun h => hn h.2
  · have hreports : (decide (c < 8) && (s.channel c).reports cause) = true := by
      rw [Bool.and_eq_true]
      exact ⟨decide_eq_true hc, (reports_iff _ _).mpr hcan⟩
    have hch := faultNoted_channel s c cause hc
    refine ⟨s.faultNoted c cause, _, s.faultShown c cause, by rw [exec_coilFaultReport, if_pos hreports, failChannel_eq], judge_spec _,
      hch, rfl, ?_, faultNoted_ign s c cause, faultNoted_flagged s c cause, faultNoted_shows s c cause, ?_⟩
    · rw [hch]
      exact faultShown_ripple s c cause
    · rw [hch]
      exact faultNoted_ripple s c cause

end Sys2Proof.Machine
end

section
/-! The second timer of RUN and the parking timer (R61, R188, R190): O26. -/

namespace Sys2Proof.Machine

theorem exec_secondTimerExpiry (s : State) : exec .secondTimerExpiry s = onExpiry s.ign.secondTimer State.countSecond s := rfl

theorem exec_parkingTimerExpiry (s : State) : exec .parkingTimerExpiry s = onExpiry s.ign.parkingTimer State.sleepEntry s := rfl

/-- A second of RUN counted, before slot 15 is written (R188). -/
def State.secondCounted (s : State) : State :=
  { s with
    ign.runSeconds := min (s.ign.runSeconds + 1) 2147483647, ign.secondTimer := some (s.clock + 1000000) }

theorem countSecond_eq (s : State) :
    s.countSecond = s.secondCounted.writePlain 15 (.fresh s.secondCounted.ign.runSeconds) := rfl

theorem countSecond_ripple (s : State) : Ripple (fun n => n = 13 ∨ n = 15) s.secondCounted s.countSecond := by
  rw [countSecond_eq]
  exact ripple_writePlain _ _ 15 _ (.inr rfl) (.inl rfl)

/-- Slot 15 shows the seconds of RUN (R188). -/
theorem countSecond_shows (s : State) : Shows s.countSecond 15 s.countSecond.ign.runSeconds := by
  rw [(countSecond_ripple s).ign, countSecond_eq]
  exact writePlain_shows _ 15 _ (by decide) (by decide)

/-- Settles O26: the second timer counts a second and writes slot 15, the parking timer is SLEEP entry. -/
theorem powerTimers : Obligations.PowerTimers := by
  refine ⟨fun s due h => ?_, fun s due h => ?_⟩
  · have R := countSecond_ripple (s.reach due)
    exact ⟨_, by rw [exec_secondTimerExpiry, onExpiry_running h], by rw [R.ign]; rfl, countSecond_shows _, R⟩
  · exact ⟨_, by rw [exec_parkingTimerExpiry, onExpiry_running h], sleepEntry_entered _⟩

end Sys2Proof.Machine
end

section
/-! The alert codes that the rules hold (R69): what a request, a load and a change of power state make of them, and
 what leaves them alone. -/

namespace Sys2Proof.Machine

/-- The alert code of a rule in EDITING or LIVE. -/
def Rule.code (r : Rule) : Option Nat := if r.life = .free then none else r.d.bind RulePartD.code

/-- The alert code that each rule holds. -/
def ruleCodes (rules : Bank Rule 64) (i : Nat) : Option Nat := (rules.get i Rule.blank).code

theorem heldCode_eq (s : State) (i : Nat) : s.heldCode i = ruleCodes s.telltale.rules i := rfl

/-- No two rules hold the same code. -/
def CodesApart (codes : Nat → Option Nat) : Prop :=
  ∀ i j code, i < 64 → j < 64 → codes i = some code → codes j = some code → i = j

/-- What `CodesOk` says, by the codes alone. -/
structure RulesApart (s : State) : Prop where
  apart : CodesApart (ruleCodes s.telltale.rules)

theorem codesOk_iff (s : State) : CodesOk s ↔ RulesApart s := ⟨fun h => ⟨h⟩, fun h => h.apart⟩

/-- What leaves every rule's code keeps the codes apart. -/
theorem RulesApart.same {s t : State} (h : RulesApart s) (e : ruleCodes t.telltale.rules = ruleCodes s.telltale.rules) :
    RulesApart t := ⟨by rw [e]; exact h.apart⟩

/-! ### Banks of rules -/

theorem ruleCodes_put (rules : Bank Rule 64) {i : Nat} (r : Rule) (hi : i < 64) (j : Nat) :
    ruleCodes (rules.put i r) j = if j = i then r.code else ruleCodes rules j := by
  unfold ruleCodes
  by_cases h : j = i
  · rw [if_pos h, h, Bank.get_put_same _ _ _ _ hi]
  · rw [if_neg h, Bank.get_put_other _ _ _ _ _ (Ne.symm h)]

/-- A rule replaced by one with its code. -/
theorem ruleCodes_put_same {rules : Bank Rule 64} {i : Nat} {r : Rule} (h : r.code = ruleCodes rules i) :
    ruleCodes (rules.put i r) = ruleCodes rules := by
  by_cases hi : i < 64
  · funext j
    rw [ruleCodes_put rules r hi j]
    split
    · next e => rw [h, e]
    · rfl
  · rw [Bank.put_outside _ _ _ (Nat.le_of_not_lt hi)]

/-- Every rule changed alike but for its code. -/
theorem ruleCodes_map (rules : Bank Rule 64) {f : Rule → Rule} (h : ∀ r, (f r).code = r.code) :
    ruleCodes (rules.map f) = ruleCodes rules := by
  funext i
  unfold ruleCodes
  by_cases hi : i < 64
  · rw [Bank.get_map_inside _ _ _ _ Rule.blank hi, h]
  · rw [Bank.get_outside _ _ _ (Nat.le_of_not_lt hi), Bank.get_outside _ _ _ (Nat.le_of_not_lt hi)]

/-- A code that no other rule holds, given to one rule. -/
theorem codesApart_put {rules : Bank Rule 64} {i : Nat} {r : Rule} (h : CodesApart (ruleCodes rules)) (hi : i < 64)
    (hn : ∀ j code, j < 64 → j ≠ i → r.code = some code → ruleCodes rules j ≠ some code) :
    CodesApart (ruleCodes (rules.put i r)) := by
  intro j k code hj hk ej ek
  rw [ruleCodes_put rules r hi] at ej ek
  by_cases hji : j = i <;> by_cases hki : k = i
  · exact hji.trans hki.symm
  · rw [if_pos hji] at ej
    rw [if_neg hki] at ek
    exact absurd ek (hn k code hk hki ej)
  · rw [if_neg hji] at ej
    rw [if_pos hki] at ek
    exact absurd ej (hn j code hj hji ek)
  · rw [if_neg hji] at ej
    rw [if_neg hki] at ek
    exact h j k code hj hk ej ek

/-! ### One rule -/

theorem code_of_fixed {q r : Rule} (h : q.fixed = r.fixed) : q.code = r.code := by
  have el := congrArg Rule.life h
  have hl : q.life = r.life := el
  have ed := congrArg Rule.d h
  have hd : q.d = r.d := ed
  unfold Rule.code
  rw [hl, hd]

theorem code_park (r : Rule) : r.park.code = r.code := by
  unfold Rule.park Rule.code
  split <;> rfl

theorem code_resume (r : Rule) (i now : Nat) (rec : SlotRecord) : (r.resume i now rec).1.code = r.code := by
  unfold Rule.resume
  split
  · split <;> rfl
  · exact code_of_fixed (r.react_fixed i now rec)

/-- A part other than part D written to a rule that is not LIVE leaves its code (R68). -/
theorem code_edited {r q : Rule} (h : q.d = r.opened.d) : q.edited.code = r.code := by
  unfold Rule.opened at h
  unfold Rule.edited Rule.code
  split at h
  · next hf => rw [if_pos hf, h]; rfl
  · next hf => rw [if_neg hf, h]; rfl

/-- An EDITING rule enabled keeps its code (R70). -/
theorem code_enabled {r : Rule} (h : r.life = .editing) : r.enabled.code = r.code := by
  unfold Rule.enabled Rule.code
  rw [h]
  rfl

/-! ### Shared operations -/

theorem Ripple.codes {ch ev : Nat → Prop} {s t : State} (h : Ripple ch s t ev) :
    ruleCodes t.telltale.rules = ruleCodes s.telltale.rules := funext fun i => code_of_fixed (h.rules i)

theorem Travel.codes {ch : Nat → Prop} {s t : State} (h : Travel ch s t) :
    ruleCodes t.telltale.rules = ruleCodes s.telltale.rules := Ripple.codes (s := s.travelAs t) h

section
variable (s : State)

@[simp] theorem codes_send (l : List AlertAction) : ruleCodes (s.send l).telltale.rules = ruleCodes s.telltale.rules :=
  (ripple_send (fun _ => True) s l trivial).codes

@[simp] theorem codes_push (code : Nat) (v : Severity) (o : Origin) :
    ruleCodes (s.push code v o).telltale.rules = ruleCodes s.telltale.rules := codes_send s _

@[simp] theorem codes_release (code : Nat) (o : Origin) :
    ruleCodes (s.release code o).telltale.rules = ruleCodes s.telltale.rules := codes_send s _

@[simp] theorem codes_raise (f : EventFlag) : ruleCodes (s.raise f).telltale.rules = ruleCodes s.telltale.rules := by
  rw [(raise_frame s f).2.1]

@[simp] theorem codes_settleLamps : ruleCodes s.settleLamps.telltale.rules = ruleCodes s.telltale.rules := by
  rw [settle_rules]

@[simp] theorem codes_writePlain (n : Nat) (w : SlotWrite) :
    ruleCodes (s.writePlain n w).telltale.rules = ruleCodes s.telltale.rules :=
  (ripple_writePlain (fun _ => True) s n w trivial trivial).codes

@[simp] theorem codes_changeSlot (n : Nat) (c : Cause) (r : SlotRecord) :
    ruleCodes (s.changeSlot n c r).telltale.rules = ruleCodes s.telltale.rules :=
  (ripple_changeSlot (fun _ => True) (fun _ _ => trivial) s n c r trivial).codes

@[simp] theorem codes_writeSpeed (w : SlotWrite) :
    ruleCodes (s.writeSpeed w).telltale.rules = ruleCodes s.telltale.rules := by
  unfold State.writeSpeed
  rw [codes_changeSlot]

@[simp] theorem codes_setMarks (a b : Bool) : ruleCodes (s.setMarks a b).telltale.rules = ruleCodes s.telltale.rules := by
  obtain ⟨-, -, -, -, -, T⟩ := setMarks_spec s a b
  exact T.codes

@[simp] theorem codes_requestCal : ruleCodes s.requestCal.telltale.rules = ruleCodes s.telltale.rules :=
  (requestCal_travel (fun _ => True) s).2.2.codes

@[simp] theorem codes_storeOdometer : ruleCodes s.storeOdometer.telltale.rules = ruleCodes s.telltale.rules := by
  simp [State.storeOdometer]

@[simp] theorem codes_acknowledge : ruleCodes s.acknowledge.telltale.rules = ruleCodes s.telltale.rules :=
  (ripple_acknowledge (fun _ => True) s trivial).codes

@[simp] theorem codes_minuteEvent (d : Driver) : ruleCodes (s.minuteEvent d).telltale.rules = ruleCodes s.telltale.rules :=
  (ripple_minuteEvent (fun _ => True) (fun _ _ => trivial) s d).codes

@[simp] theorem codes_tryStart : ruleCodes s.tryStart.telltale.rules = ruleCodes s.telltale.rules :=
  (ripple_tryStart (fun _ => True) (fun _ _ => trivial) s).codes

@[simp] theorem codes_enqueue (d : Driver) (attempt : Nat) :
    ruleCodes (s.enqueue d attempt).telltale.rules = ruleCodes s.telltale.rules :=
  (ripple_enqueue (fun _ => True) (fun _ _ => trivial) s d attempt).codes

@[simp] theorem codes_evalAlone (i : Nat) : ruleCodes (s.evalAlone i).telltale.rules = ruleCodes s.telltale.rules := by
  unfold State.evalAlone
  rw [codes_send]
  exact (ripple_evalRule (fun _ => True) s i (fun _ => True) (fun _ _ => trivial) (fun _ _ => trivial)).codes

@[simp] theorem codes_reportFault (c : Nat) : ruleCodes (s.reportFault c).telltale.rules = ruleCodes s.telltale.rules := by
  simp [State.reportFault]

@[simp] theorem codes_calWritten : ruleCodes s.calWritten.telltale.rules = ruleCodes s.telltale.rules := by
  unfold State.calWritten
  split <;> simp

/-! ### The changes of power state (R188 to R191) -/

@[simp] theorem codes_runEntry : ruleCodes s.runEntry.telltale.rules = ruleCodes s.telltale.rules :=
  (ripple_runEntry (fun _ => True) s trivial trivial).codes

/-- SLEEP entry clears the marks and timers of the rules, which keep their parts (R88). -/
@[simp] theorem codes_sleepEntry : ruleCodes s.sleepEntry.telltale.rules = ruleCodes s.telltale.rules := by
  have cut (x : State) : x.cutSave.telltale = x.telltale := by
    unfold State.cutSave
    split <;> rfl
  have blocks (x : State) : ruleCodes x.sleepBlocks.telltale.rules = ruleCodes x.telltale.rules :=
    ruleCodes_map _ fun _ => rfl
  unfold State.sleepEntry
  simp only [State.compareIgn_telltale, codes_settleLamps, blocks, cut]

@[simp] theorem codes_parkingEntry : ruleCodes s.parkingEntry.telltale.rules = ruleCodes s.telltale.rules := by
  obtain ⟨p, q, he, R, hp⟩ := parkingEntry_spec s
  obtain ⟨-, -, -, -, -, -, -, -, -, -, -, -, -, -, -, -, hrules, -⟩ := hp
  rw [he, State.compareIgn_telltale, R.codes, hrules]
  exact ruleCodes_map _ code_park

@[simp] theorem codes_resumeRules : ruleCodes s.resumeRules.telltale.rules = ruleCodes s.telltale.rules := by
  obtain ⟨rules, he, each⟩ := resumeRules_form s
  rw [he, codes_send]
  funext i
  by_cases hi : i < 64
  · have e : (rules.get i Rule.blank).code = (resumed s i).1.code := congrArg Rule.code (each i hi)
    refine e.trans ?_
    unfold resumed
    split
    · rfl
    · exact code_resume _ _ _ _
  · unfold ruleCodes
    rw [Bank.get_outside _ _ _ (Nat.le_of_not_lt hi), Bank.get_outside _ _ _ (Nat.le_of_not_lt hi)]

@[simp] theorem codes_returnToRun : ruleCodes s.returnToRun.telltale.rules = ruleCodes s.telltale.rules := by
  obtain ⟨x, he, -, -, -, -, -, htelltale, -⟩ := returnToRun_form s
  rw [he, ← htelltale]
  simp

@[simp] theorem codes_judgeRun : ruleCodes s.judgeRun.telltale.rules = ruleCodes s.telltale.rules := by
  unfold State.judgeRun
  split
  · exact codes_runEntry s
  · rfl

@[simp] theorem codes_judgeSleep : ruleCodes s.judgeSleep.telltale.rules = ruleCodes s.telltale.rules := by
  unfold State.judgeSleep
  split
  · exact codes_sleepEntry s
  · rfl

@[simp] theorem codes_moveChannel (c : Nat) (ch : Channel) :
    ruleCodes (s.moveChannel c ch).telltale.rules = ruleCodes s.telltale.rules := by
  obtain ⟨reports, hn⟩ := noteChannel_only (s.putChannel c ch) s.gauges c
  unfold State.moveChannel
  simp only [hn]
  split
  · rfl
  · rw [codes_judgeSleep, codes_judgeRun]
    rfl

end

/-! ### WAKING entry (R87, R183, R188) -/

/-- The stored rules of the configuration loaded hold different codes (R183). -/
theorem loadedConfig_codes (contents : StoreContents ConfigImage) :
    ((loadedConfig contents).rules.filterMap (fun r => r.d.code)).Nodup := by
  unfold loadedConfig goodConfig
  split
  · exact List.nodup_nil
  · exact List.nodup_nil
  · next image =>
    split
    · next h =>
      simp only [ConfigImage.passes, Bool.and_eq_true] at h
      obtain ⟨⟨-, hcodes⟩, -⟩ := h
      exact noneTwice_nodup hcodes
    · exact List.nodup_nil

theorem eq_of_nodup_filterMap {α β : Type} {f : α → Option β} {l : List α} (h : (l.filterMap f).Nodup) {a b : α}
    (ha : a ∈ l) (hb : b ∈ l) {c : β} (ea : f a = some c) (eb : f b = some c) : a = b := by
  have apart := List.pairwise_filterMap.mp h
  have symm : Std.Symm fun x y => ∀ p, f x = some p → ∀ q, f y = some q → p ≠ q :=
    ⟨fun _ _ hxy p hp q hq => (hxy q hq p hp).symm⟩
  by_contra hne
  exact apart.forall ha hb hne c ea c eb rfl

/-- A rule that holds a code after a load is a stored rule with that code. -/
theorem wokenBlocks_code {s : State} {i code : Nat} (h : ruleCodes s.wokenBlocks.telltale.rules i = some code) :
    ∃ q ∈ (loadedConfig s.store.config).rules, q.index = i ∧ q.d.code = some code := by
  have h : (s.wokenBlocks.rule i).code = some code := h
  by_cases hq : ∀ q ∈ (loadedConfig s.store.config).rules, q.index ≠ i
  · rw [wokenBlocks_rule_free s i hq] at h
    cases h
  · simp only [not_forall, not_not] at hq
    obtain ⟨q, hmem, rfl⟩ := hq
    rw [wokenBlocks_rule_loaded s q hmem] at h
    exact ⟨q, hmem, rfl, h⟩

/-- WAKING entry loads rules of different codes. -/
theorem rulesApart_wakingEntry (s : State) : RulesApart s.wakingEntry := by
  have woken : RulesApart s.wokenBlocks := by
    refine ⟨fun i j code _ _ hi hj => ?_⟩
    obtain ⟨p, hp, rfl, hpc⟩ := wokenBlocks_code hi
    obtain ⟨q, hq, rfl, hqc⟩ := wokenBlocks_code hj
    rw [eq_of_nodup_filterMap (loadedConfig_codes s.store.config) hp hq hpc hqc]
  obtain ⟨R, -⟩ := wakingEntry_settled s
  exact woken.same R.codes

end Sys2Proof.Machine
end

section
/-! The alert codes of the rules through the operations that the commands come to (R69). -/

namespace Sys2Proof.Machine

section
variable (s : State)

@[simp] theorem codes_reportValid : ruleCodes s.reportValid.telltale.rules = ruleCodes s.telltale.rules := by
  unfold State.reportValid
  split <;> simp

@[simp] theorem codes_writeOther (n : Nat) (v : Int) :
    ruleCodes (s.writeOther n v).telltale.rules = ruleCodes s.telltale.rules :=
  (ripple_writeOther (fun _ => True) s n v trivial trivial).codes

@[simp] theorem codes_paramChanged (id : Nat) :
    ruleCodes (s.paramChanged id).telltale.rules = ruleCodes s.telltale.rules :=
  (ripple_paramChanged (fun _ => True) (fun _ _ => trivial) s id).codes

@[simp] theorem codes_saveRead (image : ConfigImage) (equal : Bool) :
    ruleCodes (s.saveRead image equal).telltale.rules = ruleCodes s.telltale.rules := by
  unfold State.saveRead
  cases equal <;> simp

@[simp] theorem codes_hearFrame (p : Port) : ruleCodes (s.hearFrame p).telltale.rules = ruleCodes s.telltale.rules := by
  have e : ruleCodes (s.hearFrame p).telltale.rules = ruleCodes (s.setPort p (heard s p)).telltale.rules :=
    (hear_ripple s p).codes
  rw [e, State.setPort_telltale]

@[simp] theorem codes_sortFrame (p : Port) (f : BusFrame) :
    ruleCodes (s.sortFrame p f).telltale.rules = ruleCodes s.telltale.rules := by
  unfold State.sortFrame State.intakeOffer
  split
  · split <;> simp
  · simp

@[simp] theorem codes_countTxError (p : Port) :
    ruleCodes (s.countTxError p).telltale.rules = ruleCodes s.telltale.rules := by
  unfold State.countTxError
  simp only []
  split <;> simp

@[simp] theorem codes_fallSilent (p : Port) : ruleCodes (s.fallSilent p).telltale.rules = ruleCodes s.telltale.rules := by
  unfold State.fallSilent
  simp only []
  split <;> simp

@[simp] theorem codes_countSecond : ruleCodes s.countSecond.telltale.rules = ruleCodes s.telltale.rules := by
  simp [State.countSecond]

@[simp] theorem codes_routeFrame (route : Route) (r : FrameRecord) :
    ruleCodes (s.routeFrame route r).telltale.rules = ruleCodes s.telltale.rules := by
  unfold State.routeFrame
  simp only []
  split
  · exact (extract_ripple route r.data route.extractors _).codes
  · rfl

@[simp] theorem codes_deleteRoute (e : RouteEntry) :
    ruleCodes (s.deleteRoute e).telltale.rules = ruleCodes s.telltale.rules := (deleteRoute_resets s e).1.codes

@[simp] theorem codes_openBuild (b : Build) : ruleCodes (s.openBuild b).telltale.rules = ruleCodes s.telltale.rules := by
  unfold State.openBuild State.abandonBuild
  split <;> simp

@[simp] theorem codes_expireSlot (n : Nat) : ruleCodes (s.expireSlot n).telltale.rules = ruleCodes s.telltale.rules := by
  unfold State.expireSlot
  rw [codes_changeSlot]

@[simp] theorem codes_checkLamp (n : Nat) (current : Bool) :
    ruleCodes (s.checkLamp n current).telltale.rules = ruleCodes s.telltale.rules := by
  unfold State.checkLamp
  simp only []
  split
  · rw [codes_push, codes_raise]; rfl
  · rw [codes_release]; rfl
  all_goals rfl

/-- A confirmed rule keeps its parts (R76). -/
@[simp] theorem codes_confirmRule (i : Nat) : ruleCodes (s.confirmRule i).telltale.rules = ruleCodes s.telltale.rules := by
  unfold State.confirmRule
  rw [codes_settleLamps, codes_send]
  exact ruleCodes_put_same rfl

@[simp] theorem codes_advancePhase : ruleCodes s.advancePhase.telltale.rules = ruleCodes s.telltale.rules := by
  simp [State.advancePhase]

@[simp] theorem codes_proveOutEnded : ruleCodes s.proveOutEnded.telltale.rules = ruleCodes s.telltale.rules := by
  simp [State.proveOutEnded]

@[simp] theorem codes_ackRecognised : ruleCodes s.ackRecognised.telltale.rules = ruleCodes s.telltale.rules := by
  unfold State.ackRecognised
  simp only []
  split <;> simp

@[simp] theorem codes_ackLevel (pressed : Bool) :
    ruleCodes (s.ackLevel pressed).telltale.rules = ruleCodes s.telltale.rules := by
  unfold State.ackLevel
  split <;> rfl

@[simp] theorem codes_pageLevel (pressed : Bool) :
    ruleCodes (s.pageLevel pressed).telltale.rules = ruleCodes s.telltale.rules := by
  unfold State.pageLevel
  split <;> rfl

@[simp] theorem codes_takeRaw (p : Pin) (high : Bool) :
    ruleCodes (s.takeRaw p high).telltale.rules = ruleCodes s.telltale.rules := by
  unfold State.takeRaw State.filterChange
  repeat' split
  all_goals simp

@[simp] theorem codes_acceptEdge (p : Pin) : ruleCodes (s.acceptEdge p).telltale.rules = ruleCodes s.telltale.rules := by
  unfold State.acceptEdge
  cases p
  · simp only []
    split
    · rw [(pulse_travel _).codes]; simp
    · simp
  · rw [(spbEdge_travel _).codes]; simp

@[simp] theorem codes_zeroExpired : ruleCodes s.zeroExpired.telltale.rules = ruleCodes s.telltale.rules := by
  unfold State.zeroExpired
  simp only []
  split <;> simp

@[simp] theorem codes_watchExpired : ruleCodes s.watchExpired.telltale.rules = ruleCodes s.telltale.rules := by
  simp [State.watchExpired]

@[simp] theorem codes_minutePassed : ruleCodes s.minutePassed.telltale.rules = ruleCodes s.telltale.rules := by
  simp [State.minutePassed]

@[simp] theorem codes_changeK (k : Nat) : ruleCodes (s.changeK k).telltale.rules = ruleCodes s.telltale.rules := by
  simp [State.changeK]

@[simp] theorem codes_sealNow : ruleCodes s.sealNow.telltale.rules = ruleCodes s.telltale.rules := by
  simp [State.sealNow]

@[simp] theorem codes_setOdometer (metres : Nat) :
    ruleCodes (s.setOdometer metres).telltale.rules = ruleCodes s.telltale.rules := by
  simp [State.setOdometer, State.showOdometer]

@[simp] theorem codes_longPress : ruleCodes s.longPress.telltale.rules = ruleCodes s.telltale.rules := by
  unfold State.longPress
  simp only []
  split <;> simp

@[simp] theorem codes_turnPage : ruleCodes s.turnPage.telltale.rules = ruleCodes s.telltale.rules := by
  simp [State.turnPage]

@[simp] theorem codes_startRecord : ruleCodes s.startRecord.telltale.rules = ruleCodes s.telltale.rules := by
  unfold State.startRecord
  split
  · split <;> rfl
  · rfl

@[simp] theorem codes_readyUp : ruleCodes s.readyUp.telltale.rules = ruleCodes s.telltale.rules := by
  unfold State.readyUp
  simp only []
  split <;> rfl

@[simp] theorem codes_retry : ruleCodes s.retry.telltale.rules = ruleCodes s.telltale.rules := by
  unfold State.retry
  split <;> rfl

theorem codes_failChannel (c : Nat) (cause : CoilFault) :
    ruleCodes (s.failChannel c cause).telltale.rules = ruleCodes s.telltale.rules := by
  unfold State.failChannel
  simp only [codes_judgeSleep, codes_judgeRun, codes_reportFault]
  rfl

end

/-! ### RULE_A to RULE_D, RULE_ENABLE and RULE_CLEAR (R68 to R71) -/

/-- A part other than part D written (R68). -/
theorem codes_putRule_edited (s : State) (i : Nat) {f : Rule → Rule} (hf : ∀ q, (f q).d = q.d) :
    ruleCodes (s.putRule i (f (s.rule i).opened).edited).telltale.rules = ruleCodes s.telltale.rules :=
  ruleCodes_put_same (code_edited (hf _))

/-- An EDITING rule enabled (R70). -/
theorem codes_enableRule {s : State} {i : Nat} (h : (s.rule i).life = .editing) :
    ruleCodes (s.enableRule i).telltale.rules = ruleCodes s.telltale.rules := by
  unfold State.enableRule
  rw [codes_settleLamps, codes_evalAlone]
  exact ruleCodes_put_same (code_enabled h)

/-- A rule cleared holds no code (R71). -/
theorem RulesApart.clearRule {s : State} {i : Nat} (hs : RulesApart s) (hi : i < 64) : RulesApart (s.clearRule i) := by
  have cleared : RulesApart (s.putRule i Rule.blank) := ⟨codesApart_put hs.apart hi fun _ _ _ _ h => by cases h⟩
  refine cleared.same ?_
  unfold State.clearRule
  rw [codes_settleLamps, codes_send]

/-- A code not taken is held by no other rule (R69). -/
theorem heldCode_of_not_taken {s : State} {i j code : Nat} (h : s.codeTaken i (some code) = false) (hj : j < 64) (hji : j ≠ i) :
    s.heldCode j ≠ some code := by
  intro e
  have taken : s.codeTaken i (some code) = true := by
    unfold State.codeTaken
    rw [Option.isSome_some, Bool.true_and, List.any_eq_true]
    refine ⟨j, List.mem_range.mpr hj, ?_⟩
    rw [decide_eq_true hji, decide_eq_true e, Bool.and_self]
  rw [taken] at h
  cases h

/-- Part D with a code that no other rule holds (R69). -/
theorem RulesApart.putD {s : State} {i : Nat} {d : RulePartD} {q : Rule} (hs : RulesApart s) (hi : i < 64)
    (hd : s.codeTaken i d.code = false) : RulesApart (s.putRule i ({ q with d := some d } : Rule).edited) := by
  refine ⟨codesApart_put hs.apart hi fun j code hj hji hcode => ?_⟩
  have hcode : d.code = some code := hcode
  rw [hcode] at hd
  exact heldCode_of_not_taken hd hj hji

end Sys2Proof.Machine
end

section
/-! The alert codes of the rules through every command and every step (R69, R183): O11. -/

namespace Sys2Proof.Machine

theorem accepts_effect (f : State → State) : (accepts f).effect = f := rfl

namespace RulesApart

variable {s t : State}

/-! ### What a classifier path, a request and an expiry keep -/

theorem path {path : State → FrameRecord → Bool} {f : FrameRecord → State → State} (ht : takeHead path f s = .next t)
    (hf : ∀ r u, ruleCodes (f r u).telltale.rules = ruleCodes u.telltale.rules) (hs : RulesApart s) : RulesApart t := by
  rcases takeHead_cases ht with rfl | ⟨r, rest, -, -, rfl⟩
  · exact hs
  · exact hs.same (hf r _)

theorem timer {timer : Timer} {f : State → State} (ht : onExpiry timer f s = .next t)
    (hf : ∀ u, ruleCodes (f u).telltale.rules = ruleCodes u.telltale.rules) (hs : RulesApart s) : RulesApart t := by
  rcases onExpiry_cases ht with rfl | ⟨due, -, rfl⟩
  · exact hs
  · exact hs.same (hf _)

/-- A request takes effect on the state on which it was judged, once its response has been offered. -/
theorem requestOffered {code : Nat} {judge : FrameRecord → State → Verdict} (ht : onRequest code judge s = .next t)
    (hj : ∀ r u f, RulesApart u → RulesApart ((judge r u).effect (u.offer f))) (hs : RulesApart s) : RulesApart t := by
  rcases takeHead_cases ht with rfl | ⟨r, rest, -, -, rfl⟩
  · exact hs
  · exact hj r _ _ (hs.same rfl)

theorem request {code : Nat} {judge : FrameRecord → State → Verdict} (ht : onRequest code judge s = .next t)
    (hj : ∀ r u, (judge r u).Keeps RulesApart u) (hs : RulesApart s) : RulesApart t :=
  requestOffered ht (fun r u f hu => hj r u _ (quiet_offer u f) (hu.same (by rw [State.offer_telltale]))) hs

/-- A verdict whose effect leaves the records. -/
theorem keeps {v : Verdict} {u : State} (h : ∀ x, ruleCodes (v.effect x).telltale.rules = ruleCodes x.telltale.rules) :
    v.Keeps RulesApart u := fun x _ hx => hx.same (h x)

theorem accepts {f : State → State} {u : State} (h : ∀ x, ruleCodes (f x).telltale.rules = ruleCodes x.telltale.rules) :
    (Machine.accepts f).Keeps RulesApart u := keeps h

theorem read {code : Nat} {judge : FrameRecord → State → Verdict} (ht : onRequest code judge s = .next t)
    (hj : ∀ r u, (judge r u).Reads) (hs : RulesApart s) : RulesApart t := by
  refine request ht (fun r u => keeps fun x => ?_) hs
  rcases hj r u with e | e <;> rw [e] <;> rfl

/-! ### The supply and the controller -/

theorem poweredOn (s : State) : RulesApart s.poweredOn := ((codesOk_iff _).mp codesOk_reset).same rfl

theorem start (s : State) : RulesApart s.start := by
  unfold State.start State.sampleIgn
  split
  · exact rulesApart_wakingEntry _
  · exact poweredOn s

theorem powerOn (ht : execPowerOn s = .next t) (hs : RulesApart s) : RulesApart t := by
  cases ht
  split
  · exact hs
  · exact start s

theorem supplyLoss (ht : execSupplyLoss s = .next t) (hs : RulesApart s) : RulesApart t := by
  cases ht
  split
  · exact (poweredOn s).same rfl
  · exact hs

theorem ignChange {high : Bool} (ht : execIgnChange high s = .next t) (hs : RulesApart s) : RulesApart t := by
  cases ht
  refine hs.same ?_
  split
  · rfl
  · split <;> rfl

theorem takeIgnLevel (hs : RulesApart s) : RulesApart s.takeIgnLevel := by
  have hl : RulesApart { s with ign.level := s.pins.ign, ign.timer := none } := hs.same rfl
  unfold State.takeIgnLevel
  simp only []
  split
  · exact rulesApart_wakingEntry _
  · exact hl.same (codes_parkingEntry _)
  · exact hl.same (codes_parkingEntry _)
  · exact hl.same (codes_returnToRun _)
  · exact hl

theorem ignTimerExpiry (ht : execIgnTimerExpiry s = .next t) (hs : RulesApart s) : RulesApart t := by
  rcases onExpiry_cases ht with rfl | ⟨due, -, rfl⟩
  · exact hs
  · exact takeIgnLevel (hs.same rfl)

theorem restartExecute (ht : execRestartExecute s = .next t) (hs : RulesApart s) : RulesApart t := by
  unfold execRestartExecute at ht
  split at ht
  · cases ht; exact hs
  · split at ht <;> cases ht
    · exact start _
    · exact hs

/-! ### Requests -/

theorem setNoticeMask (ht : execSetNoticeMask s = .next t) (hs : RulesApart s) : RulesApart t :=
  request ht (fun _ u => keeps_ite (fun _ => keeps fun _ => rfl) fun _ => keeps_refuse _ u _) hs

theorem setParam (ht : execSetParam s = .next t) (hs : RulesApart s) : RulesApart t :=
  request ht (fun _ _ => keeps_unlessSaving (keeps_check fun _ => keeps_check fun _ => keeps_check fun _ =>
    keeps fun x => codes_paramChanged (x.setHeld _ _) _)) hs

theorem routeOpen (ht : execRouteOpen s = .next t) (hs : RulesApart s) : RulesApart t :=
  request ht (fun _ _ => keeps_unlessSaving (keeps_check fun _ => keeps_check fun _ => keeps_check fun _ =>
    keeps_check fun _ => keeps fun x => codes_openBuild x _)) hs

theorem acceptPart (u : State) (b : Build) : (acceptPart b).Keeps RulesApart u := by
  unfold Machine.acceptPart
  split <;> exact keeps fun _ => rfl

theorem extA (ht : execExtA s = .next t) (hs : RulesApart s) : RulesApart t := by
  refine request ht (fun r u => keeps_unlessSaving ?_) hs
  split
  · exact keeps_refuse _ u _
  · exact keeps_check fun _ => keeps_check fun _ => keeps_check fun _ => acceptPart u _

theorem extB (ht : execExtB s = .next t) (hs : RulesApart s) : RulesApart t := by
  refine request ht (fun r u => keeps_unlessSaving ?_) hs
  split
  · exact keeps_refuse _ u _
  · exact keeps_check fun _ => keeps_check fun _ => acceptPart u _

theorem extC (ht : execExtC s = .next t) (hs : RulesApart s) : RulesApart t := by
  refine request ht (fun r u => keeps_unlessSaving ?_) hs
  split
  · exact keeps_refuse _ u _
  · exact keeps_check fun _ => acceptPart u _

theorem routeDelete (ht : execRouteDelete s = .next t) (hs : RulesApart s) : RulesApart t := by
  refine request ht (fun r u => keeps_unlessSaving (keeps_check fun _ => ?_)) hs
  split
  · exact keeps fun x => codes_deleteRoute x _
  · exact keeps_ite (fun _ => keeps fun _ => rfl) fun _ => keeps_refuse _ u _

theorem gaugeField (ht : execGaugeField s = .next t) (hs : RulesApart s) : RulesApart t :=
  request ht (fun _ _ => keeps_check fun _ => keeps_check fun _ => keeps fun _ => rfl) hs

theorem gaugeCommit (ht : execGaugeCommit s = .next t) (hs : RulesApart s) : RulesApart t :=
  request ht (fun _ _ => keeps_unlessSaving (keeps_check fun _ => keeps_check fun _ => keeps_check fun _ =>
    keeps_check fun _ => keeps fun x => codes_moveChannel x _ _)) hs

/-- A part other than part D written leaves every code (R68). -/
theorem writePart (u : State) (i : Nat) {f : Rule → Rule} (hf : ∀ q, (f q).d = q.d) : (writePart i f).Keeps RulesApart u :=
  accepts fun x => codes_putRule_edited x i hf

theorem ruleA (ht : execRuleA s = .next t) (hs : RulesApart s) : RulesApart t := by
  refine request ht (fun r u => keeps_editable ?_) hs
  split
  · exact writePart u _ fun _ => rfl
  · exact keeps_refuse _ u _

theorem ruleC (ht : execRuleC s = .next t) (hs : RulesApart s) : RulesApart t := by
  refine request ht (fun r u => keeps_editable ?_) hs
  split
  · exact writePart u _ fun _ => rfl
  · exact keeps_refuse _ u _

/-- RULE_D gives a rule a code that no other rule holds (R69). -/
theorem ruleD (ht : execRuleD s = .next t) (hs : RulesApart s) : RulesApart t := by
  refine requestOffered ht (fun r u f hu => ?_) hs
  have ho : RulesApart (u.offer f) := hu.same (by rw [State.offer_telltale])
  have held (j : Nat) : (u.offer f).heldCode j = u.heldCode j := by rw [heldCode_eq, heldCode_eq, State.offer_telltale]
  have taken (i : Nat) (code : Option Nat) : (u.offer f).codeTaken i code = u.codeTaken i code := by
    unfold State.codeTaken
    simp only [held]
  unfold judgeRuleD editable
  split
  · exact ho
  split
  · exact ho
  next hi _ =>
  split
  · exact ho
  split
  · exact ho
  next hd =>
  exact ho.putD (by omega) (by rw [taken]; simpa using hd)

/-- RULE_ENABLE takes a rule in EDITING (R70). -/
theorem ruleEnable (ht : execRuleEnable s = .next t) (hs : RulesApart s) : RulesApart t := by
  refine requestOffered ht (fun r u f hu => ?_) hs
  have ho : RulesApart (u.offer f) := hu.same (by rw [State.offer_telltale])
  have same : (u.offer f).rule (r.byte 2) = u.rule (r.byte 2) := by
    unfold State.rule
    rw [State.offer_telltale]
  unfold judgeRuleEnable unlessSaving
  split
  · exact ho
  split
  · exact ho
  split
  · exact ho
  next hl =>
  have hl : ((u.offer f).rule (r.byte 2)).life = .editing := by rw [same]; exact not_not.mp hl
  split
  · exact ho
  · rw [accepts_effect]
    exact ho.same (codes_enableRule hl)

theorem ruleClear (ht : execRuleClear s = .next t) (hs : RulesApart s) : RulesApart t := by
  refine request ht (fun r u => keeps_unlessSaving (keeps_check fun hi x _ hx => ?_)) hs
  have hi : r.byte 2 < 64 := by omega
  rw [accepts_effect]
  exact hx.clearRule hi

theorem alertAck (ht : execAlertAck s = .next t) (hs : RulesApart s) : RulesApart t := by
  refine request ht (fun _ u => keeps_ite (fun _ => ?_) fun _ => keeps_refuse _ u _) hs
  unfold AckResult.verdict
  split <;> exact keeps codes_acknowledge

theorem setKfactor (ht : execSetKfactor s = .next t) (hs : RulesApart s) : RulesApart t := by
  refine request ht (fun r u => ?_) hs
  unfold judgeSetKfactor
  exact keeps_check fun _ => keeps_check fun _ => keeps_check fun _ => keeps fun x => codes_changeK x (r.word 2)

theorem setOdometer (ht : execSetOdometer s = .next t) (hs : RulesApart s) : RulesApart t := by
  refine request ht (fun r u => ?_) hs
  unfold judgeSetOdometer
  exact keeps_check fun _ => keeps fun x => codes_setOdometer x (r.long 2)

theorem sealOdometer (ht : execSealOdometer s = .next t) (hs : RulesApart s) : RulesApart t :=
  request ht (fun _ _ => keeps_check fun _ => keeps codes_sealNow) hs

theorem cardRead (ht : execCardRead s = .next t) (hs : RulesApart s) : RulesApart t := by
  refine request ht (fun r u => ?_) hs
  unfold judgeCardRead
  split
  · exact keeps_refuse _ u _
  · exact keeps_check fun _ => keeps_check fun _ => keeps fun x => codes_enqueue x _ 1

/-! ### The other commands with a case of their own -/

theorem configSaveEnd {equal : Bool} (ht : execConfigSaveEnd equal s = .next t) (hs : RulesApart s) : RulesApart t := by
  unfold execConfigSaveEnd at ht
  split at ht <;> cases ht
  · exact hs
  · exact hs.same (by simp)

/-- A command that does its work where a condition holds. -/
theorem guarded {c : Prop} [Decidable c] {u v : State} (hs : RulesApart s)
    (hu : ruleCodes u.telltale.rules = ruleCodes s.telltale.rules) (hv : ruleCodes v.telltale.rules = ruleCodes s.telltale.rules) :
    RulesApart (if c then u else v) := by
  split
  · exact hs.same hu
  · exact hs.same hv

theorem routedFrame (ht : execRoutedFrame s = .next t) (hs : RulesApart s) : RulesApart t := by
  refine path ht (fun r u => ?_) hs
  split
  · exact codes_routeFrame u _ r
  · rfl

theorem xferOpen (ht : execXferOpen s = .next t) (hs : RulesApart s) : RulesApart t := by
  refine path ht (fun r u => ?_) hs
  split
  · exact (ripple_takeOpen onlyTacho (fun _ h => h) u _ _).codes
  · rfl

theorem xferData (ht : execXferData s = .next t) (hs : RulesApart s) : RulesApart t := by
  refine path ht (fun r u => ?_) hs
  split
  · exact (ripple_takeData onlyTacho (fun _ h => h) u _ _).codes
  · rfl

theorem xferClose (ht : execXferClose s = .next t) (hs : RulesApart s) : RulesApart t := by
  refine path ht (fun r u => ?_) hs
  split
  · exact (ripple_takeClose onlyTacho (fun _ h => h) u _).codes
  · rfl

theorem calWriteComplete (ht : execCalWriteComplete s = .next t) (hs : RulesApart s) : RulesApart t :=
  timer ht (fun u => by rw [codes_judgeSleep, codes_calWritten]) hs

theorem xferStray (ht : execXferStray s = .next t) (hs : RulesApart s) : RulesApart t := path ht (fun _ _ => rfl) hs

theorem unroutedFrame (ht : execUnroutedFrame s = .next t) (hs : RulesApart s) : RulesApart t :=
  path ht (fun _ u => by rw [State.setPort_telltale]) hs

theorem foreignMgmt (ht : execForeignMgmt s = .next t) (hs : RulesApart s) : RulesApart t := path ht (fun _ _ => rfl) hs

theorem badRequest (ht : execBadRequest s = .next t) (hs : RulesApart s) : RulesApart t :=
  path ht (fun _ u => congrArg (fun b => ruleCodes b.rules) (State.offer_telltale u _)) hs

theorem busOffRecovery {p : Port} (ht : execBusOffRecoveryExpiry p s = .next t) (hs : RulesApart s) : RulesApart t :=
  timer ht (fun u => by rw [State.setPort_telltale]) hs

theorem silence {p : Port} (ht : execSilenceTimerExpiry p s = .next t) (hs : RulesApart s) : RulesApart t :=
  timer ht (fun u => codes_fallSilent u p) hs

theorem slotExpiry {n : Nat} (ht : execSlotExpiry n s = .next t) (hs : RulesApart s) : RulesApart t :=
  timer ht (fun u => codes_expireSlot u n) hs

theorem stepEvent {c : Nat} (ht : execStepEvent c s = .next t) (hs : RulesApart s) : RulesApart t :=
  timer ht (fun u => codes_moveChannel u c _) hs

theorem homingStep {c : Nat} (ht : execHomingStep c s = .next t) (hs : RulesApart s) : RulesApart t :=
  timer ht (fun u => codes_moveChannel u c _) hs

theorem restDelay {c : Nat} (ht : execRestDelayExpiry c s = .next t) (hs : RulesApart s) : RulesApart t :=
  timer ht (fun _ => rfl) hs

theorem confirmTimer {i : Nat} (ht : execConfirmTimerExpiry i s = .next t) (hs : RulesApart s) : RulesApart t :=
  timer ht (fun u => codes_confirmRule u i) hs

theorem filterStability {p : Pin} (ht : execFilterStabilityExpiry p s = .next t) (hs : RulesApart s) : RulesApart t :=
  timer ht (fun u => codes_acceptEdge u p) hs

/-! ### Every command and every step -/

theorem exec {c : Instr} (ht : Machine.exec c s = .next t) (hs : RulesApart s) : RulesApart t := by
  cases c with
  | powerOn => exact powerOn ht hs
  | supplyLoss => exact supplyLoss ht hs
  | ignChange => exact ignChange ht hs
  | ignTimerExpiry => exact ignTimerExpiry ht hs
  | parkingTimerExpiry => exact timer ht codes_sleepEntry hs
  | secondTimerExpiry => exact timer ht codes_countSecond hs
  | validFrameReceived p f => cases ht; exact hs.guarded (by simp) rfl
  | rxErrorDetected => cases ht; exact hs.guarded (by simp) rfl
  | txErrorDetected => cases ht; exact hs.guarded (by simp) rfl
  | busOffRecoveryExpiry => exact busOffRecovery ht hs
  | silenceTimerExpiry => exact silence ht hs
  | txFrameComplete => cases ht; exact hs.guarded rfl rfl
  | routedFrame => exact routedFrame ht hs
  | unroutedFrame => exact unroutedFrame ht hs
  | foreignMgmt => exact foreignMgmt ht hs
  | badRequest => exact badRequest ht hs
  | readEvents => exact request ht (fun _ _ => keeps fun _ => rfl) hs
  | setNoticeMask => exact setNoticeMask ht hs
  | readCounters => exact read ht reads_readCounters hs
  | setParam => exact setParam ht hs
  | getParam => exact read ht reads_getParam hs
  | restart => exact request ht (fun _ _ => keeps_unlessSaving (keeps fun _ => rfl)) hs
  | restartExecute => exact restartExecute ht hs
  | configSave => exact request ht (fun _ _ => keeps_unlessSaving (keeps fun _ => rfl)) hs
  | configSaveEnd => exact configSaveEnd ht hs
  | configErase => exact request ht (fun _ _ => keeps_unlessSaving (keeps fun _ => rfl)) hs
  | routeOpen => exact routeOpen ht hs
  | extA => exact extA ht hs
  | extB => exact extB ht hs
  | extC => exact extC ht hs
  | routeDelete => exact routeDelete ht hs
  | routeRead => exact read ht reads_routeRead hs
  | slotExpiry => exact slotExpiry ht hs
  | readSlot => exact read ht reads_readSlot hs
  | gaugeField => exact gaugeField ht hs
  | gaugeCommit => exact gaugeCommit ht hs
  | gaugeRead => exact read ht reads_gaugeRead hs
  | stepEvent => exact stepEvent ht hs
  | homingStep => exact homingStep ht hs
  | restDelayExpiry => exact restDelay ht hs
  | coilFaultReport c cause => cases ht; exact hs.guarded (codes_failChannel s c cause) rfl
  | ruleA => exact ruleA ht hs
  | ruleB => exact request ht (fun _ u => keeps_editable (writePart u _ fun _ => rfl)) hs
  | ruleC => exact ruleC ht hs
  | ruleD => exact ruleD ht hs
  | ruleEnable => exact ruleEnable ht hs
  | ruleClear => exact ruleClear ht hs
  | ruleRead => exact read ht reads_ruleRead hs
  | lampRead => exact read ht reads_lampRead hs
  | confirmTimerExpiry => exact confirmTimer ht hs
  | phaseEvent => exact timer ht codes_advancePhase hs
  | proveOutEnd => exact timer ht codes_proveOutEnded hs
  | lampTurnOnCheck n current => cases ht; exact hs.guarded (codes_checkLamp s n current) rfl
  | ackPress => exact timer ht codes_ackRecognised hs
  | alertAck => exact alertAck ht hs
  | alertRead => exact read ht reads_alertRead hs
  | chimeIntervalEnd => exact timer ht (fun u => (ripple_chimeNext onlyTacho u).codes) hs
  | toneCounterExpiry => exact timer ht (fun _ => rfl) hs
  | pinRawChange p high => cases ht; exact hs.guarded rfl (codes_takeRaw s p high)
  | filterStabilityExpiry => exact filterStability ht hs
  | zeroTimerExpiry => exact timer ht codes_zeroExpired hs
  | setKfactor => exact setKfactor ht hs
  | setOdometer => exact setOdometer ht hs
  | sealOdometer => exact sealOdometer ht hs
  | readCalHistory => exact read ht reads_readCalHistory hs
  | distanceRead => exact read ht reads_distanceRead hs
  | calWriteComplete => exact calWriteComplete ht hs
  | minuteTimerExpiry => exact timer ht codes_minutePassed hs
  | cardRead => exact cardRead ht hs
  | xferOpen => exact xferOpen ht hs
  | xferData => exact xferData ht hs
  | xferClose => exact xferClose ht hs
  | xferAbort => exact path ht (fun _ u => (ripple_takeAbort onlyTacho (fun _ h => h) u).codes) hs
  | xferStray => exact xferStray ht hs
  | transferTimerExpiry => exact timer ht (fun u => (ripple_transferTimeout onlyTacho (fun _ h => h) u).codes) hs
  | tachoRead => exact read ht reads_tachoRead hs
  | mismatchTimerExpiry =>
    exact timer ht (fun u => (ripple_confirmSide (fun _ => True) (fun _ _ => trivial) u trivial).codes) hs
  | silenceWatchExpiry => exact timer ht codes_watchExpired hs
  | readyRise => cases ht; exact hs.same (codes_readyUp s)
  | readyTimerExpiry => exact timer ht (fun _ => rfl) hs
  | retryTimerExpiry => exact timer ht codes_retry hs
  | displayTransferStart => exact timer ht codes_startRecord hs
  | displayTransferComplete => exact timer ht (fun _ => rfl) hs
  | pageShortPress => exact timer ht codes_turnPage hs
  | pageLongPress => exact timer ht codes_longPress hs
  | displayRead => exact read ht reads_displayRead hs
  | readyFall => cases ht; exact hs.same rfl
  | ackInputChange pressed => cases ht; exact hs.guarded rfl (codes_ackLevel s pressed)
  | pageInputChange pressed => cases ht; exact hs.guarded rfl (codes_pageLevel s pressed)

/-- A step on an empty queue sends what is on its way, runs what is due, or lets a microsecond pass. -/
theorem idle (ht : Machine.idle s = .next t) (hs : RulesApart s) : RulesApart t := by
  unfold Machine.idle at ht
  split at ht
  · cases ht; exact hs.same (codes_send s [])
  · split at ht
    · exact exec ht hs
    · split at ht <;> cases ht
      · exact hs
      · exact hs.same rfl

theorem step (ht : Machine.step s = .next t) (hs : RulesApart s) : RulesApart t := by
  unfold Machine.step at ht
  split at ht
  · exact exec ht (hs.same rfl)
  · exact idle ht hs

end RulesApart

/-- Settles O11: RULE_D alone gives a rule another code, one that no other rule holds, and a
load installs rules of different codes. -/
theorem codesKept : Obligations.CodesKept := fun s t hs ht =>
  (codesOk_iff t).mpr (((codesOk_iff s).mp hs).step ht)

end Sys2Proof.Machine
end

section
/-! The condition of a rule, RULE_READ and LAMP_READ (R72 to R74, R85): O44, O42 and O43. -/

namespace Sys2Proof.Machine

/-! ### The condition (R73, R74) -/

/-- Two words share a bit that is set. -/
theorem and_ne_zero_iff {w : Nat} (x y : BitVec w) : x &&& y ≠ 0#w ↔ ∃ i, x.getLsbD i = true ∧ y.getLsbD i = true := by
  constructor
  · intro h
    by_contra hn
    refine h (BitVec.eq_of_getLsbD_eq fun i _ => ?_)
    rw [BitVec.getLsbD_and, BitVec.getLsbD_zero, ← Bool.not_eq_true, Bool.and_eq_true]
    exact fun hi => hn ⟨i, hi⟩
  · rintro ⟨i, hx, hy⟩ h
    have hi : (x &&& y).getLsbD i = true := by rw [BitVec.getLsbD_and, hx, hy, Bool.and_self]
    rw [h, BitVec.getLsbD_zero] at hi
    cases hi

/-- What each test says of a FRESH value (R73). -/
theorem testCondition_iff (test : RuleTest) (before : Bool) (v t : Int) (h : Nat) :
    testCondition test before v t h = true ↔
      match test with
      | .above => if before = true then t - h < v else t < v
      | .below => if before = true then v < t + h else v < t
      | .equal => v = t
      | .notEqual => v ≠ t
      | .anyBit => ∃ i, (BitVec.ofInt 32 v).getLsbD i = true ∧ (BitVec.ofInt 32 t).getLsbD i = true := by
  unfold testCondition
  cases test
  case above => cases before <;> exact decide_eq_true_iff
  case below => cases before <;> exact decide_eq_true_iff
  case equal => exact decide_eq_true_iff
  case notEqual => exact decide_eq_true_iff
  case anyBit => exact decide_eq_true_iff.trans (and_ne_zero_iff _ _)

section

variable {q : Rule} {a : RulePartA} {t : Int} {c : RulePartC} {k : SlotRecord}

theorem judge_fresh (ha : q.a = some a) (hb : q.b = some t) (hc : q.c = some c) (hk : k.state = .fresh) (before : Bool) :
    q.judge before k = testCondition a.test before k.value t c.hysteresis := by
  simp [Rule.judge, ha, hb, hc, hk]

theorem judge_error (ha : q.a = some a) (hb : q.b = some t) (hc : q.c = some c) (hk : k.state = .error) (before : Bool) :
    q.judge before k = c.errorAction := by
  simp [Rule.judge, ha, hb, hc, hk]

/-- On a slot that is neither FRESH nor in error the stale action gives the condition (R74). -/
theorem judge_stale (ha : q.a = some a) (hb : q.b = some t) (hc : q.c = some c)
    (hk : k.state = .never ∨ k.state = .stale ∨ k.state = .notAvailable) (before : Bool) :
    q.judge before k = (decide (c.staleAction = .toTrue) || (decide (c.staleAction = .keep) && before)) := by
  rcases hk with hk | hk | hk <;> cases hs : c.staleAction <;> simp [Rule.judge, ha, hb, hc, hk, hs]

end

/-- Settles O44: the judgement by the state of the slot, and the test on a FRESH value. -/
theorem ruleCondition : Obligations.RuleCondition := by
  intro q a t c before k ha hb hc
  refine ⟨fun hk => ?_, fun hk => judge_error ha hb hc hk before, fun hk => ?_⟩
  · rw [judge_fresh ha hb hc hk]
    exact testCondition_iff a.test before k.value t c.hysteresis
  · rw [judge_stale ha hb hc hk]
    cases c.staleAction <;> simp

/-! ### RULE_READ (R72) -/

/-- A part read: its data, or 0 in every field of an absent one. -/
theorem partRead_answers {α : Type} {code : Nat} {s : State} {r : FrameRecord} {rest : List FrameRecord}
    (h : Asked code s r rest) {judge : FrameRecord → State → Verdict} {p : Option α} {f : α → List Byte}
    (hv : judge r { s with intake.queue := rest } = partData p f) :
    onRequest code judge s = .next (answered s r rest .ok (p.elim [0, 0, 0, 0] f)) := by
  cases p with
  | none => exact onRequest_answers (d := []) h hv
  | some a => exact onRequest_answers h hv

theorem exec_ruleRead (s : State) : exec .ruleRead s = onRequest 0x2E judgeRuleRead s := rfl

theorem exec_lampRead (s : State) : exec .lampRead s = onRequest 0x2F judgeLampRead s := rfl

/-- Settles O42: RULE_READ by its selector. -/
theorem ruleRead : Obligations.RuleRead := by
  intro s r rest h
  rw [exec_ruleRead]
  by_cases hb : 63 < r.byte 2
  · rw [if_pos (.inl hb)]
    exact onRequest_answers h (by unfold judgeRuleRead; rw [if_pos hb]; rfl)
  have hj : judgeRuleRead r { s with intake.queue := rest } =
      match r.byte 3 with
      | 0 => reads (s.rule (r.byte 2)).stateData
      | 1 => partData (s.rule (r.byte 2)).a RulePartA.data
      | 2 => partData (s.rule (r.byte 2)).b s32
      | 3 => partData (s.rule (r.byte 2)).c RulePartC.data
      | 4 => partData (s.rule (r.byte 2)).d RulePartD.data
      | _ => refuse .badArg := by
    unfold judgeRuleRead
    rw [if_neg hb]
    rfl
  generalize r.byte 3 = selector at hj ⊢
  match selector with
  | 0 => rw [if_neg (by omega)]; exact onRequest_answers h hj
  | 1 =>
    rw [if_neg (by omega), partRead_answers h hj]
    cases (s.rule (r.byte 2)).a <;> rfl
  | 2 =>
    rw [if_neg (by omega), partRead_answers h hj]
    cases (s.rule (r.byte 2)).b <;> rfl
  | 3 =>
    rw [if_neg (by omega), partRead_answers h hj]
    cases (s.rule (r.byte 2)).c <;> rfl
  | 4 =>
    rw [if_neg (by omega), partRead_answers h hj]
    rcases (s.rule (r.byte 2)).d with _ | ⟨_ | ⟨code, severity⟩⟩ <;> rfl
  | n + 5 => rw [if_pos (.inr (by omega))]; exact onRequest_answers h hj

/-! ### LAMP_READ (R85) -/

/-- Settles O43: LAMP_READ by its selector. -/
theorem lampRead : Obligations.LampRead := by
  intro s r rest h
  rw [exec_lampRead]
  have hj : judgeLampRead r { s with intake.queue := rest } =
      match r.byte 3 with
      | 0 =>
        if 31 < r.byte 2 then refuse .badArg
        else
          reads (u8 (shownCode (s.shown (r.byte 2))) ++ u8 ((s.deciding (r.byte 2)).getD 255) ++
            u8 (bit (s.lampLit (r.byte 2))) ++ u8 (bit (s.lamp (r.byte 2)).openMark))
      | 1 => reads (u8 s.telltale.phase ++ u8 (bit s.telltale.proveOut.isSome) ++ u8 (bit s.l0Held) ++ u8 s.telltale.duty)
      | _ => refuse .badArg := rfl
  have shown : shownCode (s.shown (r.byte 2)) =
      match s.shown (r.byte 2) with
      | none => 0
      | some .steady => 1
      | some .slow => 2
      | some .fast => 3 := by
    match s.shown (r.byte 2) with
    | none => rfl
    | some .steady => rfl
    | some .slow => rfl
    | some .fast => rfl
  have decider : (s.deciding (r.byte 2)).getD 255 =
      match s.deciding (r.byte 2) with
      | none => 255
      | some i => i := by
    cases s.deciding (r.byte 2) <;> rfl
  rw [shown, decider] at hj
  generalize r.byte 3 = selector at hj ⊢
  match selector with
  | 0 =>
    by_cases hb : 31 < r.byte 2
    · rw [if_pos (.inr ⟨rfl, hb⟩)]
      exact onRequest_answers h (hj.trans (if_pos hb))
    · rw [if_neg (by omega), if_pos rfl]
      exact onRequest_answers h (hj.trans (if_neg hb))
  | 1 => rw [if_neg (by omega), if_neg (by omega)]; exact onRequest_answers h hj
  | n + 2 => rw [if_pos (.inl (by omega))]; exact onRequest_answers h hj

end Sys2Proof.Machine
end

section
/-! RULE_A to RULE_D (R68, R69): O40. -/

namespace Sys2Proof.Machine

theorem exec_ruleA (s : State) : exec .ruleA s = onRequest 0x28 judgeRuleA s := rfl

theorem exec_ruleB (s : State) : exec .ruleB s = onRequest 0x29 judgeRuleB s := rfl

theorem exec_ruleC (s : State) : exec .ruleC s = onRequest 0x2A judgeRuleC s := rfl

theorem exec_ruleD (s : State) : exec .ruleD s = onRequest 0x2B judgeRuleD s := rfl

/-! ### The codes of the arguments (R68) -/

theorem RuleTest.ofCode_code (t : RuleTest) : RuleTest.ofCode t.code = some t := by cases t <;> rfl

theorem LampPattern.ofCode_code (p : LampPattern) : LampPattern.ofCode p.code = some p := by cases p <;> rfl

theorem StaleAction.ofCode_code (a : StaleAction) : StaleAction.ofCode a.code = some a := by cases a <;> rfl

theorem Severity.ofCode_rank (v : Severity) : Severity.ofCode v.rank = some v := by cases v <;> rfl

theorem RuleTest.code_of_ofCode {n : Nat} {t : RuleTest} (h : RuleTest.ofCode n = some t) : n ≤ 4 := by
  by_contra hn
  obtain ⟨m, rfl⟩ := Nat.exists_eq_add_of_le' (Nat.lt_of_not_le hn)
  cases h

theorem LampPattern.code_of_ofCode {n : Nat} {p : LampPattern} (h : LampPattern.ofCode n = some p) : n ≤ 2 := by
  by_contra hn
  obtain ⟨m, rfl⟩ := Nat.exists_eq_add_of_le' (Nat.lt_of_not_le hn)
  cases h

theorem StaleAction.code_of_ofCode {n : Nat} {a : StaleAction} (h : StaleAction.ofCode n = some a) : n ≤ 2 := by
  by_contra hn
  obtain ⟨m, rfl⟩ := Nat.exists_eq_add_of_le' (Nat.lt_of_not_le hn)
  cases h

theorem Severity.rank_of_ofCode {n : Nat} {v : Severity} (h : Severity.ofCode n = some v) : 1 ≤ n ∧ n ≤ 3 := by
  match n, h with
  | 1, _ => decide
  | 2, _ => decide
  | 3, _ => decide

theorem ruleCode_iff (code : Nat) : ruleCode code = true ↔ 1 ≤ code ∧ code ≤ 0xEFFF := by
  rw [ruleCode, Bool.and_eq_true, decide_eq_true_iff, decide_eq_true_iff]

/-! ### The parts that the arguments give (R68, R69) -/

/-- Part A is given for arguments in their ranges alone. -/
theorem ruleA?_range {r : FrameRecord} {a : RulePartA} (h : ruleA? r = some a) :
    r.byte 3 ≤ 31 ∧ r.byte 4 ≤ 95 ∧ r.byte 5 ≤ 4 ∧ r.byte 6 ≤ 2 ∧ r.byte 7 ≤ 15 := by
  unfold ruleA? at h
  split at h
  · next ht hp =>
    split at h
    · next hr =>
      obtain ⟨h3, h4, h7⟩ := hr
      exact ⟨h3, h4, RuleTest.code_of_ofCode ht, LampPattern.code_of_ofCode hp, h7⟩
    · cases h
  · cases h

theorem ruleA?_some {r : FrameRecord} {test : RuleTest} {pattern : LampPattern} (ht : test.code = r.byte 5)
    (hp : pattern.code = r.byte 6) (hr : r.byte 3 ≤ 31 ∧ r.byte 4 ≤ 95 ∧ r.byte 7 ≤ 15) :
    ruleA? r =
      some { lamp := r.byte 3, slot := r.byte 4, test := test, pattern := pattern, priority := r.byte 7 } := by
  unfold ruleA?
  rw [← ht, ← hp, RuleTest.ofCode_code, LampPattern.ofCode_code]
  exact if_pos hr

/-- Part C is given for arguments in their ranges alone. -/
theorem ruleC?_range {r : FrameRecord} {c : RulePartC} (h : ruleC? r = some c) : r.byte 5 ≤ 2 ∧ r.byte 6 ≤ 1 := by
  unfold ruleC? at h
  split at h
  · next ha =>
    split at h
    · next hr => exact ⟨StaleAction.code_of_ofCode ha, hr⟩
    · cases h
  · cases h

theorem ruleC?_some {r : FrameRecord} {action : StaleAction} (ha : action.code = r.byte 5) (hr : r.byte 6 ≤ 1) :
    ruleC? r =
      some
        { hysteresis := r.word 3, staleAction := action, errorAction := decide (r.byte 6 = 1), confirmTime := r.byte 7 } := by
  unfold ruleC?
  rw [← ha, StaleAction.ofCode_code]
  exact if_pos hr

/-- Part D is given for a code paired with its severity alone (R69). -/
theorem ruleD?_range {r : FrameRecord} {d : RulePartD} (h : ruleD? r = some d) :
    (r.word 3 = 0 ∧ r.byte 5 = 0) ∨ (1 ≤ r.word 3 ∧ r.word 3 ≤ 0xEFFF ∧ 1 ≤ r.byte 5 ∧ r.byte 5 ≤ 3) := by
  unfold ruleD? at h
  split at h
  · next h0 =>
    split at h
    · next h5 => exact .inl ⟨h0, h5⟩
    · cases h
  · split at h
    · next hc =>
      obtain ⟨h1, h2⟩ := (ruleCode_iff _).mp hc
      obtain ⟨v, hv, -⟩ := Option.map_eq_some_iff.mp h
      exact .inr ⟨h1, h2, Severity.rank_of_ofCode hv⟩
    · cases h

theorem ruleD?_silent {r : FrameRecord} (h0 : r.word 3 = 0) (h5 : r.byte 5 = 0) : ruleD? r = some { alert := none } := by
  unfold ruleD?
  rw [if_pos h0, if_pos h5]

theorem ruleD?_alert {r : FrameRecord} {severity : Severity} (h1 : 1 ≤ r.word 3) (h2 : r.word 3 ≤ 0xEFFF)
    (hv : severity.rank = r.byte 5) : ruleD? r = some { alert := some (r.word 3, severity) } := by
  unfold ruleD?
  rw [if_neg (by omega), if_pos ((ruleCode_iff _).mpr ⟨h1, h2⟩), ← hv, Severity.ofCode_rank]
  rfl

/-! ### The checks and the effect (R68) -/

/-- The checks that RULE_A to RULE_D share, and what follows them. -/
theorem editable_answers {code : Nat} {s : State} {r : FrameRecord} {rest : List FrameRecord} (h : Asked code s r rest)
    {judge : FrameRecord → State → Verdict} {v : Verdict}
    (hj : judge r { s with intake.queue := rest } = editable r { s with intake.queue := rest } v) :
    (63 < r.byte 2 → onRequest code judge s = .next (answered s r rest .badArg [])) ∧
      (r.byte 2 ≤ 63 → (s.rule (r.byte 2)).life = .live →
        onRequest code judge s = .next (answered s r rest .wrongState [])) ∧
      (r.byte 2 ≤ 63 → (s.rule (r.byte 2)).life ≠ .live →
        onRequest code judge s = .next (v.effect (answered s r rest v.result v.data))) := by
  unfold editable at hj
  refine ⟨fun hi => ?_, fun hi hl => ?_, fun hi hl => ?_⟩
  · exact onRequest_answers h (hj.trans (if_pos hi))
  · exact onRequest_answers h (hj.trans ((if_neg (Nat.not_lt.mpr hi)).trans (if_pos hl)))
  · exact onRequest_verdict h (hj.trans ((if_neg (Nat.not_lt.mpr hi)).trans (if_neg hl)))

@[simp] theorem answered_rule (s : State) (r : FrameRecord) (l : List FrameRecord) (c : ResultCode) (d : List Byte)
    (i : Nat) : (answered s r l c d).rule i = s.rule i := by
  unfold State.rule
  rw [answered_telltale]

/-- A rule put once a request has been answered. -/
theorem answered_putRule (s : State) (r : FrameRecord) (l : List FrameRecord) (c : ResultCode) (d : List Byte) (i : Nat)
    (q : Rule) :
    (answered s r l c d).putRule i q = { answered s r l c d with telltale.rules := s.telltale.rules.put i q } := by
  simp only [State.putRule, answered_telltale]

/-- An accepted part in the state. -/
theorem writePart_stores (s : State) (r : FrameRecord) (rest : List FrameRecord) (f : Rule → Rule) :
    (writePart (r.byte 2) f).effect (answered s r rest .ok []) = storedPart s r rest f := by
  unfold writePart
  rw [accepts_effect, answered_rule, answered_putRule]
  rfl

/-- A part stored, once its arguments are found to give it. -/
theorem part_stored {code : Nat} {s : State} {r : FrameRecord} {rest : List FrameRecord} (h : Asked code s r rest)
    (hi : r.byte 2 ≤ 63) (hl : (s.rule (r.byte 2)).life ≠ .live) {judge : FrameRecord → State → Verdict} {f : Rule → Rule}
    (hj : judge r { s with intake.queue := rest } =
      editable r { s with intake.queue := rest } (writePart (r.byte 2) f)) :
    onRequest code judge s = .next (storedPart s r rest f) := by
  obtain ⟨-, -, stored⟩ := editable_answers h hj
  rw [stored hi hl]
  exact congrArg _ (writePart_stores s r rest f)

/-- What RULE_A to RULE_D refuse: an index above 63, a LIVE rule, and arguments that give no part. -/
theorem part_refused {code : Nat} {s : State} {r : FrameRecord} {rest : List FrameRecord} (h : Asked code s r rest)
    {judge : FrameRecord → State → Verdict} {v : Verdict} {inRange : Prop}
    (hj : judge r { s with intake.queue := rest } = editable r { s with intake.queue := rest } v)
    (hv : ¬ inRange → v = refuse .badArg) :
    (63 < r.byte 2 → onRequest code judge s = .next (answered s r rest .badArg [])) ∧
      (r.byte 2 ≤ 63 → (s.rule (r.byte 2)).life = .live →
        onRequest code judge s = .next (answered s r rest .wrongState [])) ∧
      (r.byte 2 ≤ 63 → (s.rule (r.byte 2)).life ≠ .live → ¬ inRange →
        onRequest code judge s = .next (answered s r rest .badArg [])) := by
  obtain ⟨outside, live, other⟩ := editable_answers h hj
  refine ⟨outside, live, fun hi hl hr => ?_⟩
  rw [other hi hl, hv hr]
  rfl

/-! ### RULE_D (R69) -/

/-- The judgement of RULE_D on a part D: a code that another rule holds is refused. -/
theorem judgeRuleD_some {s : State} {r : FrameRecord} {d : RulePartD} (h : ruleD? r = some d) :
    judgeRuleD r s =
      editable r s
        (if s.codeTaken (r.byte 2) d.code then refuse .conflict
         else writePart (r.byte 2) (fun q => { q with d := some d })) := by
  unfold judgeRuleD
  rw [h]

/-- A code is taken while another rule in EDITING or LIVE has it in its part D. -/
theorem codeTaken_iff (s : State) (i code : Nat) :
    s.codeTaken i (some code) = true ↔
      ∃ j v, j < 64 ∧ j ≠ i ∧ (s.rule j).life ≠ .free ∧ (s.rule j).d = some { alert := some (code, v) } := by
  have held (j : Nat) :
      s.heldCode j = some code ↔ (s.rule j).life ≠ .free ∧ ∃ v, (s.rule j).d = some { alert := some (code, v) } := by
    unfold State.heldCode RulePartD.code
    rcases (s.rule j).d with _ | ⟨_ | ⟨c, v⟩⟩ <;> simp [eq_comm]
  simp only [State.codeTaken, Option.isSome_some, Bool.true_and, List.any_eq_true, List.mem_range, Bool.and_eq_true,
    decide_eq_true_iff, held]
  constructor
  · rintro ⟨j, hj, hji, hl, v, hd⟩
    exact ⟨j, v, hj, hji, hl, hd⟩
  · rintro ⟨j, v, hj, hji, hl, hd⟩
    exact ⟨j, hj, hji, hl, v, hd⟩

/-- Settles O40: the checks that the four requests share, the ranges of the arguments, and the part stored. -/
theorem ruleParts : Obligations.RuleParts := by
  intro s r rest
  refine ⟨fun code c inRange hmem h => ?_, fun hi hl => ⟨?_, ?_, ?_, ?_, ?_⟩⟩
  · simp only [List.mem_cons, Prod.mk.injEq, List.not_mem_nil, or_false] at hmem
    rcases hmem with ⟨rfl, rfl, rfl⟩ | ⟨rfl, rfl, rfl⟩ | ⟨rfl, rfl, rfl⟩ | ⟨rfl, rfl, rfl⟩
    · rw [exec_ruleA]
      refine part_refused h rfl fun hr => ?_
      split
      · next ha => exact absurd (ruleA?_range ha) hr
      · rfl
    · rw [exec_ruleB]
      exact part_refused h rfl fun hr => absurd trivial hr
    · rw [exec_ruleC]
      refine part_refused h rfl fun hr => ?_
      split
      · next hc => exact absurd (ruleC?_range hc) hr
      · rfl
    · rw [exec_ruleD]
      refine part_refused h rfl fun hr => ?_
      split
      · rfl
      · next hd => exact absurd (ruleD?_range hd) hr
  · intro test pattern h ht hp h3 h4 h7
    rw [exec_ruleA]
    exact part_stored h hi hl (by unfold judgeRuleA; rw [ruleA?_some ht hp ⟨h3, h4, h7⟩])
  · intro h
    rw [exec_ruleB]
    exact part_stored h hi hl rfl
  · intro action h ha h6
    rw [exec_ruleC]
    exact part_stored h hi hl (by unfold judgeRuleC; rw [ruleC?_some ha h6])
  · intro h h0 h5
    rw [exec_ruleD]
    exact part_stored h hi hl (judgeRuleD_some (ruleD?_silent h0 h5))
  · intro severity h h1 h2 hv
    have hj := judgeRuleD_some (s := { s with intake.queue := rest }) (ruleD?_alert h1 h2 hv)
    rw [exec_ruleD]
    refine ⟨fun ⟨j, v, hj64, hji, hlife, hd⟩ => ?_, fun none => ?_⟩
    · have taken : ({ s with intake.queue := rest } : State).codeTaken (r.byte 2) (some (r.word 3)) = true :=
        (codeTaken_iff _ _ _).mpr ⟨j, v, hj64, hji, hlife, hd⟩
      obtain ⟨-, -, other⟩ := editable_answers h (hj.trans (congrArg _ (if_pos taken)))
      exact other hi hl
    · have free : ¬ ({ s with intake.queue := rest } : State).codeTaken (r.byte 2) (some (r.word 3)) = true := by
        rw [codeTaken_iff]
        rintro ⟨j, v, hj64, hji, hlife, hd⟩
        exact none j v hj64 hji hlife hd
      exact part_stored h hi hl (hj.trans (congrArg _ (if_neg free)))

end Sys2Proof.Machine
end

section
/-! The deciding rule, the output of a lamp, and the dimming (R79 to R84): O45. -/

namespace Sys2Proof.Machine

/-! ### The deciding rule (R79) -/

theorem deciding_eq_none_iff (s : State) (n : Nat) :
    s.deciding n = none ↔ ∀ i, i < 64 → (s.rule i).lights n = false := by
  obtain ⟨hnone, hsome⟩ := betterRule_best s n 64 (Nat.le_refl 64)
  refine ⟨hnone, fun h => ?_⟩
  cases hd : s.deciding n with
  | none => rfl
  | some i =>
    obtain ⟨hi, hl, -⟩ := hsome i hd
    rw [h i hi] at hl
    cases hl

theorem deciding_best {s : State} {n i : Nat} (h : s.deciding n = some i) :
    i < 64 ∧ (s.rule i).lights n = true ∧
      ∀ j, j < 64 → (s.rule j).lights n = true →
        (s.rule j).priority ≤ (s.rule i).priority ∧ ((s.rule j).priority = (s.rule i).priority → i ≤ j) :=
  (betterRule_best s n 64 (Nat.le_refl 64)).2 i h

theorem priority_of_a {q : Rule} {a : RulePartA} (h : q.a = some a) : q.priority = a.priority := by
  unfold Rule.priority
  rw [h]

/-- The deciding rule's parts against those of every other rule that lights the lamp. -/
theorem deciding_priority {s : State} {n i : Nat} (h : s.deciding n = some i) :
    ∃ a, (s.rule i).a = some a ∧ a.lamp = n ∧
      ∀ j b, j < 64 → (s.rule j).life = .live → (s.rule j).live = .active → (s.rule j).a = some b → b.lamp = n →
        b.priority ≤ a.priority ∧ (b.priority = a.priority → i ≤ j) := by
  obtain ⟨-, hl, best⟩ := deciding_best h
  obtain ⟨-, -, hlamp⟩ := (lights_iff _ _).mp hl
  obtain ⟨a, ha, hn⟩ := Option.map_eq_some_iff.mp hlamp
  refine ⟨a, ha, hn, fun j b hj hlife hlive hb hbn => ?_⟩
  have hj := best j hj ((lights_iff _ _).mpr ⟨hlife, hlive, by rw [hb, ← hbn]; rfl⟩)
  rwa [priority_of_a ha, priority_of_a hb] at hj

theorem shown_of_deciding {s : State} {n i : Nat} (h : s.deciding n = some i) :
    s.shown n = (s.rule i).a.map (·.pattern) := by
  unfold State.shown
  rw [h]

/-! ### The output (R80 to R83) -/

/-- A pattern stands in its lit half (R80). -/
theorem litAt_iff (p : LampPattern) (phase : Nat) :
    p.litAt phase = true ↔ p = .steady ∨ (p = .slow ∧ phase < 16) ∨ (p = .fast ∧ phase % 8 < 4) := by
  cases p <;> simp [LampPattern.litAt]

theorem lampLit_iff (s : State) (n : Nat) :
    s.lampLit n = true ↔
      (s.ign.power = .waking ∨ s.ign.power = .run) ∧
        (s.telltale.proveOut ≠ none ∨ (n = 0 ∧ s.store.report = false) ∨ s.shown n = some .steady ∨
          (s.shown n = some .slow ∧ s.telltale.phase < 16) ∨ (s.shown n = some .fast ∧ s.telltale.phase % 8 < 4)) := by
  unfold State.lampLit State.l0Held
  simp only [Bool.and_eq_true, Bool.or_eq_true, decide_eq_true_iff, Bool.not_eq_true']
  refine and_congr_right fun hp => ?_
  rw [or_assoc]
  cases hv : s.telltale.proveOut with
  | none =>
    cases s.shown n with
    | none => simp [hp]
    | some p => simp [hp, litAt_iff]
  | some due => simp

/-! ### The dimming (R84) -/

/-- The duty worked out, with what the link makes of it. -/
theorem updateDuty_eq (s : State) :
    s.updateDuty = { s with telltale.duty := s.dutyNow, display := s.updateDuty.display } := by
  unfold State.updateDuty
  split
  · next h => rw [h]
  · obtain ⟨d, hd⟩ := markDirty_only { s with telltale.duty := s.dutyNow } [.pageSelect]
    rw [hd]

/-- A new duty marks PAGE_SELECT (R153). -/
theorem updateDuty_marks {s : State} (h : s.telltale.duty ≠ s.dutyNow) (hl : s.display.link ≠ .off) :
    s.updateDuty.display.dirty.pageSelect = true := by
  unfold State.updateDuty
  rw [if_neg (Ne.symm h)]
  exact markDirty_page _ hl

theorem dimEvent_named {s : State} {m : Nat} (h : s.param 4 = m) : s.dimEvent m = s.updateDuty :=
  if_pos ((paramSlot_iff s 4 m).mpr h)

theorem dimEvent_other {s : State} {m : Nat} (h : s.param 4 ≠ m) : s.dimEvent m = s :=
  if_neg fun e => h ((paramSlot_iff s 4 m).mp e)

/-- Settles O45: the deciding rule, the output of a lamp and the dimming. -/
theorem lampResolution : Obligations.LampResolution := by
  intro s n
  refine ⟨?_, fun i hi => ?_, lampLit_iff s n, dutyNow_is s, fun m => ⟨fun hm => ?_, dimEvent_other⟩⟩
  · simp only [deciding_eq_none_iff, ← Bool.not_eq_true, lights_iff]
  · obtain ⟨h64, hl, -⟩ := deciding_best hi
    obtain ⟨hlife, hlive, -⟩ := (lights_iff _ _).mp hl
    exact ⟨h64, hlife, hlive, shown_of_deciding hi, deciding_priority hi⟩
  · rw [dimEvent_named hm]
    exact ⟨by rw [updateDuty_eq], updateDuty_eq s, updateDuty_marks⟩

end Sys2Proof.Machine
end

section
/-! The confirm timer, the flash phase, the end of prove-out and the turn-on check of a lamp (R76, R80, R82, R86): O46. -/

namespace Sys2Proof.Machine

theorem exec_confirmTimerExpiry (s : State) (i : Nat) :
    exec (.confirmTimerExpiry i) s = onExpiry (s.rule i).confirm (fun t => t.confirmRule i) s := rfl

theorem exec_phaseEvent (s : State) : exec .phaseEvent s = onExpiry s.telltale.phaseTimer State.advancePhase s := rfl

theorem exec_proveOutEnd (s : State) : exec .proveOutEnd s = onExpiry s.telltale.proveOut State.proveOutEnded s := rfl

theorem exec_lampTurnOnCheck (s : State) (n : Nat) (current : Bool) :
    exec (.lampTurnOnCheck n current) s =
      .next (if decide (n < 32) && s.lampLit n && !(s.lamp n).checked then s.checkLamp n current else s) := rfl

/-! ### The confirm timer (R76, R77) -/

theorem pushes_alert {q : Rule} {code : Nat} {severity : Severity} (h : q.d = some { alert := some (code, severity) })
    (i : Nat) : q.pushes i = [.push code severity (.rule i)] := by
  unfold Rule.pushes
  rw [h]

theorem pushes_silent {q : Rule} (h : q.d = some { alert := none }) (i : Nat) : q.pushes i = [] := by
  unfold Rule.pushes
  rw [h]

/-- A confirmed rule with an alert pushes it. -/
theorem confirmRule_alert {s : State} {i code : Nat} {severity : Severity}
    (h : (s.rule i).d = some { alert := some (code, severity) }) :
    s.confirmRule i = ((s.putRule i (s.rule i).activate).push code severity (.rule i)).settleLamps := by
  unfold State.confirmRule
  rw [pushes_alert h]
  rfl

/-- A confirmed rule without an alert sends nothing. -/
theorem confirmRule_silent {s : State} {i : Nat} (h : (s.rule i).d = some { alert := none }) (hb : s.alert.backlog = []) :
    s.confirmRule i = (s.putRule i (s.rule i).activate).settleLamps := by
  unfold State.confirmRule
  rw [pushes_silent h, send_nothing (s.putRule i (s.rule i).activate) hb]

/-! ### The flash phase and the end of prove-out (R80, R82) -/

theorem advancePhase_eq (s : State) :
    s.advancePhase =
      { s with
        telltale.phase := (s.telltale.phase + 1) % 32, telltale.phaseTimer := some (s.clock + 31250),
        telltale.lamps := s.advancePhase.telltale.lamps } := by
  obtain ⟨lamps, h⟩ := settleLamps_only
    { s with telltale.phase := (s.telltale.phase + 1) % 32, telltale.phaseTimer := s.after 31250 }
  unfold State.advancePhase
  rw [h]
  rfl

theorem advancePhase_lamp (s : State) {n : Nat} (hn : n < 32) :
    s.advancePhase.lamp n = { s.lamp n with checked := (s.lamp n).checked && s.advancePhase.lampLit n } := by
  unfold State.advancePhase
  exact (settleLamps_lamp _ n hn).1

/-- The state that the RUN condition is judged on. -/
def State.provenOut (s : State) : State :=
  ({ s with telltale.proveOut := none, ign.proveOutRunning := false }).settleLamps

theorem provenOut_eq (s : State) :
    s.provenOut =
      { s with
        telltale.proveOut := none, telltale.lamps := s.provenOut.telltale.lamps, ign.proveOutRunning := false } := by
  obtain ⟨lamps, h⟩ := settleLamps_only { s with telltale.proveOut := none, ign.proveOutRunning := false }
  unfold State.provenOut
  rw [h]

theorem provenOut_lamp (s : State) {n : Nat} (hn : n < 32) :
    s.provenOut.lamp n = { s.lamp n with checked := (s.lamp n).checked && s.provenOut.lampLit n } := by
  unfold State.provenOut
  exact (settleLamps_lamp _ n hn).1

theorem proveOutEnded_eq (s : State) : s.proveOutEnded = s.provenOut.judgeRun := by
  unfold State.proveOutEnded State.provenOut
  rfl

theorem judgeRun_entered {s : State} (h : RunReady s) : RunEntered s s.judgeRun := by
  unfold State.judgeRun
  rw [if_pos ((mayRun_iff s).mpr h)]
  exact runEntry_spec s

theorem judgeRun_unready {s : State} (h : ¬ RunReady s) : s.judgeRun = s := if_neg fun e => h ((mayRun_iff s).mp e)

/-- Settles O46: each event as the operation it comes to. -/
theorem lampEvents : Obligations.LampEvents := by
  refine ⟨fun s i due hi hc => ?_, fun s due hp => ?_, fun s due hp => ?_,
    fun s n current hn => ⟨fun hl hc => ?_, fun h => ?_⟩⟩
  · refine ⟨_, by rw [exec_confirmTimerExpiry, onExpiry_running hc], fun code severity hd => ?_, fun hd hb => ?_⟩
    · exact confirmRule_alert hd
    · have e : (s.reach due).confirmRule i = ((s.reach due).putRule i (s.rule i).activate).settleLamps :=
        confirmRule_silent hd hb
      refine ⟨?_, fun j hj => ?_, ?_⟩
      · rw [e, settle_rule, State.rule_putRule_same _ _ _ hi]
        rfl
      · rw [e, settle_rule, State.rule_putRule_other _ _ _ _ (Ne.symm hj)]
        rfl
      · obtain ⟨lamps, hlamps⟩ := settleLamps_only ((s.reach due).putRule i (s.rule i).activate)
        rw [e, hlamps]
        rfl
  · exact ⟨_, by rw [exec_phaseEvent, onExpiry_running hp], advancePhase_eq _, fun n hn => advancePhase_lamp _ hn⟩
  · exact ⟨(s.reach due).provenOut, _, by rw [exec_proveOutEnd, onExpiry_running hp, proveOutEnded_eq], provenOut_eq _,
      fun n hn => provenOut_lamp _ hn, judgeRun_entered, judgeRun_unready⟩
  · rw [exec_lampTurnOnCheck, if_pos (by rw [decide_eq_true hn, hl, hc]; rfl)]
    unfold State.checkLamp
    cases current <;> cases (s.lamp n).openMark <;> rfl
  · rw [exec_lampTurnOnCheck, if_neg]
    rcases h with h | h <;> simp [h]

end Sys2Proof.Machine
end

section
/-! RULE_ENABLE and RULE_CLEAR (R70, R71): O41. -/

namespace Sys2Proof.Machine

theorem exec_ruleEnable (s : State) : exec .ruleEnable s = onRequest 0x2C judgeRuleEnable s := rfl

theorem exec_ruleClear (s : State) : exec .ruleClear s = onRequest 0x2D judgeRuleClear s := rfl

@[simp] theorem answered_slot (s : State) (r : FrameRecord) (l : List FrameRecord) (c : ResultCode) (d : List Byte)
    (n : Nat) : (answered s r l c d).slot n = s.slot n := by
  unfold State.slot
  rw [answered_table]

/-! ### RULE_ENABLE (R70) -/

theorem complete_iff (q : Rule) :
    q.complete = true ↔ ∃ a b c d, q.a = some a ∧ q.b = some b ∧ q.c = some c ∧ q.d = some d := by
  unfold Rule.complete
  simp only [Bool.and_eq_true, Option.isSome_iff_exists, exists_and_left, exists_and_right, and_assoc]

section

variable {s : State} {r : FrameRecord} {rest : List FrameRecord}

theorem judgeRuleEnable_idle (hs : ¬ Saving s) :
    judgeRuleEnable r { s with intake.queue := rest } =
      if 63 < r.byte 2 then refuse .badArg
      else if (s.rule (r.byte 2)).life ≠ .editing then refuse .wrongState
      else if (s.rule (r.byte 2)).complete = false then refuse .badArg
      else accepts (fun t => t.enableRule (r.byte 2)) := by
  unfold judgeRuleEnable
  exact unlessSaving_idle _ hs

/-- RULE_ENABLE on an EDITING rule of four parts. -/
theorem ruleEnable_accepted (h : Asked 0x2C s r rest) (hs : ¬ Saving s) (hi : r.byte 2 ≤ 63)
    (hl : (s.rule (r.byte 2)).life = .editing) (hc : (s.rule (r.byte 2)).complete = true) :
    exec .ruleEnable s = .next ((answered s r rest .ok []).enableRule (r.byte 2)) := by
  have hj := judgeRuleEnable_idle (r := r) (rest := rest) hs
  rw [if_neg (Nat.not_lt.mpr hi), if_neg (not_not.mpr hl), if_neg (by rw [hc]; decide)] at hj
  rw [exec_ruleEnable, onRequest_verdict h hj, accepts_effect]
  rfl

end

/-- An EDITING rule's parts once it is LIVE. -/
theorem enabled_eq {q : Rule} {a : RulePartA} {b : Int} {c : RulePartC} {d : RulePartD} (ha : q.a = some a)
    (hb : q.b = some b) (hc : q.c = some c) (hd : q.d = some d) :
    q.enabled =
      { life := .live, live := .inactive, a := some a, b := some b, c := some c, d := some d, condition := false,
        confirm := none, releaseOwed := false } := by
  unfold Rule.enabled
  rw [ha, hb, hc, hd]

/-- A rule enabled outside WAKING and RUN does not evaluate. -/
theorem enableRule_rule_idle {u : State} {i : Nat} (hi : i < 64) (hw : u.ign.power ≠ .waking) (hr : u.ign.power ≠ .run)
    (hb : u.alert.backlog = []) : (u.enableRule i).rule i = (u.rule i).enabled := by
  unfold State.enableRule
  rw [settle_rule, alone_idle (u.putRule i (u.rule i).enabled) i hw hr hb, State.rule_putRule_same _ _ _ hi]

/-- A rule enabled in WAKING or RUN evaluates at once; an event of slot 13 alone could come back to it. -/
theorem enableRule_rule_awake {u : State} {i : Nat} (hi : i < 64) {a : RulePartA} (ha : (u.rule i).a = some a)
    (h13 : a.slot ≠ 13) (hp : u.ign.power = .waking ∨ u.ign.power = .run) :
    (u.enableRule i).rule i = ((u.rule i).enabled.react i u.clock (u.slot a.slot)).1 := by
  have same := State.rule_putRule_same u i (u.rule i).enabled hi
  have named : ((u.putRule i (u.rule i).enabled).rule i).liveSlot = some a.slot := by
    rw [same]
    exact (liveSlot_iff _ _).mpr ⟨rfl, a, ha, rfl⟩
  unfold State.enableRule
  rw [settle_rule, alone_awake (u.putRule i (u.rule i).enabled) i hi a.slot named h13 hp, same]
  rfl

/-- The state that RULE_ENABLE leaves, with what it sends. -/
theorem enableRule_ripples {u : State} {i : Nat} (hi : i < 64) {a : RulePartA} {d : RulePartD} {q : Rule}
    (ha : (u.rule i).a = some a) (hd : (u.rule i).d = some d)
    (hq : q = if u.ign.power = .waking ∨ u.ign.power = .run then ruleAfter u.clock (u.rule i).enabled (u.slot a.slot)
      else (u.rule i).enabled) :
    Ripple (· = 13) (u.putRule i q) (u.enableRule i) ∧
      u.enableRule i =
        ((u.putRule i q).send
          (match d.alert with
            | some (code, severity) => if q.live = .active then [.push code severity (.rule i)] else []
            | none => [])).settleLamps := by
  have form := enableRule_form u i hi a d (u.rule i).enabled q rfl ha hd hq
  refine ⟨?_, form⟩
  rw [form]
  exact (ripple_send (· = 13) _ _ rfl).trans (ripple_settleLamps (· = 13) _)

/-! ### RULE_CLEAR (R71) -/

theorem judgeRuleClear_idle {s : State} {r : FrameRecord} {rest : List FrameRecord} (hs : ¬ Saving s) :
    judgeRuleClear r { s with intake.queue := rest } =
      if 63 < r.byte 2 then refuse .badArg else accepts (fun t => t.clearRule (r.byte 2)) := by
  unfold judgeRuleClear
  exact unlessSaving_idle _ hs

/-- RULE_CLEAR on a rule. -/
theorem ruleClear_accepted {s : State} {r : FrameRecord} {rest : List FrameRecord} (h : Asked 0x2D s r rest)
    (hs : ¬ Saving s) (hi : r.byte 2 ≤ 63) :
    exec .ruleClear s = .next ((answered s r rest .ok []).clearRule (r.byte 2)) := by
  have hj := (judgeRuleClear_idle (r := r) (rest := rest) hs).trans (if_neg (Nat.not_lt.mpr hi))
  rw [exec_ruleClear, onRequest_verdict h hj, accepts_effect]
  rfl

/-- A rule cleared is FREE, whatever its release makes the rules on slot 13 do. -/
theorem clearRule_rule {u : State} {i : Nat} (hi : i < 64) : (u.clearRule i).rule i = Rule.blank := by
  have same := State.rule_putRule_same u i Rule.blank hi
  unfold State.clearRule
  rw [settle_rule, (cascade_send (u.putRule i Rule.blank) _).rules i (by rw [same]; decide), same]

theorem clearRule_ripples (u : State) (i : Nat) : Ripple (· = 13) (u.putRule i Rule.blank) (u.clearRule i) :=
  (ripple_send (· = 13) _ _ rfl).trans (ripple_settleLamps (· = 13) _)

/-- A rule that owes no release, or holds no alert, is cleared without one. -/
theorem owes_nothing {q : Rule}
    (h : q.life ≠ .live ∨ (q.live ≠ .active ∧ q.releaseOwed = false) ∨ q.d = some { alert := none })
    (i : Nat) : q.owes i = [] := by
  unfold Rule.owes
  rcases h with h | ⟨ha, ho⟩ | hd
  · exact if_neg fun e => h e.1
  · exact if_neg fun e => e.2.elim ha (by rw [ho]; decide)
  · split
    · unfold Rule.releases
      rw [hd]
    · rfl

theorem owes_release {q : Rule} {code : Nat} {severity : Severity} (hl : q.life = .live)
    (ho : q.live = .active ∨ q.releaseOwed = true) (hd : q.d = some { alert := some (code, severity) }) (i : Nat) :
    q.owes i = [.release code (.rule i)] := by
  unfold Rule.owes Rule.releases
  rw [if_pos ⟨hl, ho⟩, hd]

theorem clearRule_silent {u : State} {i : Nat} (hb : u.alert.backlog = []) (h : (u.rule i).owes i = []) :
    (u.clearRule i).alert = u.alert := by
  unfold State.clearRule
  rw [settle_alert, h, send_nothing (u.putRule i Rule.blank) hb]
  rfl

theorem clearRule_releases {u : State} {i code : Nat} (h : (u.rule i).owes i = [.release code (.rule i)]) :
    u.clearRule i = ((u.putRule i Rule.blank).release code (.rule i)).settleLamps := by
  unfold State.clearRule
  rw [h]
  rfl

/-- Settles O41: the checks of RULE_ENABLE and RULE_CLEAR, and the rule enabled or cleared on the state once it is answered. -/
theorem ruleLifecycle : Obligations.RuleLifecycle := by
  intro s r rest hs
  refine ⟨fun h => ⟨fun hb => ?_, fun hb hl => ?_, fun hb hl hp => ?_, fun a b c d hb hl ha hpb hc hd => ?_⟩,
    fun h => ⟨fun hb => ?_, fun hb => ?_⟩⟩
  · rw [exec_ruleEnable]
    exact onRequest_answers h ((judgeRuleEnable_idle hs).trans (if_pos hb))
  · have hj := judgeRuleEnable_idle (r := r) (rest := rest) hs
    rw [if_neg (Nat.not_lt.mpr hb), if_pos hl] at hj
    rw [exec_ruleEnable]
    exact onRequest_answers h hj
  · have hc : (s.rule (r.byte 2)).complete = false := by
      rw [← Bool.not_eq_true, complete_iff]
      rintro ⟨a, b, c, d, ha, hb, hc, hd⟩
      simp [ha, hb, hc, hd] at hp
    have hj := judgeRuleEnable_idle (r := r) (rest := rest) hs
    rw [if_neg (Nat.not_lt.mpr hb), if_neg (not_not.mpr hl), if_pos hc] at hj
    rw [exec_ruleEnable]
    exact onRequest_answers h hj
  · have hi : r.byte 2 < 64 := by omega
    have ha' : ((answered s r rest .ok []).rule (r.byte 2)).a = some a := by rw [answered_rule, ha]
    have hd' : ((answered s r rest .ok []).rule (r.byte 2)).d = some d := by rw [answered_rule, hd]
    refine ⟨_, ruleEnable_accepted h hs hb hl ((complete_iff _).mpr ⟨a, b, c, d, ha, hpb, hc, hd⟩), ?_, ?_, ?_⟩
    · rintro enabled evaluated x he hv rfl
      rw [← answered_putRule]
      refine enableRule_ripples hi ha' hd' ?_
      rw [hv, he, answered_rule, answered_ign, answered_clock, answered_slot, enabled_eq ha hpb hc hd]
    · intro hw hr hk
      rw [enableRule_rule_idle hi (by rwa [answered_ign]) (by rwa [answered_ign]) (by rwa [answered_alert])]
      exact ⟨rfl, rfl, rfl⟩
    · intro hp h13
      rw [enableRule_rule_awake hi ha' h13 (by rwa [answered_ign]), answered_rule, answered_clock, answered_slot]
      exact react_fresh (s.rule (r.byte 2)).enabled c hc _ _ _ rfl rfl rfl
  · rw [exec_ruleClear]
    exact onRequest_answers h ((judgeRuleClear_idle hs).trans (if_pos hb))
  · have hi : r.byte 2 < 64 := by omega
    refine ⟨_, ruleClear_accepted h hs hb, clearRule_rule hi, ?_, fun hk ho => ?_, fun code severity hk hp hl ho hd => ?_⟩
    · rw [← answered_putRule]
      exact clearRule_ripples _ _
    · rw [clearRule_silent (by rwa [answered_alert]) (by rw [answered_rule]; exact owes_nothing ho _), answered_alert]
    · rw [← answered_putRule]
      exact clearRule_releases (by rw [answered_rule]; exact owes_release hl ho hd _)

end Sys2Proof.Machine
end

section
/-! What the blocks make of a changed parameter at once, and SET_PARAM (R84, R126, R127, R146, R148, R173, R174): O19. -/

namespace Sys2Proof.Machine

theorem exec_setParam (s : State) : exec .setParam s = onRequest 0x04 judgeSetParam s := rfl

/-! ### The dimming (R84) -/

/-- A new P_DIM_SLOT or P_DIM_MIN: the duty is worked out. -/
theorem updateDuty_followed (b : State) :
    DutyIs b.updateDuty b.updateDuty.telltale.duty ∧
      b.updateDuty = { b with telltale.duty := b.updateDuty.telltale.duty, display := b.updateDuty.display } := by
  refine ⟨dutyIs_updateDuty b, ?_⟩
  obtain ⟨d, q, h⟩ := updateDuty_only b
  rw [h]

/-! ### The card slots (R126) -/

theorem present_iff (r : DriverRecord) : r.present = true ↔ r.state ≠ .noDriver := decide_eq_true_iff

theorem absent_iff (r : DriverRecord) : r.present = false ↔ r.state = .noDriver := by
  rw [← Bool.not_eq_true, present_iff, not_not]

/-- The first step of a new card slot: a present driver is withdrawn (R126). -/
def State.cardDropped (s : State) (d : Driver) : State := if (s.driver d).present then s.withdrawCard d else s

section

variable {b : State} {d : Driver}

theorem cardDropped_absent (h : (b.driver d).state = .noDriver) : b.cardDropped d = b :=
  if_neg (by rw [(absent_iff _).mpr h]; decide)

theorem cardDropped_present (h : (b.driver d).state ≠ .noDriver) : b.cardDropped d = b.withdrawCard d :=
  if_pos ((present_iff _).mpr h)

theorem ripple_cardDropped (b : State) (d : Driver) : Ripple onlyTacho b (b.cardDropped d) := by
  by_cases h : (b.driver d).state = .noDriver
  · rw [cardDropped_absent h]
    exact Ripple.refl onlyTacho b
  · rw [cardDropped_present h]
    exact ripple_withdrawCard onlyTacho (fun _ h => h) b d

/-- No card stands in the new slot. -/
theorem changeCardSlot_empty (h : ∀ n : Nat, (b.cardDropped d).param (cardParam d) = n → ¬ Shows (b.cardDropped d) n 1) :
    b.changeCardSlot d = b.cardDropped d := by
  unfold State.changeCardSlot
  simp only []
  split
  · rfl
  · next n hn => exact if_neg (h n ((paramSlot_iff _ _ _).mp hn))

/-- A card stands in the new slot. -/
theorem changeCardSlot_inserts {n : Nat} (hn : (b.cardDropped d).param (cardParam d) = n) (h : Shows (b.cardDropped d) n 1) :
    b.changeCardSlot d = (b.cardDropped d).insertCard d := by
  have named : (b.cardDropped d).paramSlot (cardParam d) = some n := (paramSlot_iff _ _ _).mpr hn
  unfold State.cardDropped at named h
  unfold State.changeCardSlot State.cardDropped
  simp only [named]
  exact if_pos h

/-- A driver's new card slot, which lies outside those that a withdrawal writes: a present driver is withdrawn,
and one whose card stands in
the new slot is inserted. -/
theorem cardSlot_followed (hok : ReadoutOk b.tacho) (hout : ∀ n : Nat, b.param (cardParam d) = n → ¬ onlyTacho n) :
    ((b.driver d).state ≠ .noDriver → CardWithdrawn b d (b.cardDropped d)) ∧
      ((∀ n : Nat, b.param (cardParam d) = n → ¬ Shows b n 1) → b.changeCardSlot d = b.cardDropped d) ∧
      ∀ n : Nat, b.param (cardParam d) = n → Shows b n 1 → CardInserted (b.cardDropped d) d (b.changeCardSlot d) := by
  have R := ripple_cardDropped b d
  have shows (n : Nat) (hn : b.param (cardParam d) = n) : Shows (b.cardDropped d) n 1 ↔ Shows b n 1 := by
    unfold Shows
    rw [R.slots n (hout n hn)]
  refine ⟨fun hp => ?_, fun h => changeCardSlot_empty fun n hn => ?_, fun n hn h1 => ?_⟩
  · rw [cardDropped_present hp]
    exact withdrawCard_spec b d hok
  · rw [R.param] at hn
    rw [shows n hn]
    exact h n hn
  · rw [changeCardSlot_inserts ((R.param _).trans hn) ((shows n hn).mpr h1)]
    exact insertCard_spec _ d

end

/-! ### The driving limit (R127) -/

theorem followLimit_tacho (b : State) (d : Driver) : (b.followLimit d).tacho = b.tacho := by
  unfold State.followLimit
  split
  · exact writeOther_tacho b _ _
  · rfl

/-- What a driver's DRIVE_LEFT write can touch. -/
theorem followLimit_ripple (b : State) (d : Driver) : Ripple (fun n => n = leftSlot d ∨ n = 13) b (b.followLimit d) := by
  unfold State.followLimit
  split
  · exact ripple_writeOther _ b _ _ (.inl rfl) (.inr rfl)
  · exact Ripple.refl _ b

theorem followLimit_present {b : State} {d : Driver} (h : (b.driver d).state ≠ .noDriver) :
    ((b.followLimit d).slot (leftSlot d)).value = b.param 17 - (b.driver d).contDrive := by
  unfold State.followLimit
  rw [if_pos ((present_iff _).mpr h)]
  exact writeOther_value b _ _ (by cases d <;> decide) (by cases d <;> decide)

theorem followLimit_same {b : State} {d : Driver}
    (h : (b.driver d).state = .noDriver ∨ (b.slot (leftSlot d)).value = b.param 17 - (b.driver d).contDrive) :
    b.followLimit d = b := by
  unfold State.followLimit
  split
  · next hp =>
    have hv : (b.slot (leftSlot d)).value = b.driveLeft d := h.resolve_left ((present_iff _).mp hp)
    exact if_pos hv
  · rfl

/-- DRIVE_LEFT of both drivers after a new limit. -/
def State.limitsFollowed (s : State) : State := (s.followLimit .one).followLimit .two

theorem limitsFollowed_tacho (b : State) : b.limitsFollowed.tacho = b.tacho :=
  (followLimit_tacho _ _).trans (followLimit_tacho _ _)

/-- Each driver's DRIVE_LEFT is what its own write leaves, on the state before. -/
theorem limitsFollowed_slot (b : State) (d : Driver) :
    ((b.driver d).state ≠ .noDriver → (b.limitsFollowed.slot (leftSlot d)).value = b.param 17 - (b.driver d).contDrive) ∧
      ((b.driver d).state = .noDriver ∨ (b.slot (leftSlot d)).value = b.param 17 - (b.driver d).contDrive →
        b.limitsFollowed.slot (leftSlot d) = b.slot (leftSlot d)) := by
  have R := followLimit_ripple b .one
  have hd := driver_of_tacho (followLimit_tacho b .one)
  cases d with
  | one =>
    have later : b.limitsFollowed.slot 5 = (b.followLimit .one).slot 5 := (followLimit_ripple _ .two).slots 5 (by decide)
    exact ⟨fun h => (congrArg SlotRecord.value later).trans (followLimit_present h), fun h => by
      rw [show leftSlot .one = 5 from rfl, later, followLimit_same h]⟩
  | two =>
    have before : (b.followLimit .one).slot (leftSlot .two) = b.slot (leftSlot .two) := R.slots 7 (by decide)
    rw [← hd, ← R.param 17, ← before]
    exact ⟨followLimit_present, fun h => congrArg (fun x => x.slot (leftSlot .two)) (followLimit_same h)⟩

/-! ### SET_PARAM (R173, R174) -/

/-- A parameter held once a request has been answered. -/
theorem answered_setHeld (s : State) (r : FrameRecord) (l : List FrameRecord) (c : ResultCode) (d : List Byte) (id : Nat)
    (v : Int) :
    (answered s r l c d).setHeld id v = { answered s r l c d with mgmt.held := s.mgmt.held.put id v } := by
  simp only [State.setHeld, answered_mgmt]

theorem answered_held (s : State) (r : FrameRecord) (l : List FrameRecord) (c : ResultCode) (d : List Byte) (id : Nat) :
    (answered s r l c d).held id = s.held id := by
  unfold State.held
  rw [answered_mgmt]

section

variable {s : State} {r : FrameRecord} {rest : List FrameRecord}

theorem judgeSetParam_idle (hs : ¬ Saving s) :
    judgeSetParam r { s with intake.queue := rest } =
      judgeParam (r.byte 2) (r.signedLong 3) { s with intake.queue := rest } := by
  unfold judgeSetParam
  exact unlessSaving_idle _ hs

theorem setParam_refused (h : Asked 0x04 s r rest) (hs : ¬ Saving s)
    (hbad : 26 < r.byte 2 ∨ paramInRange (r.byte 2) (r.signedLong 3) = false ∨
      paramRelates s.mgmt.held (r.byte 2) (r.signedLong 3) = false) :
    exec .setParam s = .next (answered s r rest .badArg []) := by
  rw [exec_setParam]
  refine onRequest_answers h ((judgeSetParam_idle hs).trans ?_)
  unfold judgeParam
  split
  · rfl
  split
  · rfl
  split
  · rfl
  next h1 h2 h3 => exact absurd hbad (by simp only [not_or]; exact ⟨h1, h2, h3⟩)

theorem setParam_accepted (h : Asked 0x04 s r rest) (hs : ¬ Saving s) (hid : r.byte 2 ≤ 26)
    (hrange : paramInRange (r.byte 2) (r.signedLong 3) = true)
    (hrel : paramRelates s.mgmt.held (r.byte 2) (r.signedLong 3) = true) :
    exec .setParam s = .next
      (((answered s r rest .ok (s32 (s.held (r.byte 2)))).setHeld (r.byte 2) (r.signedLong 3)).paramChanged (r.byte 2)) := by
  have hj := judgeSetParam_idle (r := r) (rest := rest) hs
  unfold judgeParam at hj
  rw [if_neg (Nat.not_lt.mpr hid), if_neg (by rw [hrange]; decide), if_neg (by rw [hrel]; decide)] at hj
  rw [exec_setParam, onRequest_verdict h hj]
  rfl

end

/-- A card slot in its range is not one that the tachograph block writes (R173). -/
theorem cardParam_outside {d : Driver} {v : Int} (h : paramInRange (cardParam d) v = true) (n : Nat) (hn : v = n) :
    ¬ onlyTacho n := by
  have range : paramInRange (cardParam d) v = (decide (16 ≤ v) && decide (v ≤ 95) || decide (v = -1)) := by
    cases d <;> rfl
  rw [range] at h
  simp only [Bool.or_eq_true, Bool.and_eq_true, decide_eq_true_iff] at h
  unfold onlyTacho
  omega

theorem param_of_immediate (s : State) {id : Nat} (h : deferred id = false) : s.param id = s.held id := by
  unfold State.param
  rw [h]
  rfl

theorem paramChanged_card (b : State) (d : Driver) : b.paramChanged (cardParam d) = b.changeCardSlot d := by
  cases d <;> rfl

theorem paramChanged_dimming (b : State) {id : Nat} (h : id = 4 ∨ id = 5) : b.paramChanged id = b.updateDuty := by
  rcases h with rfl | rfl <;> rfl

/-- Settles O19: the checks, the value held, and what each block that follows a parameter makes of it. -/
theorem setParam : Obligations.SetParam := by
  intro s r rest h hs
  refine ⟨setParam_refused h hs, fun hid hrange hrel hok => ?_⟩
  refine ⟨_, _, setParam_accepted h hs hid hrange hrel, answered_setHeld .., ?_⟩
  have held (id : Nat) := held_setHeld (answered s r rest .ok (s32 (s.held (r.byte 2)))) (r.byte 2) id (r.signedLong 3)
    (by omega)
  have inEffect : ((answered s r rest .ok (s32 (s.held (r.byte 2)))).setHeld (r.byte 2) (r.signedLong 3)).mgmt.inEffect =
      s.mgmt.inEffect := congrArg (fun m => m.inEffect) (answered_mgmt s r rest .ok _)
  have tacho : ((answered s r rest .ok (s32 (s.held (r.byte 2)))).setHeld (r.byte 2) (r.signedLong 3)).tacho = s.tacho :=
    answered_tacho ..
  have slot (n : Nat) : ((answered s r rest .ok (s32 (s.held (r.byte 2)))).setHeld (r.byte 2) (r.signedLong 3)).slot n =
      s.slot n := answered_slot ..
  generalize (answered s r rest .ok (s32 (s.held (r.byte 2)))).setHeld (r.byte 2) (r.signedLong 3) = b at *
  simp only [answered_held] at held
  have driver (d : Driver) : b.driver d = s.driver d := driver_of_tacho tacho d
  have new (himm : deferred (r.byte 2) = false) : b.param (r.byte 2) = r.signedLong 3 := by
    rw [param_of_immediate b himm, held, if_pos rfl]
  have R := ripple_paramChanged onlyTacho (fun _ h => h) b (r.byte 2)
  have same (id : Nat) : (b.paramChanged (r.byte 2)).held id = b.held id := congrArg (fun m => m.get id 0) R.heldBank
  refine ⟨by rw [same, held, if_pos rfl], fun id hne => by rw [same, held, if_neg hne], R.inEffect.trans inEffect, R,
    paramChanged_other b _, fun hdim => ?_, fun hspeed => ?_, fun d hd => ?_, fun hlimit => ?_⟩
  · rw [paramChanged_dimming b hdim]
    exact updateDuty_followed b
  · rw [hspeed]
    exact judges_spec b
  · rw [hd] at hrange new ⊢
    have hnew : b.param (cardParam d) = r.signedLong 3 := new (by cases d <;> rfl)
    obtain ⟨withdrawn, empty, inserted⟩ := cardSlot_followed (b := b) (d := d) (by rw [tacho]; exact hok)
      (fun n hn => cardParam_outside hrange n (hnew.symm.trans hn))
    have shows (n : Nat) : Shows b n 1 ↔ Shows s n 1 := by
      unfold Shows
      rw [slot]
    simp only [hnew, shows] at empty inserted
    rw [paramChanged_card, ← driver]
    exact ⟨b.cardDropped d, cardDropped_absent, withdrawn, empty, inserted⟩
  · rw [hlimit] at new ⊢
    have hnew : b.param 17 = r.signedLong 3 := new rfl
    refine ⟨(limitsFollowed_tacho b).trans tacho, fun d => ?_⟩
    have left := limitsFollowed_slot b d
    rwa [driver, hnew, slot] at left

end Sys2Proof.Machine
end

section
/-! The steps of a pulse one by one: what they leave of slots 1, 2 and 12, of the display's marks and
 of the stores (R107 to R116). -/

namespace Sys2Proof.Machine

/-! ### The steps as changes of the distance block and a ripple -/

/-- A change of the distance block with a ripple loses no mark of the display link. -/
theorem Travel.marked {ch : Nat → Prop} {s t : State} (h : Travel ch s t) {k : RecordKind}
    (hk : s.display.dirty.has k = true) : t.display.dirty.has k = true := (Ripple.told h).kept k hk

theorem Travel.linked {ch : Nat → Prop} {s t : State} (h : Travel ch s t) (hl : s.display.link ≠ .off) :
    t.display.link ≠ .off := fun e => hl ((Ripple.told h).on.mp e)

/-- A slot that changed has marked its record. -/
theorem Travel.marks_slot {ch : Nat → Prop} {s t : State} (h : Travel ch s t) (hl : s.display.link ≠ .off) {n : Nat}
    {k : RecordKind} (hn : Marked n k) (hne : t.slot n ≠ s.slot n) : t.display.dirty.has k = true :=
  (Ripple.told h).slots hl n k hn hne

section

variable (s : State)

theorem clearSilent_travel : Travel (fun n => n = 12 ∨ n = 13) s s.clearSilent := by
  obtain ⟨-, -, -, -, -, T⟩ := clearSilent_spec s
  exact T

theorem takeDirection_travel : Travel (fun n => n = 1 ∨ n = 13) s s.takeDirection := by
  obtain ⟨-, -, -, -, -, T⟩ := takeDirection_spec s
  exact T

theorem countPhaseB_travel : Travel (fun n => n = 12 ∨ n = 13) s s.countPhaseB := by
  obtain ⟨-, -, -, -, -, T⟩ := countPhaseB_spec s
  exact T

theorem takeInterval_travel (cleared : Bool) : Travel (fun n => n = 0 ∨ onlyTacho n) s (s.takeInterval cleared) := by
  obtain ⟨-, -, -, -, -, -, T⟩ := takeInterval_spec s cleared
  exact T

theorem accumulate_travel : Travel (fun n => n = 2 ∨ n = 13) s s.accumulate := by
  obtain ⟨-, -, -, -, T⟩ := accumulate_spec s
  exact T

/-- The first three steps of a pulse: the silent mark, the direction and the phase-B count (R116). -/
def State.pulseCounted : State := s.clearSilent.takeDirection.countPhaseB

/-- A pulse up to its speed (R116). -/
def State.pulseTimed : State := s.pulseCounted.takeInterval s.table.silentMark

theorem pulse_eq : s.pulse = s.pulseTimed.accumulate.restartZero.pulseNotice := rfl

/-- The last two steps write no slot. -/
theorem pulseEnd_eq :
    s.restartZero.pulseNotice =
      { s with
        dist.zeroTimer := s.restartZero.pulseNotice.dist.zeroTimer, tacho.watch := s.restartZero.pulseNotice.tacho.watch } := by
  rw [pulseNotice_spec]
  rfl

theorem pulseEnd_slot (n : Nat) : s.restartZero.pulseNotice.slot n = s.slot n := by
  rw [pulseEnd_eq]
  rfl

/-- What a pulse writes behind its first three steps. -/
theorem pulse_behind : Travel (fun n => n = 0 ∨ n = 2 ∨ onlyTacho n) s.pulseCounted s.pulse := by
  have timed := (takeInterval_travel s.pulseCounted s.table.silentMark).mono (dh := fun n => n = 0 ∨ n = 2 ∨ onlyTacho n)
    fun n h => by unfold onlyTacho at *; omega
  have metre := (accumulate_travel s.pulseTimed).mono (dh := fun n => n = 0 ∨ n = 2 ∨ onlyTacho n)
    fun n h => by unfold onlyTacho; omega
  exact timed.trans (metre.trans ((restartZero_spec _ _).trans (ripple_pulseNotice _ _).toTravel))

/-! ### The direction (R107) -/

theorem clearSilent_pulseReverse : s.clearSilent.pulseReverse = s.pulseReverse := by
  obtain ⟨-, hmark, hdist, -, -, T⟩ := clearSilent_spec s
  unfold State.pulseReverse State.quadrature
  rw [T.param, hmark, hdist]

theorem clearSilent_reverse : s.clearSilent.dist.reverse = s.dist.reverse := by
  obtain ⟨-, -, hdist, -, -, -⟩ := clearSilent_spec s
  rw [hdist]

/-- Slot 1 follows the direction of a pulse. -/
theorem pulse_direction :
    if s.pulseReverse = s.dist.reverse then s.pulse.slot 1 = s.slot 1
    else Shows s.pulse 1 (if s.pulseReverse then 1 else 0) := by
  have later : s.pulse.slot 1 = s.clearSilent.takeDirection.slot 1 :=
    ((pulse_behind s).slot 1 (by unfold onlyTacho; omega)).trans ((countPhaseB_travel _).slot 1 (by decide))
  have shows := takeDirection_shows s.clearSilent
  rw [clearSilent_pulseReverse, clearSilent_reverse, (clearSilent_travel s).slot 1 (by decide)] at shows
  unfold Shows at *
  rw [later]
  exact shows

/-- A new direction marks DISTANCE_PAGE (R153). -/
theorem takeDirection_marks (h : s.pulseReverse ≠ s.dist.reverse) (hl : s.display.link ≠ .off) :
    s.takeDirection.display.dirty.has .distancePage = true := by
  unfold State.takeDirection
  rw [if_neg h]
  exact writePlain_marks { s with dist.reverse := s.pulseReverse } 1 _ hl _ (.inl ⟨rfl, .inr (.inl rfl)⟩)

/-! ### The marks of slot 12 (R108, R112) -/

/-- The marks once the first three steps are done. -/
theorem pulseCounted_marks :
    s.clearSilent.takeDirection.table.silentMark = false ∧
      s.clearSilent.takeDirection.table.phaseBMark = s.table.phaseBMark := by
  obtain ⟨hsilent, hphase, -⟩ := clearSilent_spec s
  obtain ⟨hsilent', hphase', -⟩ := takeDirection_spec s.clearSilent
  exact ⟨hsilent'.trans hsilent, hphase'.trans hphase⟩

theorem pulse_phaseBMark : s.pulse.table.phaseBMark = s.pulseCounted.table.phaseBMark := by
  obtain ⟨-, timed, -⟩ := takeInterval_spec s.pulseCounted s.table.silentMark
  obtain ⟨-, metre, -⟩ := accumulate_spec s.pulseTimed
  rw [pulse_eq, pulseEnd_eq]
  exact metre.trans timed

/-- Slot 12 follows the marks, and stands where neither changed. -/
theorem pulse_sensor :
    if s.table.silentMark = false ∧ s.pulse.table.phaseBMark = s.table.phaseBMark then s.pulse.slot 12 = s.slot 12
    else (s.pulse.slot 12).value = if s.pulse.table.phaseBMark then 1 else 0 := by
  have later : s.pulse.slot 12 = s.pulseCounted.slot 12 := (pulse_behind s).slot 12 (by unfold onlyTacho; omega)
  have before : s.clearSilent.takeDirection.slot 12 = s.clearSilent.slot 12 := (takeDirection_travel _).slot 12 (by decide)
  obtain ⟨unmarked, cleared, -⟩ := clearSilent_tells s
  obtain ⟨kept, found, -⟩ := countPhaseB_tells s.clearSilent.takeDirection
  obtain ⟨-, counted, -⟩ := countPhaseB_spec s.clearSilent.takeDirection
  obtain ⟨hsilent, hphase⟩ := pulseCounted_marks s
  have counted : s.pulseCounted.table.phaseBMark = _ := counted
  rw [hphase, before] at kept
  rw [hphase, hsilent] at found
  rw [hphase] at counted
  rw [later, pulse_phaseBMark]
  by_cases hb : s.pulseCounted.table.phaseBMark = s.table.phaseBMark
  · have h12 : s.pulseCounted.slot 12 = s.clearSilent.slot 12 := kept hb
    rw [h12]
    cases hm : s.table.silentMark
    · rw [if_pos ⟨rfl, hb⟩, unmarked hm]
    · rw [if_neg (by simp), hb]
      exact cleared hm
  · have h12 : (s.pulseCounted.slot 12).value = sensorFaultValue false true := found hb
    have set : s.pulseCounted.table.phaseBMark = true := by
      rw [counted] at hb ⊢
      cases hm : s.table.phaseBMark
      · rw [hm] at hb
        simpa using hb
      · rfl
    rw [if_neg (fun h => hb h.2), h12, set]
    rfl

/-! ### The metre and the kilometre (R114, R115) -/

theorem requestCal_eq : s.requestCal = withCalWrite s := by
  unfold State.requestCal withCalWrite
  cases s.store.write <;> rfl

theorem requestCal_table : s.requestCal.table = s.table := by
  obtain ⟨-, h, -⟩ := requestCal_travel (fun _ => True) s
  exact h

theorem requestCal_dist : s.requestCal.dist = s.dist := by
  obtain ⟨h, -, -⟩ := requestCal_travel (fun _ => True) s
  exact h

end

/-- A requested write depends on the calibration, the store block, the clock and the controller alone. -/
theorem requestCal_congr {a b : State} (hs : a.store = b.store) (hi : a.ign = b.ign) (hc : a.clock = b.clock)
    (hd : a.calImage = b.calImage) : a.requestCal.store = b.requestCal.store ∧ a.requestCal.ign = b.requestCal.ign := by
  unfold State.requestCal State.startCalWrite State.after
  rw [hs]
  cases b.store.write
  · exact ⟨by simp only [hc, hd], by simp only [hi]⟩
  · exact ⟨rfl, hi⟩
  · exact ⟨hs, hi⟩

/-- A metre, before the kilometre is looked at (R114). -/
def State.metreShown (s : State) : State := ({ s with dist.liveOdo := s.dist.liveOdo + 1 }).showOdometer

theorem metreShown_ripple (s : State) :
    Ripple (fun n => n = 2 ∨ n = 13) { s with dist.liveOdo := s.dist.liveOdo + 1 } s.metreShown :=
  ripple_writeOther _ _ 2 _ (.inl rfl) (.inr rfl)

theorem metreShown_value (s : State) : (s.metreShown.slot 2).value = ((s.dist.liveOdo + 1) / 100 : Nat) :=
  writeOther_value _ 2 _ (by decide) (by decide)

theorem addMetre_eq {s : State} (h : s.dist.liveOdo < 4294967295) :
    s.addMetre =
      if s.metreShown.dist.storedOdo + 1000 ≤ s.metreShown.dist.liveOdo then s.metreShown.storeOdometer
      else s.metreShown := by
  unfold State.addMetre
  rw [if_pos h]
  rfl

theorem addMetre_full {s : State} (h : ¬ s.dist.liveOdo < 4294967295) : s.addMetre = s := if_neg h

/-- What a metre leaves of slot 2 and of the stores, by whether the odometers moved. -/
structure MetreTaken (s t : State) : Prop where
  still : t.dist.liveOdo = s.dist.liveOdo → t.slot 2 = s.slot 2
  moved : t.dist.liveOdo ≠ s.dist.liveOdo → (t.slot 2).value = (t.dist.liveOdo / 100 : Nat)
  unstored : t.dist.storedOdo = s.dist.storedOdo → t.store = s.store ∧ t.ign = s.ign
  stored : t.dist.storedOdo ≠ s.dist.storedOdo →
    t.store = (withCalWrite { s with dist := t.dist }).store ∧ t.ign = (withCalWrite { s with dist := t.dist }).ign

theorem MetreTaken.none {s t : State} (hl : t.dist.liveOdo = s.dist.liveOdo) (ho : t.dist.storedOdo = s.dist.storedOdo)
    (h2 : t.slot 2 = s.slot 2) (hs : t.store = s.store) (hi : t.ign = s.ign) : MetreTaken s t :=
  ⟨fun _ => h2, fun h => absurd hl h, fun _ => ⟨hs, hi⟩, fun h => absurd ho h⟩

/-- The stored odometer takes the live one: the calibration is written with it (R115). -/
theorem storeOdometer_written {s t : State} (hs : t.store = s.store) (hi : t.ign = s.ign) (hc : t.clock = s.clock) :
    t.storeOdometer.store = (withCalWrite { s with dist := t.storeOdometer.dist }).store ∧
      t.storeOdometer.ign = (withCalWrite { s with dist := t.storeOdometer.dist }).ign := by
  have hd : t.storeOdometer.dist = { t.dist with storedOdo := t.dist.liveOdo } := requestCal_dist _
  rw [hd, ← requestCal_eq]
  exact requestCal_congr hs hi hc rfl

theorem addMetre_taken (s : State) : MetreTaken s s.addMetre := by
  by_cases h : s.dist.liveOdo < 4294967295
  · have R := metreShown_ripple s
    have hd := R.dist
    have live : s.metreShown.dist.liveOdo = s.dist.liveOdo + 1 := by rw [hd]
    have odo : s.metreShown.dist.storedOdo = s.dist.storedOdo := by rw [hd]
    have value : (s.metreShown.slot 2).value = (s.metreShown.dist.liveOdo / 100 : Nat) := by
      rw [live]
      exact metreShown_value s
    rw [addMetre_eq h]
    split
    · next hk =>
      have hd' : s.metreShown.storeOdometer.dist =
          { s.metreShown.dist with storedOdo := s.metreShown.dist.liveOdo } := requestCal_dist _
      have h2 : s.metreShown.storeOdometer.slot 2 = s.metreShown.slot 2 := by
        unfold State.slot State.storeOdometer
        rw [requestCal_table]
      refine ⟨fun e => ?_, fun _ => ?_, fun e => ?_, fun _ => storeOdometer_written R.store R.ign R.clock⟩
      · rw [hd'] at e
        have e : s.metreShown.dist.liveOdo = s.dist.liveOdo := e
        omega
      · rw [h2, hd']
        exact value
      · rw [hd'] at e
        have e : s.metreShown.dist.liveOdo = s.dist.storedOdo := e
        omega
    · exact ⟨fun e => by omega, fun _ => value, fun _ => ⟨R.store, R.ign⟩, fun e => absurd odo e⟩
  · rw [addMetre_full h]
    exact .none rfl rfl rfl rfl rfl

theorem accumulate_taken (s : State) : MetreTaken s s.accumulate := by
  obtain ⟨-, -, below, reached, -⟩ := accumulate_spec s
  by_cases h : s.dist.accumulator + 1000 < s.dist.kFactor
  · rw [below h]
    exact .none rfl rfl rfl rfl rfl
  · rw [reached h]
    have taken := addMetre_taken { s with dist.accumulator := s.dist.accumulator + 1000 - s.dist.kFactor }
    exact { taken with }

end Sys2Proof.Machine
end

section
/-! A pulse whole, its alerts, and the accepted edges (R106 to R116): O54. -/

namespace Sys2Proof.Machine

theorem exec_filterStabilityExpiry (s : State) (p : Pin) :
    exec (.filterStabilityExpiry p) s = onExpiry (s.stability p) (fun t => t.acceptEdge p) s := rfl

/-! ### The interval (R109, R110) -/

theorem ringAfter_first {d : Distance} (h : d.lastPulse = none) (now : Nat) : d.ringAfter now = d.ring := by
  unfold Distance.ringAfter
  rw [h]

theorem ringAfter_next {d : Distance} {last : Nat} (h : d.lastPulse = some last) (now : Nat) :
    d.ringAfter now =
      if 4000000 < now - last then []
      else if d.ring.length < 8 then d.ring ++ [now - last]
      else (d.ring ++ [now - last]).tail := by
  have room : ringRoom = 8 := rfl
  unfold Distance.ringAfter
  rw [h]
  simp only [List.length_append, List.length_singleton, room]
  by_cases hg : 4000000 < now - last
  · rw [if_neg (by omega), if_pos hg]
  · rw [if_pos (by omega), if_neg hg]
    by_cases hr : d.ring.length < 8
    · rw [if_neg (by omega), if_pos hr]
    · rw [if_pos (by omega), if_neg hr]

/-- Slot 0 after a pulse, by the ring that the pulse leaves. -/
theorem pulse_speed (s : State) :
    (s.pulse.dist.ring ≠ [] → Shows s.pulse 0 (ringSpeed s.pulse.dist.ring s.dist.kFactor)) ∧
      (s.pulse.dist.ring = [] → s.table.silentMark = true → Shows s.pulse 0 0) ∧
      (s.pulse.dist.ring = [] → s.table.silentMark = false → s.pulse.slot 0 = s.slot 0) := by
  obtain ⟨-, -, -, -, -, -, -, -, -, -, -, -, -, hring, hslot, -⟩ := pulse_spec s _ rfl
  unfold Shows
  rw [hring, hslot]
  cases s.dist.ringAfter s.clock with
  | nil =>
    refine ⟨fun hn => absurd rfl hn, fun _ hc => ?_, fun _ hc => ?_⟩ <;> rw [hc]
    · exact ⟨rfl, rfl⟩
    · exact if_neg Bool.false_ne_true
  | cons k l =>
    exact ⟨fun _ => ⟨rfl, rfl⟩, fun hn => absurd hn (List.cons_ne_nil k l), fun hn => absurd hn (List.cons_ne_nil k l)⟩

/-- A speed written marks DISTANCE_PAGE (R153). -/
theorem takeInterval_marks {s : State} {cleared : Bool} (h : s.dist.ringAfter s.clock ≠ [] ∨ cleared = true)
    (hl : s.display.link ≠ .off) : (s.takeInterval cleared).display.dirty.has .distancePage = true := by
  unfold State.takeInterval
  simp only []
  split
  · next he =>
    rw [if_pos (h.resolve_left (fun hn => hn he))]
    exact writeSpeed_marks _ _ hl
  · exact writeSpeed_marks _ _ hl

/-! ### What a pulse leaves (R116) -/

section

variable (s : State)

theorem pulse_reverse : s.pulse.dist.reverse = s.pulseReverse := by
  obtain ⟨-, -, -, -, -, -, -, -, -, hreverse, -⟩ := pulse_spec s _ rfl
  exact hreverse

/-- The first four steps leave the odometers, the store block and the controller. -/
theorem pulseTimed_keeps :
    s.pulseTimed.dist.liveOdo = s.dist.liveOdo ∧ s.pulseTimed.dist.storedOdo = s.dist.storedOdo ∧
      s.pulseTimed.store = s.store ∧ s.pulseTimed.ign = s.ign ∧ s.pulseTimed.clock = s.clock := by
  obtain ⟨-, -, d1, s1, i1, T1⟩ := clearSilent_spec s
  obtain ⟨-, -, d2, s2, i2, T2⟩ := takeDirection_spec s.clearSilent
  obtain ⟨-, -, d3, s3, i3, T3⟩ := countPhaseB_spec s.clearSilent.takeDirection
  obtain ⟨-, -, d4, s4, i4, -, T4⟩ := takeInterval_spec s.pulseCounted s.table.silentMark
  have d3 : s.pulseCounted.dist = _ := d3
  have d4 : s.pulseTimed.dist = _ := d4
  refine ⟨?_, ?_, s4.trans (s3.trans (s2.trans s1)), i4.trans (i3.trans (i2.trans i1)),
    T4.clock.trans (T3.clock.trans (T2.clock.trans T1.clock))⟩ <;> rw [d4, d3, d2, d1]

/-- The ring of a pulse is the one that its speed is worked out from. -/
theorem pulseCounted_ring : s.pulseCounted.dist.ringAfter s.pulseCounted.clock = s.pulse.dist.ring := by
  obtain ⟨-, -, -, -, -, -, -, -, -, -, -, -, -, hring, -⟩ := pulse_spec s _ rfl
  obtain ⟨-, -, d1, -, -, T1⟩ := clearSilent_spec s
  obtain ⟨-, -, d2, -, -, T2⟩ := takeDirection_spec s.clearSilent
  obtain ⟨-, -, d3, -, -, T3⟩ := countPhaseB_spec s.clearSilent.takeDirection
  have d3 : s.pulseCounted.dist = _ := d3
  have hc : s.pulseCounted.clock = s.clock := T3.clock.trans (T2.clock.trans T1.clock)
  rw [hring, hc, d3, d2, d1]
  rfl

theorem pulseTimed_slot : s.pulseTimed.slot 2 = s.slot 2 := by
  have timed := (takeInterval_travel s.pulseCounted s.table.silentMark).slot 2 (by unfold onlyTacho; omega)
  have counted := (countPhaseB_travel s.clearSilent.takeDirection).slot 2 (by decide)
  exact timed.trans (counted.trans (((takeDirection_travel _).slot 2 (by decide)).trans
    ((clearSilent_travel s).slot 2 (by decide))))

/-- Slot 2, the store block and the controller after a pulse are what its metre leaves. -/
theorem pulse_taken :
    (s.pulse.dist.liveOdo = s.dist.liveOdo → s.pulse.slot 2 = s.slot 2) ∧
      (s.pulse.dist.liveOdo ≠ s.dist.liveOdo → (s.pulse.slot 2).value = (s.pulse.dist.liveOdo / 100 : Nat)) ∧
      (s.pulse.dist.storedOdo = s.dist.storedOdo → s.pulse.store = s.store ∧ s.pulse.ign = s.ign) ∧
      (s.pulse.dist.storedOdo ≠ s.dist.storedOdo →
        s.pulse.store = (withCalWrite { s with dist := s.pulse.dist }).store ∧
          s.pulse.ign = (withCalWrite { s with dist := s.pulse.dist }).ign) := by
  have taken := accumulate_taken s.pulseTimed
  obtain ⟨hlive, hodo, hstore, hign, hclock⟩ := pulseTimed_keeps s
  have last := pulseEnd_eq s.pulseTimed.accumulate
  rw [← pulse_eq] at last
  have h2 : s.pulse.slot 2 = s.pulseTimed.accumulate.slot 2 := by
    rw [pulse_eq]
    exact pulseEnd_slot _ 2
  have hl : s.pulse.dist.liveOdo = s.pulseTimed.accumulate.dist.liveOdo := by rw [last]
  have ho : s.pulse.dist.storedOdo = s.pulseTimed.accumulate.dist.storedOdo := by rw [last]
  have hs : s.pulse.store = s.pulseTimed.accumulate.store := by rw [last]
  have hi : s.pulse.ign = s.pulseTimed.accumulate.ign := by rw [last]
  have image : ({ s.pulseTimed with dist := s.pulseTimed.accumulate.dist } : State).calImage =
      ({ s with dist := s.pulse.dist } : State).calImage := by
    unfold State.calImage
    rw [last]
  have write := requestCal_congr (a := { s.pulseTimed with dist := s.pulseTimed.accumulate.dist })
    (b := { s with dist := s.pulse.dist }) hstore hign hclock image
  rw [requestCal_eq, requestCal_eq] at write
  obtain ⟨wstore, wign⟩ := write
  refine ⟨fun e => ?_, fun e => ?_, fun e => ?_, fun e => ?_⟩
  · exact h2.trans ((taken.still (hl.symm.trans (e.trans hlive.symm))).trans (pulseTimed_slot s))
  · rw [h2, hl]
    exact taken.moved fun e' => e (hl.trans (e'.trans hlive))
  · obtain ⟨es, ei⟩ := taken.unstored (ho.symm.trans (e.trans hodo.symm))
    exact ⟨hs.trans (es.trans hstore), hi.trans (ei.trans hign)⟩
  · obtain ⟨es, ei⟩ := taken.stored fun e' => e (ho.trans (e'.trans hodo))
    exact ⟨hs.trans (es.trans wstore), hi.trans (ei.trans wign)⟩

/-- What a pulse marks for the display link (R153). -/
theorem pulse_marks (hl : s.display.link ≠ .off)
    (h : s.pulse.dist.ring ≠ [] ∨ s.table.silentMark = true ∨ s.pulse.dist.reverse ≠ s.dist.reverse ∨
      s.pulse.slot 2 ≠ s.slot 2) : s.pulse.display.dirty.has .distancePage = true := by
  have timed (h : s.pulse.dist.ring ≠ [] ∨ s.table.silentMark = true) :
      s.pulse.display.dirty.has .distancePage = true := by
    have linked := (countPhaseB_travel _).linked ((takeDirection_travel _).linked ((clearSilent_travel s).linked hl))
    rw [← pulseCounted_ring] at h
    have hm : s.pulseTimed.display.dirty.has .distancePage = true := takeInterval_marks h linked
    rw [pulse_eq, pulseEnd_eq]
    exact (accumulate_travel s.pulseTimed).marked hm
  rcases h with h | h | h | h
  · exact timed (.inl h)
  · exact timed (.inr h)
  · have hr : s.clearSilent.pulseReverse ≠ s.clearSilent.dist.reverse := by
      rwa [clearSilent_pulseReverse, clearSilent_reverse, ← pulse_reverse]
    have hm := takeDirection_marks _ hr ((clearSilent_travel s).linked hl)
    exact (pulse_behind s).marked ((countPhaseB_travel _).marked hm)
  · exact (pulse_travel s).marks_slot hl (.inl ⟨rfl, .inr (.inr rfl)⟩) h

end

/-! ### The alerts of a pulse (R108, R112) -/

theorem travelled_eq (a t : State) : travelled a t = a.travelAs t := rfl

/-- A release, where it is one, leaves what is watched, and nothing on its way. -/
theorem release_if_calm {u : State} (c : Bool) (code : Nat) (o : Origin) (hb : u.alert.backlog = [])
    (hw : u.watched 13 = false) :
    (if c then u.release code o else u).telltale.rules = u.telltale.rules ∧
      (if c then u.release code o else u).alert.backlog = [] := by
  cases c
  · exact ⟨rfl, hb⟩
  · exact release_calm u code o hb hw

/-- A push, where it is one, leaves what is watched. -/
theorem push_if_calm {v : State} (c : Bool) (code : Nat) (severity : Severity) (o : Origin) (hb : v.alert.backlog = [])
    (hw : v.watched 13 = false) : (if c then v.push code severity o else v).telltale.rules = v.telltale.rules := by
  cases c
  · rfl
  · exact (push_calm v code severity o hb hw).1

/-- The release behind the silent mark and the push behind the phase-B count are all that a pulse sends of its own. -/
theorem pulse_alerts (s : State) : PulseAlerts s s.pulse := by
  intro cleared fault hcleared hfault
  obtain ⟨-, -, u, Ru, Hu, hclear⟩ := clearSilent_tells s
  obtain ⟨-, -, v, Rv, Hv, hflag, hcount⟩ := countPhaseB_tells s.clearSilent.takeDirection
  obtain ⟨-, -, d1, -, -, T1⟩ := clearSilent_spec s
  obtain ⟨-, -, d2, -, -, T2⟩ := takeDirection_spec s.clearSilent
  have same : (s.clearSilent.takeDirection.param 7 = 0 ∧ s.clearSilent.takeDirection.dist.phaseB = 63) ↔
      (s.param 7 = 0 ∧ s.dist.phaseB = 63) := by
    rw [T2.param, T1.param, d2, d1]
  rw [← hcleared] at hclear
  simp only [same, ← hfault] at hflag hcount
  have hcount : s.pulseCounted = _ := hcount
  refine ⟨u, v, Ru, ?_, fun hf => hflag (of_decide_eq_true (hfault ▸ hf)), ?_, fun ⟨hb, hw, hp⟩ => ?_⟩
  · rw [travelled_eq, ← hclear]
    exact Travel.trans (T2.mono (dh := fun n => n = 1 ∨ n = 12 ∨ n = 13) fun n h => by omega)
      (Travel.mono (s := s.clearSilent.takeDirection) (t := v) Rv fun n h => .inr h)
  · rw [travelled_eq, ← hcount]
    exact pulse_behind s
  · have quiet := Hu (hw 12 (by simp))
    have ub : u.alert.backlog = [] := by rw [quiet.alert, hb]
    have released := release_if_calm cleared 0xF102 .sensor ub ((quiet.watched 13).trans (hw 13 (by simp)))
    rw [← hclear] at released ⊢
    have rulesA : s.clearSilent.telltale.rules = s.telltale.rules := released.1.trans quiet.rules
    have turned := hushed_takeDirection s.clearSilent ((watched_rules rulesA).trans (hw 1 (by simp)))
    have rulesB : s.clearSilent.takeDirection.telltale.rules = s.telltale.rules := turned.rules.trans rulesA
    have found := Hv ((watched_rules rulesB).trans (hw 12 (by simp)))
    have rulesV : v.telltale.rules = s.telltale.rules := found.rules.trans rulesB
    have vb : v.alert.backlog = [] := by rw [found.alert, turned.alert, released.2]
    have pushed := push_if_calm fault 0xF102 .caution .sensor vb ((watched_rules rulesV).trans (hw 13 (by simp)))
    rw [← hcount] at pushed ⊢
    have rulesC : s.pulseCounted.telltale.rules = s.telltale.rules := pushed.trans rulesV
    have counted := countPhaseB_travel s.clearSilent.takeDirection
    have timed := hushed_takeInterval s.pulseCounted s.table.silentMark ((watched_rules rulesC).trans (hw 0 (by simp)))
      fun id hid => by
        have e : s.pulseCounted.param id = s.param id := (counted.param id).trans ((T2.param id).trans (T1.param id))
        rw [e]
        exact hp id hid
    have metre := hushed_accumulate s.pulseTimed ((timed.watched 2).trans ((watched_rules rulesC).trans (hw 2 (by simp))))
    have last := (timed.trans metre).trans (hushed_notice s.pulseTimed.accumulate)
    exact ⟨quiet.alert, found.alert.trans turned.alert, last.alert⟩

end Sys2Proof.Machine
end

section
/-! The accepted edges (R106 to R108, R116): O54. -/

namespace Sys2Proof.Machine

/-! ### SPA (R106, R116) -/

theorem acceptEdge_fall {s : State} (h : s.pins.spa = false) :
    s.acceptEdge .spa = { s with dist.spaTimer := none, dist.spaLevel := false } := by
  have e : ({ s with dist.spaTimer := none, dist.spaLevel := s.pins.spa } : State) =
      { s with dist.spaTimer := none, dist.spaLevel := false } := by rw [h]
  rw [← e]
  exact if_neg (by rw [Bool.not_eq_true]; exact h)

/-- An accepted rise of SPA, before its pulse. -/
def State.spaRisen (s : State) : State := { s with dist.spaTimer := none, dist.spaLevel := true }

theorem acceptEdge_rise {s : State} (h : s.pins.spa = true) : s.acceptEdge .spa = s.spaRisen.pulse := by
  have e : ({ s with dist.spaTimer := none, dist.spaLevel := s.pins.spa } : State) = s.spaRisen := by
    rw [h]
    rfl
  rw [← e]
  exact if_pos h

/-! ### SPB (R107, R108) -/

/-- An accepted edge of SPB, before the phase-B count is looked at. -/
def State.spbTaken (s : State) : State := { s with dist.spbTimer := none, dist.spbLevel := s.pins.spb }

theorem acceptEdge_spb (s : State) : s.acceptEdge .spb = s.spbTaken.spbEdge := rfl

theorem spbEdge_single {s : State} (h : s.param 7 ≠ 0) : s.spbEdge = s := by
  unfold State.spbEdge State.quadrature
  exact if_neg (by rw [decide_eq_true_iff]; exact h)

theorem spbEdge_unmarked {s : State} (h : s.param 7 = 0) (hm : s.table.phaseBMark = false) :
    s.spbEdge = { s with dist.phaseB := 0 } := by
  unfold State.spbEdge State.quadrature
  rw [if_pos (decide_eq_true h)]
  exact if_neg (by rw [hm]; decide)

/-- The count and the mark of the phase-B fault cleared. -/
def State.phaseBCleared (s : State) : State := ({ s with dist.phaseB := 0 }).setMarks s.table.silentMark false

theorem phaseBCleared_silentMark (s : State) : s.phaseBCleared.table.silentMark = s.table.silentMark := by
  obtain ⟨h, -⟩ := setMarks_spec { s with dist.phaseB := 0 } s.table.silentMark false
  exact h

theorem spbEdge_marked {s : State} (h : s.param 7 = 0) (hm : s.table.phaseBMark = true) :
    s.spbEdge = if s.table.silentMark then s.phaseBCleared else s.phaseBCleared.release 0xF102 .sensor := by
  rw [← phaseBCleared_silentMark]
  unfold State.spbEdge State.quadrature
  rw [if_pos (decide_eq_true h)]
  exact if_pos hm

theorem phaseBCleared_ripple (s : State) :
    Ripple (fun n => n = 12 ∨ n = 13) { s with dist.phaseB := 0, table.phaseBMark := false } s.phaseBCleared := by
  obtain ⟨hsilent, hphase, hdist, hstore, hign, T⟩ := setMarks_spec { s with dist.phaseB := 0 } s.table.silentMark false
  have R : Ripple (fun n => n = 12 ∨ n = 13) (({ s with dist.phaseB := 0 } : State).travelAs s.phaseBCleared) s.phaseBCleared := T
  have e : ({ s with dist.phaseB := 0 } : State).travelAs s.phaseBCleared =
      { s with dist.phaseB := 0, table.phaseBMark := false } := by
    unfold State.travelAs State.phaseBCleared
    rw [hsilent, hphase, hdist, hstore, hign]
  rwa [e] at R

theorem phaseBCleared_value {s : State} (hm : s.table.phaseBMark = true) :
    (s.phaseBCleared.slot 12).value = if s.table.silentMark then 2 else 0 :=
  setMarks_shows { s with dist.phaseB := 0 } s.table.silentMark false
    (.inr fun e => Bool.noConfusion (hm.symm.trans e))

theorem phaseBCleared_alert {s : State} (h : s.watched 12 = false) : s.phaseBCleared.alert = s.alert :=
  (hushed_setMarks { s with dist.phaseB := 0 } s.table.silentMark false h).alert

/-- The release, where the silent mark does not hold it back, leaves slot 12 as the marks have it. -/
theorem spbEdge_leaves {s : State} (h : s.param 7 = 0) (hm : s.table.phaseBMark = true) :
    (s.spbEdge.slot 12).value = (if s.table.silentMark then 2 else 0) ∧
      Ripple (fun n => n = 12 ∨ n = 13) { s with dist.phaseB := 0, table.phaseBMark := false } s.spbEdge := by
  have R := phaseBCleared_ripple s
  have value := phaseBCleared_value hm
  rw [spbEdge_marked h hm]
  generalize s.table.silentMark = silent at value
  cases silent
  · have released := ripple_release (· = 13) s.phaseBCleared 0xF102 .sensor rfl
    rw [← released.slots 12 (by decide)] at value
    exact ⟨value, R.trans (released.mono fun _ => .inr)⟩
  · exact ⟨value, R⟩

/-- Settles O54: an edge of SPA that rises is a pulse, with what each of its steps leaves; an
 edge of SPB clears the phase-B count. -/
theorem acceptedEdges : Obligations.AcceptedEdges := by
  refine ⟨fun s due hdue hlow => ?_, fun s due hdue hhigh => ?_,
    fun s due hdue => ⟨fun h7 => ?_, fun h7 hm => ?_, fun h7 hm => ?_⟩⟩
  · rw [exec_filterStabilityExpiry, onExpiry_running (show s.stability .spa = some due from hdue),
      acceptEdge_fall (s := s.reach due) hlow]
  · refine ⟨_, by rw [exec_filterStabilityExpiry, onExpiry_running (show s.stability .spa = some due from hdue),
      acceptEdge_rise (s := s.reach due) hhigh], ?_⟩
    have alerts := pulse_alerts (s.reach due).spaRisen
    have T := pulse_travel (s.reach due).spaRisen
    have direction := pulse_direction (s.reach due).spaRisen
    have sensor := pulse_sensor (s.reach due).spaRisen
    have marks := pulse_marks (s.reach due).spaRisen
    obtain ⟨fast, stopped, slow⟩ := pulse_speed (s.reach due).spaRisen
    obtain ⟨still, moved, unstored, stored⟩ := pulse_taken (s.reach due).spaRisen
    obtain ⟨hsilent, hspaTimer, hspaLevel, hspbLevel, hspbTimer, hreject, hhistory, hk, hsealed, hreverse, hphaseB, hmark,
      hlast, hring, -, haccumulator, hlive, hstored, -, hzero, hwatch⟩ := pulse_spec (s.reach due).spaRisen _ rfl
    rw [← pulse_reverse] at direction
    generalize (s.reach due).spaRisen.pulse = t at *
    have R : Ripple (fun n => n = 0 ∨ n = 1 ∨ n = 2 ∨ n = 12 ∨ onlyTacho n) ((s.reach due).travelAs t) t := T
    unfold State.travelAs at R
    rw [hsilent] at R
    refine ⟨hsilent, hspaTimer, hspaLevel, hspbLevel, hspbTimer, hreject, hhistory, hk, hsealed, hreverse, hphaseB, hmark,
      hlast, fun hn => hring.trans (ringAfter_first hn _), fun last hl => hring.trans (ringAfter_next hl _), fast, stopped, slow,
      haccumulator, hlive, hstored, unstored, stored, direction, ?_, marks, sensor, alerts, hzero, hwatch, R⟩
    split
    · next e => exact still e
    · next e => exact moved e
  · rw [exec_filterStabilityExpiry, onExpiry_running (show s.stability .spb = some due from hdue), acceptEdge_spb,
      spbEdge_single (s := (s.reach due).spbTaken) h7]
    rfl
  · rw [exec_filterStabilityExpiry, onExpiry_running (show s.stability .spb = some due from hdue), acceptEdge_spb,
      spbEdge_unmarked (s := (s.reach due).spbTaken) h7 hm]
    rfl
  · obtain ⟨value, R⟩ := spbEdge_leaves (s := (s.reach due).spbTaken) h7 hm
    exact ⟨(s.reach due).spbTaken.phaseBCleared, _,
      by rw [exec_filterStabilityExpiry, onExpiry_running (show s.stability .spb = some due from hdue), acceptEdge_spb],
      value, spbEdge_marked (s := (s.reach due).spbTaken) h7 hm, phaseBCleared_alert (s := (s.reach due).spbTaken),
      phaseBCleared_ripple (s.reach due).spbTaken, R⟩

end Sys2Proof.Machine
end

section
/-! The Alert Stack through the operations that the commands come to (R89, R100): a ripple keeps its size and its codes, and an empty one
in SLEEP; SLEEP entry and WAKING entry empty it. -/

namespace Sys2Proof

open Machine

variable {s t : State}

/-! ### What keeps the stack -/

/-- A change of other blocks. -/
theorem AlertsOk.same (h : AlertsOk s) (hs : t.alert.stack = s.alert.stack) (hp : t.ign.power = s.ign.power) : AlertsOk t := by
  unfold AlertsOk
  rw [hs, hp]
  exact h

/-- The stack as it was, outside SLEEP. -/
theorem AlertsOk.up (h : AlertsOk s) (hs : t.alert.stack = s.alert.stack) (hp : t.ign.power ≠ .sleep) : AlertsOk t := by
  obtain ⟨hk, -⟩ := h
  exact ⟨by rw [hs]; exact hk, fun e => absurd e hp⟩

/-- An empty stack, in whatever power state. -/
theorem alertsOk_empty (h : t.alert.stack = []) : AlertsOk t := ⟨by rw [h]; exact stackOk_nil, fun _ => h⟩

theorem AlertsOk.ripple {ch ev : Nat → Prop} (h : AlertsOk s) (R : Ripple ch s t ev) : AlertsOk t := by
  obtain ⟨hk, hz⟩ := h
  exact ⟨R.stack hk, fun hp => by rw [R.ign] at hp; exact R.asleep hp (hz hp)⟩

theorem AlertsOk.travel {ch : Nat → Prop} (h : AlertsOk s) (T : Travel ch s t) : AlertsOk t := by
  have hs : AlertsOk (s.travelAs t) := h.same rfl rfl
  exact hs.ripple T

/-! ### Shared operations -/

theorem AlertsOk.send (h : AlertsOk s) (l : List AlertAction) : AlertsOk (s.send l) :=
  h.ripple (ripple_send (fun _ => True) s l trivial)

theorem AlertsOk.push (h : AlertsOk s) (code : Nat) (v : Severity) (o : Origin) : AlertsOk (s.push code v o) := h.send _

theorem AlertsOk.release (h : AlertsOk s) (code : Nat) (o : Origin) : AlertsOk (s.release code o) := h.send _

theorem AlertsOk.raise (h : AlertsOk s) (f : EventFlag) : AlertsOk (s.raise f) := h.ripple (ripple_raise (fun _ => True) s f)

theorem AlertsOk.offer (h : AlertsOk s) (f : TxFrame) : AlertsOk (s.offer f) := h.ripple (ripple_offer (fun _ => True) s f)

theorem AlertsOk.setPort (h : AlertsOk s) (p : Port) (b : PortBlock) : AlertsOk (s.setPort p b) := by
  cases p <;> exact h.same rfl rfl

theorem AlertsOk.markDirty (h : AlertsOk s) (k : List RecordKind) : AlertsOk (s.markDirty k) :=
  h.ripple (ripple_markDirty (fun _ => True) s k)

theorem AlertsOk.settleLamps (h : AlertsOk s) : AlertsOk s.settleLamps := h.ripple (ripple_settleLamps (fun _ => True) s)

theorem AlertsOk.writePlain (h : AlertsOk s) (n : Nat) (w : SlotWrite) : AlertsOk (s.writePlain n w) :=
  h.ripple (ripple_writePlain (fun _ => True) s n w trivial trivial)

theorem AlertsOk.changeSlot (h : AlertsOk s) (n : Nat) (c : Cause) (r : SlotRecord) : AlertsOk (s.changeSlot n c r) :=
  h.ripple (ripple_changeSlot (fun _ => True) (fun _ _ => trivial) s n c r trivial)

theorem AlertsOk.writeSpeed (h : AlertsOk s) (w : SlotWrite) : AlertsOk (s.writeSpeed w) := h.changeSlot _ _ _

theorem AlertsOk.setMarks (h : AlertsOk s) (a b : Bool) : AlertsOk (s.setMarks a b) := by
  obtain ⟨-, -, -, -, -, T⟩ := setMarks_spec s a b
  exact h.travel T

theorem AlertsOk.requestCal (h : AlertsOk s) : AlertsOk s.requestCal := by
  obtain ⟨-, -, T⟩ := requestCal_travel (fun _ => True) s
  exact h.travel T

theorem AlertsOk.storeOdometer (h : AlertsOk s) : AlertsOk s.storeOdometer := by
  have hs : AlertsOk { s with dist.storedOdo := s.dist.liveOdo } := h.same rfl rfl
  exact hs.requestCal

theorem AlertsOk.minuteEvent (h : AlertsOk s) (d : Driver) : AlertsOk (s.minuteEvent d) :=
  h.ripple (ripple_minuteEvent (fun _ => True) (fun _ _ => trivial) s d)

theorem AlertsOk.enqueue (h : AlertsOk s) (d : Driver) (attempt : Nat) : AlertsOk (s.enqueue d attempt) :=
  h.ripple (ripple_enqueue (fun _ => True) (fun _ _ => trivial) s d attempt)

theorem AlertsOk.evalAlone (h : AlertsOk s) (i : Nat) : AlertsOk (s.evalAlone i) :=
  (h.ripple (ripple_evalRule (fun _ => True) s i (fun _ => True) (fun _ _ => trivial) (fun _ _ => trivial))).send _

theorem AlertsOk.acknowledge (h : AlertsOk s) : AlertsOk s.acknowledge :=
  h.ripple (ripple_acknowledge (fun _ => True) s trivial)

theorem AlertsOk.reportFault (h : AlertsOk s) (c : Nat) : AlertsOk (s.reportFault c) := ((h.writePlain _ _).raise _).push _ _ _

theorem AlertsOk.reportValid (h : AlertsOk s) : AlertsOk s.reportValid := by
  unfold State.reportValid
  have hr : AlertsOk { s with store.report := true } := h.same rfl rfl
  split
  · exact h
  · exact (hr.release _ _).settleLamps

/-! ### The changes of power state (R188 to R191) -/

theorem AlertsOk.compareIgn (h : AlertsOk s) : AlertsOk s.compareIgn := h.same rfl rfl

theorem AlertsOk.runEntry (h : AlertsOk s) : AlertsOk s.runEntry := by
  have hr : AlertsOk { s with ign.power := .run, ign.secondTimer := s.after (ms 1000), tacho.minuteTimer := s.after (ms 60000) } :=
    h.up rfl fun e => nomatch e
  exact hr.ripple (ripple_runEntry (fun _ => True) s trivial trivial)

/-- SLEEP entry empties the stack (R100). -/
theorem alertsOk_sleepEntry (s : State) : AlertsOk s.sleepEntry := by
  obtain ⟨-, -, -, -, -, -, -, -, -, -, -, -, hk, -⟩ := sleepEntry_spec s
  exact alertsOk_empty hk

theorem AlertsOk.parkingEntry (h : AlertsOk s) : AlertsOk s.parkingEntry := by
  obtain ⟨p, q, he, R, -, hp, -, -, -, -, -, -, -, -, -, -, -, -, -, -, -, -, -, -, hk, -⟩ := parkingEntry_spec s
  have hP : AlertsOk p := h.up hk (by rw [hp]; decide)
  rw [he]
  exact (hP.ripple R).compareIgn

theorem AlertsOk.resumeRules (h : AlertsOk s) : AlertsOk s.resumeRules := by
  obtain ⟨rules, he, -⟩ := resumeRules_form s
  have hr : AlertsOk { s with telltale.rules := rules } := h.same rfl rfl
  rw [he]
  exact hr.send _

theorem AlertsOk.returnToRun (h : AlertsOk s) : AlertsOk s.returnToRun := by
  obtain ⟨x, he, hp, -, -, -, ha, -⟩ := returnToRun_form s
  have hx : AlertsOk x := h.up (by rw [ha]) (by rw [hp]; decide)
  have ht := hx.resumeRules.settleLamps.ripple (ripple_tryStart (fun _ => True) (fun _ _ => trivial) _)
  rw [he]
  exact (ht.markDirty _).compareIgn

/-- WAKING entry starts from an empty stack (R100). -/
theorem alertsOk_wakingEntry (s : State) : AlertsOk s.wakingEntry := by
  obtain ⟨R, -⟩ := wakingEntry_settled s
  have hk : s.wokenBlocks.alert.stack = [] := by rw [wokenBlocks_alert]; rfl
  have hb : AlertsOk { s.wokenBlocks with ign := s.wokenIgn } := alertsOk_empty hk
  exact hb.ripple R

theorem AlertsOk.judgeRun (h : AlertsOk s) : AlertsOk s.judgeRun := by
  unfold State.judgeRun
  split
  · exact h.runEntry
  · exact h

theorem AlertsOk.judgeSleep (h : AlertsOk s) : AlertsOk s.judgeSleep := by
  unfold State.judgeSleep
  split
  · exact alertsOk_sleepEntry s
  · exact h

/-- A channel that moves, with what the controller makes of its report (R66). -/
theorem AlertsOk.moveChannel (h : AlertsOk s) (c : Nat) (d : Channel) : AlertsOk (s.moveChannel c d) := by
  obtain ⟨reports, hn⟩ := noteChannel_only (s.putChannel c d) s.gauges c
  have hc : AlertsOk { s.putChannel c d with ign.reports := reports } := h.same rfl rfl
  unfold State.moveChannel
  simp only [hn]
  split
  · exact h.same rfl rfl
  · exact hc.judgeRun.judgeSleep

end Sys2Proof
end

section
/-! The Alert Stack through what each command of the blocks does (R89). -/

namespace Sys2Proof

open Machine

variable {s t : State}

/-! ### The ports, the intake and the stores -/

theorem AlertsOk.hearFrame (h : AlertsOk s) (p : Port) : AlertsOk (s.hearFrame p) := (h.setPort p _).ripple (hear_ripple s p)

theorem AlertsOk.sortFrame (h : AlertsOk s) (p : Port) (f : BusFrame) : AlertsOk (s.sortFrame p f) := by
  unfold State.sortFrame
  split
  · unfold State.intakeOffer
    split
    · exact (h.setPort p _).same rfl rfl
    · exact ((h.setPort p _).setPort _ _).raise _
  · exact h.setPort p _

theorem AlertsOk.countTxError (h : AlertsOk s) (p : Port) : AlertsOk (s.countTxError p) := by
  unfold State.countTxError
  simp only []
  split
  · exact (h.setPort p _).raise _
  · exact h.setPort p _

theorem AlertsOk.fallSilent (h : AlertsOk s) (p : Port) : AlertsOk (s.fallSilent p) := by
  have hw := (h.setPort p { s.port p with silence := none, lost := true, awaiting := true }).writePlain (okSlot p) (.fresh 0)
  unfold State.fallSilent
  simp only []
  split
  · exact hw.push _ _ _
  · exact hw

theorem AlertsOk.routeFrame (h : AlertsOk s) (route : Route) (r : FrameRecord) : AlertsOk (s.routeFrame route r) := by
  have hc : AlertsOk (s.withRoutes (countRoute s.intake.routes route.key (decide (r.data.length = route.length)))) := h.same rfl rfl
  unfold State.routeFrame
  simp only []
  split
  · exact hc.ripple (extract_ripple route r.data route.extractors _)
  · exact hc

theorem AlertsOk.openBuild (h : AlertsOk s) (b : Build) : AlertsOk (s.openBuild b) := by
  unfold State.openBuild State.abandonBuild
  split
  · exact (h.raise _).same rfl rfl
  · exact h.same rfl rfl

theorem AlertsOk.deleteRoute (h : AlertsOk s) (e : RouteEntry) : AlertsOk (s.deleteRoute e) := by
  obtain ⟨R, -⟩ := deleteRoute_resets s e
  have hr : AlertsOk (s.withRoutes (s.intake.routes.filter (fun f => decide (f.route.key ≠ e.route.key)))) := h.same rfl rfl
  exact hr.ripple R

theorem AlertsOk.saveRead (h : AlertsOk s) (image : ConfigImage) (equal : Bool) : AlertsOk (s.saveRead image equal) := by
  have hs (c : StoreContents ConfigImage) : AlertsOk
      { s with store.save := none, store.saveLimit := none, ign.saveMark := false, store.config := c } := h.same rfl rfl
  unfold State.saveRead
  simp only []
  split
  · exact ((hs _).raise _).reportValid
  · exact (hs _).raise _

theorem AlertsOk.calWritten (h : AlertsOk s) : AlertsOk s.calWritten := by
  unfold State.calWritten
  split <;> exact h.same rfl rfl

/-! ### The gauges, the rules and the lamps -/

theorem AlertsOk.failChannel (h : AlertsOk s) (c : Nat) (cause : CoilFault) : AlertsOk (s.failChannel c cause) := by
  have hf : AlertsOk (s.putChannel c ((s.channel c).fail cause)) := h.same rfl rfl
  have hr : AlertsOk
      { (s.putChannel c ((s.channel c).fail cause)).reportFault c with
        ign.reports := ((s.putChannel c ((s.channel c).fail cause)).reportFault c).ign.reports.put c .fault } :=
    (hf.reportFault c).same rfl rfl
  exact hr.judgeRun.judgeSleep

theorem AlertsOk.putRule (h : AlertsOk s) (i : Nat) (r : Rule) : AlertsOk (s.putRule i r) := h.same rfl rfl

theorem AlertsOk.enableRule (h : AlertsOk s) (i : Nat) : AlertsOk (s.enableRule i) := ((h.putRule i _).evalAlone i).settleLamps

theorem AlertsOk.clearRule (h : AlertsOk s) (i : Nat) : AlertsOk (s.clearRule i) := ((h.putRule i _).send _).settleLamps

theorem AlertsOk.confirmRule (h : AlertsOk s) (i : Nat) : AlertsOk (s.confirmRule i) := ((h.putRule i _).send _).settleLamps

theorem AlertsOk.advancePhase (h : AlertsOk s) : AlertsOk s.advancePhase := by
  have hp : AlertsOk { s with telltale.phase := (s.telltale.phase + 1) % 32, telltale.phaseTimer := s.after 31250 } :=
    h.same rfl rfl
  exact hp.settleLamps

theorem AlertsOk.proveOutEnded (h : AlertsOk s) : AlertsOk s.proveOutEnded := by
  have hp : AlertsOk { s with telltale.proveOut := none, ign.proveOutRunning := false } := h.same rfl rfl
  exact hp.settleLamps.judgeRun

theorem AlertsOk.checkLamp (h : AlertsOk s) (n : Nat) (current : Bool) : AlertsOk (s.checkLamp n current) := by
  have hl : AlertsOk (s.putLamp n { openMark := !current, checked := true }) := h.same rfl rfl
  unfold State.checkLamp
  simp only []
  split
  · exact (hl.raise _).push _ _ _
  · exact hl.release _ _
  · exact hl
  · exact hl

/-! ### The inputs, the clockwork of RUN and the display -/

theorem AlertsOk.countSecond (h : AlertsOk s) : AlertsOk s.countSecond := by
  have hs : AlertsOk
      { s with ign.runSeconds := satInc 2147483647 s.ign.runSeconds, ign.secondTimer := s.after (ms 1000) } := h.same rfl rfl
  exact hs.writePlain _ _

theorem AlertsOk.ackRecognised (h : AlertsOk s) : AlertsOk s.ackRecognised := by
  have ha : AlertsOk { s with alert.ackHold := none, alert.ackArmed := false } := h.same rfl rfl
  unfold State.ackRecognised
  simp only []
  split
  · exact ha.acknowledge
  · exact ha

/-- The debounce of the ACK button leaves the stack (R95). -/
theorem AlertsOk.ackLevel (h : AlertsOk s) (pressed : Bool) : AlertsOk (s.ackLevel pressed) := by
  unfold State.ackLevel AlertBlock.ackDown AlertBlock.ackUp
  refine h.same ?_ ?_ <;> (repeat' split) <;> rfl

theorem AlertsOk.pageLevel (h : AlertsOk s) (pressed : Bool) : AlertsOk (s.pageLevel pressed) := by
  unfold State.pageLevel
  split <;> exact h.same rfl rfl

theorem AlertsOk.takeRaw (h : AlertsOk s) (p : Pin) (high : Bool) : AlertsOk (s.takeRaw p high) := by
  unfold State.takeRaw State.filterChange
  refine h.same ?_ ?_ <;> (repeat' split) <;> simp

theorem AlertsOk.acceptEdge (h : AlertsOk s) (p : Pin) : AlertsOk (s.acceptEdge p) := by
  have hf : AlertsOk ((s.setStability p none).setFiltered p (s.rawLevel p)) := h.same (by simp) (by simp)
  unfold State.acceptEdge
  cases p with
  | spa =>
    simp only []
    split
    · exact hf.travel (pulse_travel _)
    · exact hf
  | spb => exact hf.travel (spbEdge_travel _)

theorem AlertsOk.zeroExpired (h : AlertsOk s) : AlertsOk s.zeroExpired := by
  have hz : AlertsOk { s with dist.ring := [], dist.lastPulse := none, dist.zeroTimer := none } := h.same rfl rfl
  unfold State.zeroExpired
  simp only []
  split
  · exact hz
  · exact hz.writeSpeed _

theorem AlertsOk.watchExpired (h : AlertsOk s) : AlertsOk s.watchExpired := by
  have hw : AlertsOk { s with tacho.watch := none } := h.same rfl rfl
  exact (((hw.setMarks _ _).raise _).push _ _ _).writeSpeed _

theorem AlertsOk.minutePassed (h : AlertsOk s) : AlertsOk s.minutePassed := by
  have hm : AlertsOk { s with tacho.minuteTimer := s.after (ms 60000) } := h.same rfl rfl
  exact (hm.minuteEvent _).minuteEvent _

theorem AlertsOk.changeK (h : AlertsOk s) (k : Nat) : AlertsOk (s.changeK k) := by
  have hk : AlertsOk
      { s with
        dist.history := s.dist.history ++ [CalEntry.mk s.dist.kFactor k s.dist.liveOdo], dist.kFactor := k,
        dist.accumulator := 0 } := h.same rfl rfl
  exact hk.storeOdometer

theorem AlertsOk.sealNow (h : AlertsOk s) : AlertsOk s.sealNow := by
  have hs : AlertsOk { s with dist.sealed := true } := h.same rfl rfl
  exact hs.storeOdometer

theorem AlertsOk.setOdometer (h : AlertsOk s) (metres : Nat) : AlertsOk (s.setOdometer metres) := by
  have ho : AlertsOk { s with dist.liveOdo := metres, dist.storedOdo := metres, dist.accumulator := 0 } := h.same rfl rfl
  exact (ho.ripple (ripple_writeOther (fun _ => True) _ 2 _ trivial trivial)).requestCal

theorem AlertsOk.paramChanged (h : AlertsOk s) (id : Nat) : AlertsOk (s.paramChanged id) :=
  h.ripple (ripple_paramChanged (fun _ => True) (fun _ _ => trivial) s id)

theorem AlertsOk.turnPage (h : AlertsOk s) : AlertsOk s.turnPage := by
  unfold State.turnPage
  refine AlertsOk.markDirty ?_ _
  exact h.same rfl rfl

theorem AlertsOk.longPress (h : AlertsOk s) : AlertsOk s.longPress := by
  unfold State.longPress
  simp only []
  split
  · refine AlertsOk.enqueue ?_ _ _
    exact h.same rfl rfl
  · exact h.same rfl rfl

theorem AlertsOk.startRecord (h : AlertsOk s) : AlertsOk s.startRecord := by
  unfold State.startRecord
  refine h.same ?_ ?_ <;> (repeat' split) <;> rfl

theorem AlertsOk.readyUp (h : AlertsOk s) : AlertsOk s.readyUp := by
  unfold State.readyUp
  simp only []
  split <;> exact h.same rfl rfl

theorem AlertsOk.retry (h : AlertsOk s) : AlertsOk s.retry := by
  unfold State.retry
  split <;> exact h.same rfl rfl

end Sys2Proof
end

section
/-! The Alert Stack through every command and every step (R89, R100): O6. -/

namespace Sys2Proof

open Machine

variable {s t : State}

/-! ### What a classifier path, a request and an expiry keep -/

theorem AlertsOk.path {path : State → FrameRecord → Bool} {f : FrameRecord → State → State} (h : AlertsOk s)
    (ht : takeHead path f s = .next t) (hf : ∀ r u, AlertsOk u → AlertsOk (f r u)) : AlertsOk t := by
  rcases takeHead_cases ht with rfl | ⟨r, rest, -, -, rfl⟩
  · exact h
  · exact hf r _ (h.same rfl rfl)

theorem AlertsOk.expiry {timer : Timer} {f : State → State} (h : AlertsOk s) (ht : onExpiry timer f s = .next t)
    (hf : ∀ u, AlertsOk u → AlertsOk (f u)) : AlertsOk t := by
  rcases onExpiry_cases ht with rfl | ⟨due, -, rfl⟩
  · exact h
  · exact hf _ (h.same rfl rfl)

theorem AlertsOk.request {code : Nat} {judge : FrameRecord → State → Verdict} (h : AlertsOk s)
    (ht : onRequest code judge s = .next t) (hj : ∀ r u, (judge r u).Keeps AlertsOk u) : AlertsOk t :=
  h.path ht fun r u hu => hj r u _ (quiet_offer u _) (hu.offer _)

theorem alertsOk_keeps {v : Verdict} {u : State} (hv : ∀ x, AlertsOk x → AlertsOk (v.effect x)) : v.Keeps AlertsOk u :=
  fun x _ hx => hv x hx

theorem alertsOk_accepts {f : State → State} {u : State} (hf : ∀ x, AlertsOk x → AlertsOk (f x)) :
    (accepts f).Keeps AlertsOk u := alertsOk_keeps hf

theorem AlertsOk.read {code : Nat} {judge : FrameRecord → State → Verdict} (h : AlertsOk s)
    (ht : onRequest code judge s = .next t) (hj : ∀ r u, (judge r u).Reads) : AlertsOk t := by
  refine h.request ht fun r u => alertsOk_keeps fun x hx => ?_
  rcases hj r u with e | e <;> rw [e]
  · exact hx
  · exact hx.same rfl rfl

/-- A command that does its work where a condition holds. -/
theorem AlertsOk.guarded {c : Prop} [Decidable c] {u v : State} (hu : AlertsOk u) (hv : AlertsOk v) :
    AlertsOk (if c then u else v) := by
  split
  · exact hu
  · exact hv

/-! ### The supply and the controller -/

/-- The stack is empty after power-on (R100). -/
theorem alertsOk_poweredOn (s : State) : AlertsOk s.poweredOn := alertsOk_empty rfl

theorem alertsOk_start (s : State) : AlertsOk s.start := by
  unfold State.start State.sampleIgn
  split
  · exact alertsOk_wakingEntry _
  · exact alertsOk_poweredOn s

theorem alertsOk_loseSupply (s : State) : AlertsOk s.loseSupply := (alertsOk_poweredOn s).same rfl rfl

theorem AlertsOk.ignChange {high : Bool} (h : AlertsOk s) (ht : execIgnChange high s = .next t) : AlertsOk t := by
  cases ht
  exact h.guarded (AlertsOk.guarded (h.same rfl rfl) (h.same rfl rfl))

theorem AlertsOk.takeIgnLevel (h : AlertsOk s) : AlertsOk s.takeIgnLevel := by
  have hl : AlertsOk { s with ign.level := s.pins.ign, ign.timer := none } := h.same rfl rfl
  unfold State.takeIgnLevel
  simp only []
  split
  · exact alertsOk_wakingEntry _
  · exact hl.parkingEntry
  · exact hl.parkingEntry
  · exact hl.returnToRun
  · exact hl

theorem AlertsOk.restartExecute (h : AlertsOk s) (ht : execRestartExecute s = .next t) : AlertsOk t := by
  unfold execRestartExecute at ht
  split at ht
  · cases ht; exact h
  · split at ht <;> cases ht
    · exact alertsOk_start _
    · exact h

theorem AlertsOk.configSaveEnd {equal : Bool} (h : AlertsOk s) (ht : execConfigSaveEnd equal s = .next t) : AlertsOk t := by
  unfold execConfigSaveEnd at ht
  split at ht <;> cases ht
  · exact h
  · exact (h.saveRead _ _).judgeSleep

/-! ### Requests -/

theorem AlertsOk.setNoticeMask (h : AlertsOk s) (ht : execSetNoticeMask s = .next t) : AlertsOk t :=
  h.request ht fun _ u => keeps_ite (fun _ => alertsOk_keeps fun _ hx => hx.same rfl rfl) fun _ => keeps_refuse _ u _

theorem AlertsOk.setParam (h : AlertsOk s) (ht : execSetParam s = .next t) : AlertsOk t := by
  refine h.request ht fun _ _ => keeps_unlessSaving (keeps_check fun _ => keeps_check fun _ => keeps_check fun _ =>
    alertsOk_keeps fun x hx => ?_)
  have hh (id : Nat) (v : Int) : AlertsOk (x.setHeld id v) := hx.same rfl rfl
  exact (hh _ _).paramChanged _

theorem AlertsOk.routeOpen (h : AlertsOk s) (ht : execRouteOpen s = .next t) : AlertsOk t :=
  h.request ht fun _ _ => keeps_unlessSaving (keeps_check fun _ => keeps_check fun _ => keeps_check fun _ =>
    keeps_check fun _ => alertsOk_keeps fun _ hx => hx.openBuild _)

theorem alertsOk_acceptPart (u : State) (b : Build) : (acceptPart b).Keeps AlertsOk u := by
  unfold acceptPart
  split <;> exact alertsOk_keeps fun _ hx => hx.same rfl rfl

theorem AlertsOk.extA (h : AlertsOk s) (ht : execExtA s = .next t) : AlertsOk t := by
  refine h.request ht fun r u => keeps_unlessSaving ?_
  split
  · exact keeps_refuse _ u _
  · exact keeps_check fun _ => keeps_check fun _ => keeps_check fun _ => alertsOk_acceptPart u _

theorem AlertsOk.extB (h : AlertsOk s) (ht : execExtB s = .next t) : AlertsOk t := by
  refine h.request ht fun r u => keeps_unlessSaving ?_
  split
  · exact keeps_refuse _ u _
  · exact keeps_check fun _ => keeps_check fun _ => alertsOk_acceptPart u _

theorem AlertsOk.extC (h : AlertsOk s) (ht : execExtC s = .next t) : AlertsOk t := by
  refine h.request ht fun r u => keeps_unlessSaving ?_
  split
  · exact keeps_refuse _ u _
  · exact keeps_check fun _ => alertsOk_acceptPart u _

theorem AlertsOk.routeDelete (h : AlertsOk s) (ht : execRouteDelete s = .next t) : AlertsOk t := by
  refine h.request ht fun r u => keeps_unlessSaving (keeps_check fun _ => ?_)
  split
  · exact alertsOk_accepts fun _ hx => hx.deleteRoute _
  · exact keeps_ite (fun _ => alertsOk_accepts fun _ hx => hx.same rfl rfl) fun _ => keeps_refuse _ u _

theorem AlertsOk.gaugeField (h : AlertsOk s) (ht : execGaugeField s = .next t) : AlertsOk t :=
  h.request ht fun _ _ => keeps_check fun _ => keeps_check fun _ => alertsOk_keeps fun _ hx => hx.same rfl rfl

theorem AlertsOk.gaugeCommit (h : AlertsOk s) (ht : execGaugeCommit s = .next t) : AlertsOk t :=
  h.request ht fun _ _ => keeps_unlessSaving (keeps_check fun _ => keeps_check fun _ => keeps_check fun _ =>
    keeps_check fun _ => alertsOk_keeps fun _ hx => hx.moveChannel _ _)

theorem alertsOk_writePart (u : State) (i : Nat) (f : Rule → Rule) : (writePart i f).Keeps AlertsOk u :=
  alertsOk_keeps fun _ hx => hx.putRule i _

theorem AlertsOk.ruleA (h : AlertsOk s) (ht : execRuleA s = .next t) : AlertsOk t := by
  refine h.request ht fun r u => keeps_editable ?_
  split
  · exact alertsOk_writePart u _ _
  · exact keeps_refuse _ u _

theorem AlertsOk.ruleC (h : AlertsOk s) (ht : execRuleC s = .next t) : AlertsOk t := by
  refine h.request ht fun r u => keeps_editable ?_
  split
  · exact alertsOk_writePart u _ _
  · exact keeps_refuse _ u _

theorem AlertsOk.ruleD (h : AlertsOk s) (ht : execRuleD s = .next t) : AlertsOk t := by
  refine h.request ht fun r u => keeps_editable ?_
  split
  · exact keeps_refuse _ u _
  · exact keeps_check fun _ => alertsOk_writePart u _ _

theorem AlertsOk.ruleEnable (h : AlertsOk s) (ht : execRuleEnable s = .next t) : AlertsOk t :=
  h.request ht fun _ _ => keeps_unlessSaving (keeps_check fun _ => keeps_check fun _ => keeps_check fun _ =>
    alertsOk_accepts fun _ hx => hx.enableRule _)

theorem AlertsOk.ruleClear (h : AlertsOk s) (ht : execRuleClear s = .next t) : AlertsOk t :=
  h.request ht fun _ _ => keeps_unlessSaving (keeps_check fun _ => alertsOk_accepts fun _ hx => hx.clearRule _)

theorem AlertsOk.alertAck (h : AlertsOk s) (ht : execAlertAck s = .next t) : AlertsOk t := by
  refine h.request ht fun _ u => keeps_ite (fun _ => ?_) fun _ => keeps_refuse _ u _
  unfold AckResult.verdict
  split <;> exact alertsOk_keeps fun _ hx => hx.acknowledge

theorem AlertsOk.setKfactor (h : AlertsOk s) (ht : execSetKfactor s = .next t) : AlertsOk t := by
  refine h.request ht fun r u => ?_
  unfold judgeSetKfactor
  exact keeps_check fun _ => keeps_check fun _ => keeps_check fun _ => alertsOk_keeps fun _ hx => hx.changeK _

theorem AlertsOk.setOdometerRequest (h : AlertsOk s) (ht : execSetOdometer s = .next t) : AlertsOk t := by
  refine h.request ht fun r u => ?_
  unfold judgeSetOdometer
  exact keeps_check fun _ => alertsOk_keeps fun _ hx => hx.setOdometer _

theorem AlertsOk.sealOdometer (h : AlertsOk s) (ht : execSealOdometer s = .next t) : AlertsOk t :=
  h.request ht fun _ _ => keeps_check fun _ => alertsOk_keeps fun _ hx => hx.sealNow

theorem AlertsOk.cardRead (h : AlertsOk s) (ht : execCardRead s = .next t) : AlertsOk t := by
  refine h.request ht fun r u => ?_
  unfold judgeCardRead
  split
  · exact keeps_refuse _ u _
  · exact keeps_check fun _ => keeps_check fun _ => alertsOk_keeps fun _ hx => hx.enqueue _ 1

/-! ### The frames of the classifier's other paths -/

theorem AlertsOk.routedFrame (h : AlertsOk s) (ht : execRoutedFrame s = .next t) : AlertsOk t := by
  refine h.path ht fun r u hu => ?_
  split
  · exact hu.routeFrame _ r
  · exact hu

theorem AlertsOk.xferOpen (h : AlertsOk s) (ht : execXferOpen s = .next t) : AlertsOk t := by
  refine h.path ht fun r u hu => ?_
  split
  · exact hu.ripple (ripple_takeOpen onlyTacho (fun _ h => h) u _ _)
  · exact hu

theorem AlertsOk.xferData (h : AlertsOk s) (ht : execXferData s = .next t) : AlertsOk t := by
  refine h.path ht fun r u hu => ?_
  split
  · exact hu.ripple (ripple_takeData onlyTacho (fun _ h => h) u _ _)
  · exact hu

theorem AlertsOk.xferClose (h : AlertsOk s) (ht : execXferClose s = .next t) : AlertsOk t := by
  refine h.path ht fun r u hu => ?_
  split
  · exact hu.ripple (ripple_takeClose onlyTacho (fun _ h => h) u _)
  · exact hu

/-! ### The remaining commands on a port, a slot, a channel, a rule or a pin -/

theorem AlertsOk.unroutedFrame (h : AlertsOk s) (ht : execUnroutedFrame s = .next t) : AlertsOk t :=
  h.path ht fun r _ hu => hu.setPort r.port _

theorem AlertsOk.foreignMgmt (h : AlertsOk s) (ht : execForeignMgmt s = .next t) : AlertsOk t :=
  h.path ht fun _ _ hu => hu.same rfl rfl

theorem AlertsOk.badRequest (h : AlertsOk s) (ht : execBadRequest s = .next t) : AlertsOk t :=
  h.path ht fun _ _ hu => hu.offer _

theorem AlertsOk.xferStray (h : AlertsOk s) (ht : execXferStray s = .next t) : AlertsOk t :=
  h.path ht fun _ _ hu => hu.same rfl rfl

theorem AlertsOk.busOffRecovery {p : Port} (h : AlertsOk s) (ht : execBusOffRecoveryExpiry p s = .next t) : AlertsOk t :=
  h.expiry ht fun _ hu => hu.setPort p _

theorem AlertsOk.silence {p : Port} (h : AlertsOk s) (ht : execSilenceTimerExpiry p s = .next t) : AlertsOk t :=
  h.expiry ht fun _ hu => hu.fallSilent p

theorem AlertsOk.slotExpiry {n : Nat} (h : AlertsOk s) (ht : execSlotExpiry n s = .next t) : AlertsOk t :=
  h.expiry ht fun _ hu => hu.changeSlot n _ _

theorem AlertsOk.stepEvent {c : Nat} (h : AlertsOk s) (ht : execStepEvent c s = .next t) : AlertsOk t :=
  h.expiry ht fun _ hu => hu.moveChannel c _

theorem AlertsOk.homingStep {c : Nat} (h : AlertsOk s) (ht : execHomingStep c s = .next t) : AlertsOk t :=
  h.expiry ht fun _ hu => hu.moveChannel c _

theorem AlertsOk.restDelay {c : Nat} (h : AlertsOk s) (ht : execRestDelayExpiry c s = .next t) : AlertsOk t :=
  h.expiry ht fun _ hu => hu.same rfl rfl

theorem AlertsOk.confirmTimer {i : Nat} (h : AlertsOk s) (ht : execConfirmTimerExpiry i s = .next t) : AlertsOk t :=
  h.expiry ht fun _ hu => hu.confirmRule i

theorem AlertsOk.filterStability {p : Pin} (h : AlertsOk s) (ht : execFilterStabilityExpiry p s = .next t) : AlertsOk t :=
  h.expiry ht fun _ hu => hu.acceptEdge p

theorem AlertsOk.calWriteComplete (h : AlertsOk s) (ht : execCalWriteComplete s = .next t) : AlertsOk t :=
  h.expiry ht fun _ hu => hu.calWritten.judgeSleep

/-! ### Every command and every step -/

theorem AlertsOk.exec {c : Instr} (h : AlertsOk s) (ht : Machine.exec c s = .next t) : AlertsOk t := by
  cases c with
  | powerOn => cases ht; exact h.guarded (alertsOk_start s)
  | supplyLoss => cases ht; exact (alertsOk_loseSupply s).guarded h
  | ignChange => exact h.ignChange ht
  | ignTimerExpiry => exact h.expiry ht fun _ hu => hu.takeIgnLevel
  | parkingTimerExpiry => exact h.expiry ht fun u _ => alertsOk_sleepEntry u
  | secondTimerExpiry => exact h.expiry ht fun _ hu => hu.countSecond
  | validFrameReceived p f => cases ht; exact ((h.hearFrame p).sortFrame p f).guarded h
  | rxErrorDetected p => cases ht; exact (h.setPort p _).guarded h
  | txErrorDetected p => cases ht; exact (h.countTxError p).guarded h
  | busOffRecoveryExpiry => exact h.busOffRecovery ht
  | silenceTimerExpiry => exact h.silence ht
  | txFrameComplete => cases ht; exact AlertsOk.guarded (h.same rfl rfl) h
  | routedFrame => exact h.routedFrame ht
  | unroutedFrame => exact h.unroutedFrame ht
  | foreignMgmt => exact h.foreignMgmt ht
  | badRequest => exact h.badRequest ht
  | readEvents => exact h.request ht fun _ _ => alertsOk_keeps fun _ hx => hx.same rfl rfl
  | setNoticeMask => exact h.setNoticeMask ht
  | readCounters => exact h.read ht reads_readCounters
  | setParam => exact h.setParam ht
  | getParam => exact h.read ht reads_getParam
  | restart => exact h.request ht fun _ _ => keeps_unlessSaving (alertsOk_keeps fun _ hx => hx.same rfl rfl)
  | restartExecute => exact h.restartExecute ht
  | configSave => exact h.request ht fun _ _ => keeps_unlessSaving (alertsOk_keeps fun _ hx => hx.same rfl rfl)
  | configSaveEnd => exact h.configSaveEnd ht
  | configErase => exact h.request ht fun _ _ => keeps_unlessSaving (alertsOk_keeps fun _ hx => hx.same rfl rfl)
  | routeOpen => exact h.routeOpen ht
  | extA => exact h.extA ht
  | extB => exact h.extB ht
  | extC => exact h.extC ht
  | routeDelete => exact h.routeDelete ht
  | routeRead => exact h.read ht reads_routeRead
  | slotExpiry => exact h.slotExpiry ht
  | readSlot => exact h.read ht reads_readSlot
  | gaugeField => exact h.gaugeField ht
  | gaugeCommit => exact h.gaugeCommit ht
  | gaugeRead => exact h.read ht reads_gaugeRead
  | stepEvent => exact h.stepEvent ht
  | homingStep => exact h.homingStep ht
  | restDelayExpiry => exact h.restDelay ht
  | coilFaultReport c cause => cases ht; exact (h.failChannel c cause).guarded h
  | ruleA => exact h.ruleA ht
  | ruleB => exact h.request ht fun _ u => keeps_editable (alertsOk_writePart u _ _)
  | ruleC => exact h.ruleC ht
  | ruleD => exact h.ruleD ht
  | ruleEnable => exact h.ruleEnable ht
  | ruleClear => exact h.ruleClear ht
  | ruleRead => exact h.read ht reads_ruleRead
  | lampRead => exact h.read ht reads_lampRead
  | confirmTimerExpiry => exact h.confirmTimer ht
  | phaseEvent => exact h.expiry ht fun _ hu => hu.advancePhase
  | proveOutEnd => exact h.expiry ht fun _ hu => hu.proveOutEnded
  | lampTurnOnCheck n current => cases ht; exact (h.checkLamp n current).guarded h
  | ackPress => exact h.expiry ht fun _ hu => hu.ackRecognised
  | alertAck => exact h.alertAck ht
  | alertRead => exact h.read ht reads_alertRead
  | chimeIntervalEnd => exact h.expiry ht fun u hu => hu.ripple (ripple_chimeNext onlyTacho u)
  | toneCounterExpiry => exact h.expiry ht fun _ hu => hu.same rfl rfl
  | pinRawChange p high => cases ht; exact h.guarded (h.takeRaw p high)
  | filterStabilityExpiry => exact h.filterStability ht
  | zeroTimerExpiry => exact h.expiry ht fun _ hu => hu.zeroExpired
  | setKfactor => exact h.setKfactor ht
  | setOdometer => exact h.setOdometerRequest ht
  | sealOdometer => exact h.sealOdometer ht
  | readCalHistory => exact h.read ht reads_readCalHistory
  | distanceRead => exact h.read ht reads_distanceRead
  | calWriteComplete => exact h.calWriteComplete ht
  | minuteTimerExpiry => exact h.expiry ht fun _ hu => hu.minutePassed
  | cardRead => exact h.cardRead ht
  | xferOpen => exact h.xferOpen ht
  | xferData => exact h.xferData ht
  | xferClose => exact h.xferClose ht
  | xferAbort => exact h.path ht fun _ u hu => hu.ripple (ripple_takeAbort onlyTacho (fun _ h => h) u)
  | xferStray => exact h.xferStray ht
  | transferTimerExpiry => exact h.expiry ht fun u hu => hu.ripple (ripple_transferTimeout onlyTacho (fun _ h => h) u)
  | tachoRead => exact h.read ht reads_tachoRead
  | mismatchTimerExpiry =>
    exact h.expiry ht fun u hu => hu.ripple (ripple_confirmSide (fun _ => True) (fun _ _ => trivial) u trivial)
  | silenceWatchExpiry => exact h.expiry ht fun _ hu => hu.watchExpired
  | readyRise => cases ht; exact h.readyUp
  | readyTimerExpiry => exact h.expiry ht fun _ hu => hu.same rfl rfl
  | retryTimerExpiry => exact h.expiry ht fun _ hu => hu.retry
  | displayTransferStart => exact h.expiry ht fun _ hu => hu.startRecord
  | displayTransferComplete => exact h.expiry ht fun _ hu => hu.same rfl rfl
  | pageShortPress => exact h.expiry ht fun _ hu => hu.turnPage
  | pageLongPress => exact h.expiry ht fun _ hu => hu.longPress
  | displayRead => exact h.read ht reads_displayRead
  | readyFall => cases ht; exact h.same rfl rfl
  | ackInputChange pressed => cases ht; exact h.guarded (h.ackLevel pressed)
  | pageInputChange pressed => cases ht; exact h.guarded (h.pageLevel pressed)

/-- A step on an empty queue sends what is on its way, runs what is due, or lets a microsecond pass. -/
theorem AlertsOk.idle (h : AlertsOk s) (ht : Machine.idle s = .next t) : AlertsOk t := by
  unfold Machine.idle at ht
  split at ht
  · cases ht; exact h.send []
  · split at ht
    · exact h.exec ht
    · split at ht <;> cases ht
      · exact h
      · exact h.same rfl rfl

theorem AlertsOk.step (h : AlertsOk s) (ht : Machine.step s = .next t) : AlertsOk t := by
  unfold Machine.step at ht
  split at ht
  · have hq (rest : List Instr) : AlertsOk { s with pending := rest } := h.same rfl rfl
    exact (hq _).exec ht
  · exact h.idle ht

end Sys2Proof

namespace Sys2Proof.Machine

/-- Settles O6: what a command does to the Alert Stack is a ripple, which keeps it, but for SLEEP entry, WAKING entry and power-on, which
empty it. -/
theorem alertsKept : Obligations.AlertsKept := fun _ _ hs ht => hs.step ht

end Sys2Proof.Machine
end

section
/-! The chime arbiter, the intervals of a pattern and the tone counter (R101 to R103): O48. -/

namespace Sys2Proof.Machine

variable {s : State} {q : Playing}

/-! ### A request (R103) -/

/-- A request outside RUN, or for a pattern that the playing one outranks. -/
theorem chimeRequest_discarded {p : ChimePattern}
    (h : s.ign.power ≠ .run ∨ ∃ q, s.alert.playing = some q ∧ p.rank < q.pattern.rank) : s.chimeRequest p = s := by
  unfold State.chimeRequest
  rcases h with h | ⟨q, hq, hr⟩
  · rw [if_neg h]
  · simp only [hq, if_pos hr, ite_self]

theorem chimeRequest_taken {p : ChimePattern} (h : s.ign.power = .run)
    (hq : ∀ q, s.alert.playing = some q → q.pattern.rank ≤ p.rank) : s.chimeRequest p = s.chimeStart p := by
  unfold State.chimeRequest
  rw [if_pos h]
  split
  · rfl
  · next q e => exact if_neg (Nat.not_lt.mpr (hq q e))

/-! ### The end of an interval (R102) -/

theorem exec_chimeIntervalEnd (s : State) : exec .chimeIntervalEnd s = onExpiry s.alert.chimeTimer State.chimeNext s := rfl

theorem exec_toneCounterExpiry (s : State) : exec .toneCounterExpiry s = onExpiry s.alert.toneTimer State.toneFlip s := rfl

theorem chimeNext_begins (h : s.alert.playing = some q) {tone : Bool} {len : Nat}
    (hk : (chimeIntervals q.pattern)[q.interval + 1]? = some (tone, len)) :
    s.chimeNext = s.chimeInterval q.pattern q.began (q.interval + 1) tone len := by
  unfold State.chimeNext
  simp only [h, hk]

theorem chimeNext_repeats (h : s.alert.playing = some q) (hp : q.pattern = .stop) (hk : 0 < q.interval) :
    s.chimeNext = s.chimeInterval .stop q.began 0 true 300 := by
  have past : (chimeIntervals .stop)[q.interval + 1]? = none :=
    List.getElem?_eq_none (by show 2 ≤ q.interval + 1; omega)
  unfold State.chimeNext
  simp only [h, hp, past]
  rfl

theorem chimeNext_ends (h : s.alert.playing = some q) (hp : q.pattern ≠ .stop)
    (hk : (chimeIntervals q.pattern)[q.interval + 1]? = none) : s.chimeNext = s.chimeIdle := by
  unfold State.chimeNext
  simp only [h, hk]
  split
  · next e _ => exact absurd e hp
  · rfl

/-- Settles O48: a request is discarded or starts its pattern, an interval's end goes by the pattern's list, and the tone counter's expiry
is one flip. -/
theorem chime : Obligations.Chime := by
  refine ⟨fun s p => ⟨chimeRequest_discarded, fun hp hq => ?_⟩, fun s due q hdue hq => ?_, fun s due q hdue hq => ?_⟩
  · rw [chimeRequest_taken hp hq]
    cases p <;> rfl
  · rw [exec_chimeIntervalEnd, onExpiry_running hdue]
    have hr : (s.reach due).alert.playing = some q := hq
    obtain ⟨p, k, began⟩ := q
    match p, k with
    | .info, k => rw [chimeNext_ends hr nofun rfl]; rfl
    | .refuse, k => rw [chimeNext_ends hr nofun rfl]; rfl
    | .caution, 0 => rw [chimeNext_begins hr rfl]; rfl
    | .caution, 1 => rw [chimeNext_begins hr rfl]; rfl
    | .caution, k + 2 => rw [chimeNext_ends hr nofun rfl]; rfl
    | .stop, 0 => rw [chimeNext_begins hr rfl]; rfl
    | .stop, k + 1 => rw [chimeNext_repeats hr rfl (Nat.succ_pos k)]; rfl
  · rw [exec_toneCounterExpiry, onExpiry_running hdue]
    unfold State.toneFlip
    have hr : (s.reach due).alert.playing = some q := hq
    rw [hr]
    obtain ⟨p, k, began⟩ := q
    cases p <;> rfl

end Sys2Proof.Machine
end

section
/-! ALERT_READ (R99): O50. -/

namespace Sys2Proof.Machine

variable {s : State} {r : FrameRecord} {rest : List FrameRecord}

theorem exec_alertRead (s : State) : exec .alertRead s = onRequest 0x31 judgeAlertRead s := rfl

theorem judgeAlertRead_refused (hb : 3 < r.byte 3 ∨ (r.byte 3 ≠ 3 ∧ 15 < r.byte 2)) :
    judgeAlertRead r s = refuse .badArg := by
  unfold judgeAlertRead
  rcases hb with hb | ⟨hne, hl⟩
  · rw [if_pos hb]
  · rw [if_neg hne, if_pos hl, ite_self]

theorem judgeAlertRead_common (h : r.byte 3 = 3) :
    judgeAlertRead r s = reads (u8 s.alert.stack.length ++ u8 s.alert.lost ++ u8 (playingCode s.alert.playing)) := by
  unfold judgeAlertRead
  rw [if_neg (by omega), if_pos h]

theorem judgeAlertRead_absent (h3 : r.byte 3 < 3) (h2 : r.byte 2 ≤ 15) (he : s.alert.stack[r.byte 2]? = none) :
    judgeAlertRead r s = refuse .notFound := by
  unfold judgeAlertRead
  rw [if_neg (by omega), if_neg (by omega), if_neg (by omega), he]

theorem judgeAlertRead_entry {e : AlertEntry} (h3 : r.byte 3 < 3) (h2 : r.byte 2 ≤ 15)
    (he : s.alert.stack[r.byte 2]? = some e) : judgeAlertRead r s = reads (e.data (r.byte 3)) := by
  unfold judgeAlertRead
  rw [if_neg (by omega), if_neg (by omega), if_neg (by omega), he]

/-- Settles O50: the refusals, the common fields, and an entry by its selector. -/
theorem alertRead : Obligations.AlertRead := by
  intro s r rest h
  rw [exec_alertRead]
  by_cases hb : 3 < r.byte 3 ∨ (r.byte 3 ≠ 3 ∧ 15 < r.byte 2)
  · rw [if_pos hb]
    exact onRequest_answers h (judgeAlertRead_refused hb)
  rw [if_neg hb]
  by_cases h3 : r.byte 3 = 3
  · rw [if_pos h3]
    refine (onRequest_answers h (judgeAlertRead_common h3)).trans ?_
    show Host.Outcome.next (answered s r rest .ok (_ ++ u8 (playingCode s.alert.playing))) = _
    rcases s.alert.playing with _ | ⟨_ | _ | _ | _, k, began⟩ <;> rfl
  rw [if_neg h3]
  have hs : r.byte 3 < 3 := by omega
  have hl : r.byte 2 ≤ 15 := by omega
  cases he : s.alert.stack[r.byte 2]? with
  | none => exact onRequest_answers h (judgeAlertRead_absent hs hl he)
  | some e =>
    refine (onRequest_answers h (judgeAlertRead_entry hs hl he)).trans ?_
    obtain ⟨code, severity, origin, held, repeats, raisedAt⟩ := e
    generalize r.byte 3 = selector at hs ⊢
    match selector with
    | 0 => cases severity <;> rfl
    | 1 => cases origin <;> rfl
    | 2 => rfl

end Sys2Proof.Machine
end

section
/-! The chime after a change of the Alert Stack (R98 steps 4 and 5), where no rule names slot 13. -/

namespace Sys2Proof.Machine

variable {s t u : State}

/-! ### The chime between two states -/

/-- The chime, the power state, the clock and the tone setting of `t` are those of `s`: what a change of the Alert Stack finds of them. -/
structure ChimeSame (s t : State) : Prop where
  playing : t.alert.playing = s.alert.playing
  timer : t.alert.chimeTimer = s.alert.chimeTimer
  tone : t.alert.tone = s.alert.tone
  toneTimer : t.alert.toneTimer = s.alert.toneTimer
  power : t.ign.power = s.ign.power
  clock : t.clock = s.clock
  reload : t.paramNat 6 = s.paramNat 6

theorem ChimeSame.refl (s : State) : ChimeSame s s := ⟨rfl, rfl, rfl, rfl, rfl, rfl, rfl⟩

/-- A ripple that leaves the alert block. -/
theorem ChimeSame.of_ripple {ch ev : Nat → Prop} (R : Ripple ch s t ev) (h : t.alert = s.alert) : ChimeSame s t := by
  refine ⟨by rw [h], by rw [h], by rw [h], by rw [h], by rw [R.ign], R.clock, ?_⟩
  unfold State.paramNat
  rw [R.param]

/-- The chime after a change is judged by what stood before it. -/
theorem chimeAfter_of_same {asked : Option Severity} (h : ChimeAfter s t asked) (hs : ChimeSame u s) : ChimeAfter u t asked := by
  obtain ⟨playing, timer, tone, toneTimer, power, clock, reload⟩ := hs
  unfold ChimeAfter ChimeStarts at *
  rw [playing, timer, tone, toneTimer, power, clock, reload] at h
  exact h

/-- With no pattern asked for, only the chime before the change matters. -/
theorem chimeAfter_of_chime (h : ChimeAfter s t none) (hp : s.alert.playing = u.alert.playing)
    (ht : s.alert.chimeTimer = u.alert.chimeTimer) (ho : s.alert.tone = u.alert.tone)
    (hc : s.alert.toneTimer = u.alert.toneTimer) : ChimeAfter u t none := by
  intro ended he
  rw [← hp] at he
  obtain ⟨-, h⟩ := h ended he
  refine ⟨nofun, fun _ => ?_⟩
  rw [← hp, ← ht, ← ho, ← hc]
  exact h (.inl rfl)

/-! ### The steps of a change of the stack -/

theorem topHeldStop_iff (b : AlertBlock) :
    b.topHeldStop = true ↔ ∃ e rest, b.stack = e :: rest ∧ e.severity = .stop ∧ e.held = true := by
  unfold AlertBlock.topHeldStop
  cases b.stack with
  | nil => simp
  | cons e rest => simp

/-- The STOP pattern plays, and no held STOP entry stands at the top (R98 step 4). -/
def State.stopEnds (s : State) : Prop :=
  (∃ q, s.alert.playing = some q ∧ q.pattern = .stop) ∧
    ¬ ∃ e rest, s.alert.stack = e :: rest ∧ e.severity = .stop ∧ e.held = true

theorem chimeStopCheck_ends (h : s.stopEnds) : s.chimeStopCheck = s.chimeIdle := by
  obtain ⟨⟨q, hq, hp⟩, ht⟩ := h
  rw [← topHeldStop_iff, Bool.not_eq_true] at ht
  unfold State.chimeStopCheck
  simp only [hq, if_pos (And.intro hp ht)]

theorem chimeStopCheck_goesOn (h : ¬ s.stopEnds) : s.chimeStopCheck = s := by
  unfold State.chimeStopCheck
  split
  · rfl
  · next q hq =>
    refine if_neg fun ⟨hp, ht⟩ => h ⟨⟨q, hq, hp⟩, ?_⟩
    rw [← topHeldStop_iff, ht]
    exact Bool.false_ne_true

theorem chimeStart_starts (s : State) (v : Severity) : ChimeStarts s (s.chimeStart v.pattern) v := by
  cases v <;> exact ⟨rfl, rfl, rfl, rfl⟩

/-- No severity, or one whose pattern is discarded: the request changes nothing (R103). -/
theorem chimeRequest?_discarded {asked : Option Severity}
    (h : asked = none ∨ s.ign.power ≠ .run ∨
      ∃ v q, asked = some v ∧ s.alert.playing = some q ∧ v.pattern.rank < q.pattern.rank) :
    s.chimeRequest? (asked.map Severity.pattern) = s := by
  rcases h with rfl | hr | ⟨v, q, rfl, hq⟩
  · rfl
  · cases asked with
    | none => rfl
    | some v => exact chimeRequest_discarded (.inl hr)
  · exact chimeRequest_discarded (.inr ⟨q, hq⟩)

/-- A severity whose pattern is taken in RUN (R103). -/
theorem chimeRequest?_starts {v : Severity} (hr : s.ign.power = .run)
    (hq : ∀ q, s.alert.playing = some q → q.pattern.rank ≤ v.pattern.rank) :
    ChimeStarts s (s.chimeRequest? ((some v).map Severity.pattern)) v := by
  have hc : s.chimeRequest? ((some v).map Severity.pattern) = s.chimeStart v.pattern := chimeRequest_taken hr hq
  rw [hc]
  exact chimeStart_starts s v

/-- Steps 4 and 5 of R98: the STOP pattern ended or not, and the pattern of the severity asked for requested. -/
theorem chimeAfter_steps (s : State) (asked : Option Severity) :
    ChimeAfter s (s.chimeStopCheck.chimeRequest? (asked.map Severity.pattern)) asked := by
  intro ended he
  have hk : (s.chimeStopCheck.chimeRequest? (asked.map Severity.pattern)).alert.stack = s.alert.stack :=
    (calm_request _ _).stack.trans (calm_stopCheck s).stack
  rw [hk] at he
  have he : ended ↔ s.stopEnds := he
  by_cases hs : s.stopEnds
  · have hended : ended := he.mpr hs
    rw [chimeStopCheck_ends hs]
    refine ⟨fun v hv hr _ => ?_, fun hn => ⟨fun _ => ?_, fun h => absurd hended h⟩⟩
    · subst hv
      exact chimeRequest?_starts (s := s.chimeIdle) hr nofun
    · rw [chimeRequest?_discarded (s := s.chimeIdle) (hn.imp_right fun h => .inl (h.resolve_right fun ⟨h, _⟩ => h hended))]
      exact ⟨rfl, rfl, rfl, rfl⟩
  · have hended : ¬ ended := fun e => hs (he.mp e)
    rw [chimeStopCheck_goesOn hs]
    refine ⟨fun v hv hr hq => ?_, fun hn => ⟨fun h => absurd h hended, fun _ => ?_⟩⟩
    · subst hv
      exact chimeRequest?_starts hr (hq.resolve_left hended)
    · rw [chimeRequest?_discarded (hn.imp_right (.imp_right fun ⟨_, h⟩ => h))]
      exact ⟨rfl, rfl, rfl, rfl⟩

/-- Slot 13 shown leaves the alert block, where no rule names it. -/
theorem showTop_alert (hw : s.watched 13 = false) : s.showTop.1.alert = s.alert := by
  have hw' : ((s.writeRecord 13 (.fresh (topSeverity s.alert.stack))).gaugeEvent 13).watched 13 = false := hw
  obtain ⟨ha, -⟩ := quiet_dim ((s.writeRecord 13 (.fresh (topSeverity s.alert.stack))).gaugeEvent 13) 13
  unfold State.showTop State.writeTop
  split
  · simp only [gatherRules_unwatched _ hw']
    exact (State.markDirty_alert _ _).trans ha
  · rfl

/-- A changed stack with all that follows asks for the pattern of a severity, or for none. -/
theorem chimeAfter_stackChanged (hw : s.watched 13 = false) (asked : Option Severity) :
    ChimeAfter s (s.stackChanged (asked.map Severity.pattern)).1 asked := by
  have R := (ripple_showTop (fun _ => True) s trivial).trans (ripple_markDirty (fun _ => True) s.showTop.1 [.topAlert, .alertList])
  have ha : (s.showTop.1.markDirty [.topAlert, .alertList]).alert = s.alert := by rw [State.markDirty_alert, showTop_alert hw]
  exact chimeAfter_of_same (chimeAfter_steps _ asked) (.of_ripple R ha)

end Sys2Proof.Machine
end

section
/-! The ACK button, ALERT_ACK and what an acknowledgement removes (R95 to R97): O49. -/

namespace Sys2Proof.Machine

variable {s : State} {e : AlertEntry} {rest : List AlertEntry}

/-! ### The debounce (R95) -/

theorem exec_ackInputChange (s : State) (pressed : Bool) : exec (.ackInputChange pressed) s = execAckInputChange pressed s := rfl

theorem ackInputChange_moves {pressed : Bool} (h : s.pins.ack ≠ pressed) :
    exec (.ackInputChange pressed) s = .next (s.ackLevel pressed) := by
  rw [exec_ackInputChange]
  unfold execAckInputChange
  rw [if_neg h]

theorem ackLevel_dark (pressed : Bool) (h : s.powered = false ∨ s.ign.power = .sleep) :
    s.ackLevel pressed = { s with pins.ack := pressed } := by
  have ha : s.awake = false := by
    unfold State.awake
    rcases h with h | h <;> simp [h]
  unfold State.ackLevel
  rw [ha]
  rfl

theorem ackLevel_awake (pressed : Bool) (hp : s.powered = true) (hs : s.ign.power ≠ .sleep) :
    s.ackLevel pressed =
      { s with pins.ack := pressed, alert := if pressed then s.alert.ackDown s.clock else s.alert.ackUp s.clock } := by
  have ha : s.awake = true := by
    unfold State.awake
    simp [hp, hs]
  unfold State.ackLevel
  rw [ha]
  rfl

theorem ackDown_starts {b : AlertBlock} {now : Nat} (h : b.ackArmed = true ∨ ∃ due, b.ackRelease = some due ∧ due ≤ now) :
    b.ackDown now = { b with ackArmed := true, ackHold := some (now + 50000), ackRelease := none } := by
  rw [← releaseDone_iff, ← Bool.or_eq_true] at h
  unfold AlertBlock.ackDown
  rw [if_pos h]
  rfl

theorem ackDown_ignored {b : AlertBlock} {now : Nat} (ha : b.ackArmed = false) (h : ∀ due, b.ackRelease = some due → now < due) :
    b.ackDown now = { b with ackRelease := none } := by
  have hr : ¬ releaseDone b.ackRelease now = true := by
    rw [releaseDone_iff]
    exact fun ⟨due, hd, hle⟩ => Nat.not_lt.mpr hle (h due hd)
  unfold AlertBlock.ackDown
  rw [ha, Bool.false_or, if_neg hr]

theorem ackUp_armed {b : AlertBlock} {now : Nat} (h : b.ackArmed = true) : b.ackUp now = { b with ackHold := none } := by
  unfold AlertBlock.ackUp
  rw [if_pos h]

theorem ackUp_unarmed {b : AlertBlock} {now : Nat} (h : b.ackArmed = false) :
    b.ackUp now = { b with ackRelease := some (now + 50000) } := by
  unfold AlertBlock.ackUp
  rw [h]
  rfl

/-! ### An acknowledgement (R96) -/

theorem judgeAck_refuses (hv : e.severity = .stop) (hh : e.held = true) : judgeAck (e :: rest) = .refused e.code :=
  if_pos ⟨hv, hh⟩

theorem judgeAck_removes (h : e.severity ≠ .stop ∨ e.held = false) : judgeAck (e :: rest) = .removed e.code := by
  refine if_neg fun ⟨hv, hh⟩ => ?_
  rcases h with h | h
  · exact h hv
  · rw [h] at hh
    cases hh

theorem acknowledge_empty (h : s.alert.stack = []) : s.acknowledge = s := by
  unfold State.acknowledge
  rw [h]
  rfl

theorem acknowledge_refused (h : s.alert.stack = e :: rest) (hv : e.severity = .stop) (hh : e.held = true) :
    s.acknowledge = s.chimeRequest .refuse := by
  unfold State.acknowledge
  rw [h, judgeAck_refuses hv hh]

/-- With no rule on slot 13 and nothing on its way, the removal is a change of the stack alone (R98). -/
theorem acknowledge_removed (h : s.alert.stack = e :: rest) (hr : e.severity ≠ .stop ∨ e.held = false)
    (hb : s.alert.backlog = []) (hw : s.watched 13 = false) : s.acknowledge = ((s.setStack rest).stackChanged none).1 := by
  obtain ⟨C, hn, -⟩ := stackChanged_spec (s.setStack rest) none hw
  have hw' : ((s.setStack rest).stackChanged none).1.watched 13 = false := (watched_rules C.rules).trans hw
  have hsend : ((s.setStack rest).stackChanged none).1.send [] = ((s.setStack rest).stackChanged none).1 := by
    unfold State.send
    rw [C.backlog, show (s.setStack rest).alert.backlog = [] from hb, List.append_nil, if_pos rfl]
  unfold State.acknowledge
  rw [h, judgeAck_removes hr]
  show (((s.setStack rest).stackChanged none).1.send ((s.setStack rest).stackChanged none).2).settleTop = _
  rw [hn, hsend]
  unfold State.settleTop
  rw [hw']
  rfl

/-- What a removal leaves: the rest of the stack, and the chime as it was or a STOP pattern ended. -/
theorem acknowledge_leaves (h : s.alert.stack = e :: rest) (hr : e.severity ≠ .stop ∨ e.held = false)
    (hb : s.alert.backlog = []) (hw : s.watched 13 = false) :
    s.acknowledge.alert.stack = rest ∧ ChimeAfter s s.acknowledge none := by
  rw [acknowledge_removed h hr hb hw]
  obtain ⟨C, -⟩ := stackChanged_spec (s.setStack rest) none hw
  have chime := chimeAfter_stackChanged (s := s.setStack rest) hw none
  exact ⟨C.stack, chimeAfter_of_chime chime rfl rfl rfl rfl⟩

/-! ### ACK_PRESS and ALERT_ACK (R95, R97) -/

/-- The press taken, before what it gives. -/
def State.ackTaken (s : State) : State := { s with alert.ackHold := none, alert.ackArmed := false }

theorem exec_ackPress {due : Nat} (h : s.alert.ackHold = some due) : exec .ackPress s = .next (s.reach due).ackRecognised :=
  onExpiry_running h _ s

theorem ackRecognised_run (h : s.ign.power = .run) : s.ackRecognised = s.ackTaken.acknowledge := if_pos h

theorem ackRecognised_other (h : s.ign.power ≠ .run) : s.ackRecognised = s.ackTaken := if_neg h

theorem exec_alertAck (s : State) : exec .alertAck s = onRequest 0x30 judgeAlertAck s := rfl

theorem judgeAlertAck_run {r : FrameRecord} (h : s.ign.power = .run) : judgeAlertAck r s = (judgeAck s.alert.stack).verdict :=
  if_pos h

theorem judgeAlertAck_other {r : FrameRecord} (h : s.ign.power ≠ .run) : judgeAlertAck r s = refuse .wrongState := if_neg h

/-- Settles O49: the debounce by its table, and an acknowledgement by the top entry, from the button or from ALERT_ACK. -/
theorem acknowledgement : Obligations.Acknowledgement := by
  refine ⟨fun s pressed => ⟨fun h => ?_, fun h hd => ?_, fun h hp hs => ?_⟩, fun s due hdue => ?_, fun s r tail h => ?_⟩
  · rw [exec_ackInputChange]
    unfold execAckInputChange
    rw [if_pos h]
  · rw [ackInputChange_moves h, ackLevel_dark pressed hd]
  · rw [ackInputChange_moves h, ackLevel_awake pressed hp hs]
    refine ⟨fun hd ha => ?_, fun hd ha hr => ?_, fun hd ha => ?_, fun hd ha => ?_⟩ <;> subst hd
    · rw [if_pos rfl, ackDown_starts ha]
    · rw [if_pos rfl, ackDown_ignored ha hr]
    · rw [if_neg Bool.false_ne_true, ackUp_armed ha]
    · rw [if_neg Bool.false_ne_true, ackUp_unarmed ha]
  · rw [exec_ackPress hdue]
    refine ⟨fun hp => ?_, fun hp hk => ?_, fun e rest hp hk hv hh => ?_, fun e rest hp hk hr => ?_⟩
    · rw [ackRecognised_other (s := s.reach due) hp]
      rfl
    · rw [ackRecognised_run (s := s.reach due) hp, acknowledge_empty (s := (s.reach due).ackTaken) hk]
      rfl
    · rw [ackRecognised_run (s := s.reach due) hp, acknowledge_refused (s := (s.reach due).ackTaken) hk hv hh]
      rfl
    · refine ⟨_, congrArg Host.Outcome.next (ackRecognised_run (s := s.reach due) hp), ripple_acknowledge (· = 13) _ rfl, fun hb hw => ?_⟩
      obtain ⟨stack, chime⟩ := acknowledge_leaves (s := (s.reach due).ackTaken) hk hr hb hw
      exact ⟨stack, chimeAfter_of_chime chime rfl rfl rfl rfl⟩
  · rw [exec_alertAck]
    have run (hp : s.ign.power = .run) : judgeAlertAck r { s with intake.queue := tail } = (judgeAck s.alert.stack).verdict :=
      judgeAlertAck_run hp
    refine ⟨fun hp => ?_, fun hp hk => ?_, fun e rest hp hk hv hh => ?_, fun e rest hp hk hr => ?_⟩
    · exact onRequest_answers h (judgeAlertAck_other hp)
    · rw [onRequest_verdict h (run hp), hk]
      exact congrArg Host.Outcome.next (acknowledge_empty (by rw [answered_alert, hk]))
    · rw [onRequest_verdict h (run hp), hk, judgeAck_refuses hv hh]
      exact congrArg Host.Outcome.next (acknowledge_refused (by rw [answered_alert, hk]) hv hh)
    · refine ⟨_, by rw [onRequest_verdict h (run hp), hk, judgeAck_removes hr]; rfl,
        ripple_acknowledge (· = 13) (answered s r tail .ok (u16 e.code)) rfl, fun hb hw => ?_⟩
      have ha : (answered s r tail .ok (u16 e.code)).alert = s.alert := answered_alert ..
      have hw' : (answered s r tail .ok (u16 e.code)).watched 13 = false :=
        (watched_rules (congrArg Telltale.rules (answered_telltale ..))).trans hw
      obtain ⟨stack, chime⟩ := acknowledge_leaves (by rw [ha, hk]) hr (by rw [ha, hb]) hw'
      exact ⟨stack, chimeAfter_of_chime chime (by rw [ha]) (by rw [ha]) (by rw [ha]) (by rw [ha])⟩

end Sys2Proof.Machine
end

section
/-! What a push and a release come to where no rule names slot 13 and nothing is on its way (R90 to R94): one change of the Alert Stack,
with what follows it, or nothing. -/

namespace Sys2Proof.Machine

variable {s t : State} {k : List AlertEntry} {code : Nat} {v : Severity} {o : Origin} {e : AlertEntry}

/-! ### A change of the stack (R98) -/

/-- `t` is `s` with the stack `k` and all that follows, asking for the pattern of `asked`; where the stack was full, the loss has been
counted before it (R93). -/
def Restacked (s t : State) (k : List AlertEntry) (asked : Option Severity) : Prop :=
  ∃ u, (u = s ∨ u = s.alertLost) ∧ t = ((u.setStack k).stackChanged (asked.map Severity.pattern)).1

theorem alertLost_alert (s : State) : s.alertLost.alert = { s.alert with lost := satInc count8 s.alert.lost } := by
  unfold State.alertLost
  rw [State.raise_alert]

theorem alertLost_flagged (s : State) : Flagged s.alertLost .alertLost := raise_flagged _ .alertLost

theorem alertLost_rules (s : State) : s.alertLost.telltale.rules = s.telltale.rules := by
  unfold State.alertLost
  rw [State.raise_telltale]

/-- A loss counted leaves slot 15, and so what raised_at takes (R92). -/
theorem alertLost_newEntry (s : State) (code : Nat) (v : Severity) (o : Origin) :
    s.alertLost.newEntry code v o = s.newEntry code v o := by
  unfold State.newEntry State.raisedAt
  rw [(ripple_alertLost (fun _ => False) s).slots 15 id]

theorem chimeSame_alertLost (s : State) : ChimeSame s s.alertLost := by
  have R := ripple_alertLost (fun _ => True) s
  have ha := alertLost_alert s
  refine ⟨by rw [ha], by rw [ha], by rw [ha], by rw [ha], by rw [R.ign], R.clock, ?_⟩
  unfold State.paramNat
  rw [R.param]

namespace Restacked

variable {asked : Option Severity}

/-- What is said of the base of a change: nothing watches slot 13, and the chime and the link are those of `s`. -/
theorem base (h : Restacked s t k asked) (hw : s.watched 13 = false) :
    ∃ u, u.watched 13 = false ∧ ChimeSame s u ∧ u.display = s.display ∧
      t = ((u.setStack k).stackChanged (asked.map Severity.pattern)).1 := by
  obtain ⟨u, rfl | rfl, ht⟩ := h
  · exact ⟨u, hw, .refl u, rfl, ht⟩
  · have hd : s.alertLost.display = s.display := State.raise_display _ _
    exact ⟨_, (watched_rules (alertLost_rules s)).trans hw, chimeSame_alertLost s, hd, ht⟩

theorem stack (h : Restacked s t k asked) (hw : s.watched 13 = false) : t.alert.stack = k := by
  obtain ⟨u, hu, -, -, rfl⟩ := h.base hw
  obtain ⟨C, -⟩ := stackChanged_spec (u.setStack k) (asked.map Severity.pattern) hu
  exact C.stack

/-- Slot 13 shows the top, and the two display records are marked (R98 steps 2 and 3). -/
theorem shows (h : Restacked s t k asked) (hw : s.watched 13 = false) :
    (t.slot 13).value = topSeverity k ∧
      (s.display.link ≠ .off → t.display.dirty.topAlert = true ∧ t.display.dirty.alertList = true) := by
  obtain ⟨u, hu, -, hd, rfl⟩ := h.base hw
  obtain ⟨-, -, hv, hm⟩ := stackChanged_spec (u.setStack k) (asked.map Severity.pattern) hu
  exact ⟨hv, fun hl => hm (by rw [State.setStack_display, hd]; exact hl)⟩

theorem chime (h : Restacked s t k asked) (hw : s.watched 13 = false) : ChimeAfter s t asked := by
  obtain ⟨u, hu, ⟨playing, timer, tone, toneTimer, power, clock, reload⟩, -, rfl⟩ := h.base hw
  exact chimeAfter_of_same (chimeAfter_stackChanged (s := u.setStack k) hu asked)
    ⟨playing, timer, tone, toneTimer, power, clock, reload⟩

end Restacked

/-! ### The stack by its codes and severities -/

theorem findCode_absent (h : ∀ f ∈ k, f.code ≠ code) : findCode k code = none := by
  unfold findCode
  rw [List.find?_eq_none]
  simpa using h

theorem lowestSeverity_le (l : List AlertEntry) : ∀ f ∈ l, (lowestSeverity l).rank ≤ f.severity.rank := by
  have fold (l : List AlertEntry) : ∀ m : Severity,
      (l.foldl (fun m e => m.lower e.severity) m).rank ≤ m.rank ∧
        ∀ f ∈ l, (l.foldl (fun m e => m.lower e.severity) m).rank ≤ f.severity.rank := by
    induction l with
    | nil => exact fun m => ⟨Nat.le_refl _, nofun⟩
    | cons e l ih =>
      intro m
      obtain ⟨hm, hl⟩ := ih (m.lower e.severity)
      have hlow : (m.lower e.severity).rank ≤ m.rank ∧ (m.lower e.severity).rank ≤ e.severity.rank := by
        unfold Severity.lower
        split <;> omega
      refine ⟨hm.trans hlow.1, fun f hf => ?_⟩
      rcases List.mem_cons.mp hf with rfl | hf
      · exact hm.trans hlow.2
      · exact hl f hf
  exact (fold l .stop).2

/-- A severity below all of a full stack is below the lowest (R93). -/
theorem lt_lowestSeverity (hk : k ≠ []) (h : ∀ f ∈ k, v.rank < f.severity.rank) : v.rank < (lowestSeverity k).rank := by
  obtain ⟨f, hf, hs⟩ := lowest_present hk
  rw [← hs]
  exact h f hf

/-! ### A push (R90 to R93) -/

theorem push_discarded (hb : s.alert.backlog = []) (hw : s.watched 13 = false) (hp : ¬ (s.ign.power = .waking ∨ s.ign.power = .run)) :
    s.push code v o = s := by
  have ht : s.takeAction (.push code v o) = (s, []) := if_neg hp
  unfold State.push
  rw [send_one s _ hb (by rw [ht]) (by rw [ht]; exact hb) (by rw [ht]; exact hw), ht]

section Push
variable (hb : s.alert.backlog = []) (hw : s.watched 13 = false) (hp : s.ign.power = .waking ∨ s.ign.power = .run)
include hb hw hp

/-- A push of a code on the stack (R91). -/
theorem push_merges (hf : findCode s.alert.stack code = some e) :
    s.push code v o = ((s.setStack (e.merge v :: withoutCode s.alert.stack code)).stackChanged (some (e.merge v).severity.pattern)).1 := by
  rw [push_spec s code v o hb hw hp]
  unfold State.takePush
  rw [hf]

/-- A push with room (R92). -/
theorem push_enters (hf : findCode s.alert.stack code = none) (hl : s.alert.stack.length < 16) :
    s.push code v o = ((s.setStack (s.newEntry code v o :: s.alert.stack)).stackChanged (some v.pattern)).1 := by
  rw [push_spec s code v o hb hw hp]
  unfold State.takePush
  rw [hf]
  exact congrArg Prod.fst (if_pos hl)

/-- A push to a full stack of higher severities (R93). -/
theorem push_dropped (hf : findCode s.alert.stack code = none) (hl : 16 ≤ s.alert.stack.length)
    (hm : v.rank < (lowestSeverity s.alert.stack).rank) : s.push code v o = s.alertLost := by
  have full : ¬ s.alert.stack.length < stackRoom := Nat.not_lt.mpr hl
  rw [push_spec s code v o hb hw hp]
  unfold State.takePush
  simp only [hf, if_neg full, if_pos hm]

/-- A push to a full stack that removes the lowest entry of the lowest severity (R93). -/
theorem push_evicts (hf : findCode s.alert.stack code = none) (hl : 16 ≤ s.alert.stack.length)
    (hm : (lowestSeverity s.alert.stack).rank ≤ v.rank) :
    s.push code v o =
      ((s.alertLost.setStack (s.newEntry code v o :: dropLowest (lowestSeverity s.alert.stack) s.alert.stack)).stackChanged
        (some v.pattern)).1 := by
  have full : ¬ s.alert.stack.length < stackRoom := Nat.not_lt.mpr hl
  rw [push_spec s code v o hb hw hp]
  unfold State.takePush
  simp only [hf, if_neg full, if_neg (Nat.not_lt.mpr hm)]

/-- What a push does: it enters or merges at the top and asks for its entry's pattern, or it is dropped at a full stack of higher
severities. -/
theorem push_cases :
    (∃ e rest, Restacked s (s.push code v o) (e :: rest) (some e.severity) ∧ e.code = code) ∨
      (s.push code v o = s.alertLost ∧ (∀ f ∈ s.alert.stack, f.code ≠ code) ∧ 16 ≤ s.alert.stack.length ∧
        ∀ f ∈ s.alert.stack, v.rank < f.severity.rank) := by
  cases hf : findCode s.alert.stack code with
  | some e =>
    obtain ⟨-, hc⟩ := findCode_mem hf
    exact .inl ⟨e.merge v, _, ⟨s, .inl rfl, push_merges hb hw hp hf⟩, hc⟩
  | none =>
    by_cases hl : s.alert.stack.length < 16
    · exact .inl ⟨s.newEntry code v o, _, ⟨s, .inl rfl, push_enters hb hw hp hf hl⟩, rfl⟩
    · have hl : 16 ≤ s.alert.stack.length := Nat.not_lt.mp hl
      by_cases hm : v.rank < (lowestSeverity s.alert.stack).rank
      · refine .inr ⟨push_dropped hb hw hp hf hl hm, fun f hf' hc => findCode_none hf ?_, hl, fun f hf' => ?_⟩
        · exact List.mem_map.mpr ⟨f, hf', hc⟩
        · exact hm.trans_le (lowestSeverity_le _ f hf')
      · exact .inl ⟨s.newEntry code v o, _,
          ⟨s.alertLost, .inr rfl, push_evicts hb hw hp hf hl (Nat.not_lt.mp hm)⟩, rfl⟩

/-- A full stack counts the loss and sets its flag, whether the push enters or is dropped (R93). -/
theorem push_full (hf : findCode s.alert.stack code = none) (hl : 16 ≤ s.alert.stack.length) :
    (s.push code v o).alert.lost = min (s.alert.lost + 1) 255 ∧ Flagged (s.push code v o) .alertLost := by
  have hlost : s.alertLost.alert.lost = min (s.alert.lost + 1) 255 := congrArg AlertBlock.lost (alertLost_alert s)
  by_cases hm : v.rank < (lowestSeverity s.alert.stack).rank
  · rw [push_dropped hb hw hp hf hl hm]
    exact ⟨hlost, alertLost_flagged s⟩
  · rw [push_evicts hb hw hp hf hl (Nat.not_lt.mp hm)]
    have hu (l : List AlertEntry) : (s.alertLost.setStack l).watched 13 = false := (watched_rules (alertLost_rules s)).trans hw
    obtain ⟨C, -⟩ := stackChanged_spec _ (some v.pattern) (hu _)
    exact ⟨C.lost.trans hlost, (ripple_stackChanged (fun _ => True) _ _ trivial).flags _ (alertLost_flagged s)⟩

end Push

/-! ### A release (R94) -/

theorem release_asleep (hb : s.alert.backlog = []) (hw : s.watched 13 = false) (hp : s.ign.power = .sleep) :
    s.release code o = s := by
  have ht : s.takeAction (.release code o) = (s, []) := if_pos hp
  unfold State.release
  rw [send_one s _ hb (by rw [ht]) (by rw [ht]; exact hb) (by rw [ht]; exact hw), ht]

section Release
variable (hb : s.alert.backlog = []) (hw : s.watched 13 = false) (hp : s.ign.power ≠ .sleep)
include hb hw hp

theorem release_absent (hf : findCode s.alert.stack code = none) : s.release code o = s := by
  rw [release_spec s code o hb hw hp]
  unfold State.takeRelease
  rw [hf]

theorem release_removes (hf : findCode s.alert.stack code = some e) (hv : e.severity = .info) :
    s.release code o = ((s.setStack (withoutCode s.alert.stack code)).stackChanged none).1 := by
  rw [release_spec s code o hb hw hp]
  unfold State.takeRelease
  simp only [hf, if_pos hv]

theorem release_frees (hf : findCode s.alert.stack code = some e) (hv : e.severity ≠ .info) (hh : e.held = true) :
    s.release code o = ((s.setStack (unheld s.alert.stack code)).stackChanged none).1 := by
  rw [release_spec s code o hb hw hp]
  unfold State.takeRelease
  simp only [hf, if_neg hv, if_pos hh]

theorem release_unheld (hf : findCode s.alert.stack code = some e) (hv : e.severity ≠ .info) (hh : e.held = false) :
    s.release code o = s := by
  rw [release_spec s code o hb hw hp]
  unfold State.takeRelease
  simp only [hf, if_neg hv, hh, Bool.false_eq_true, if_false]

end Release

/-- What a release does: nothing, or a change of the stack that asks for no pattern. -/
theorem release_cases (hb : s.alert.backlog = []) (hw : s.watched 13 = false) :
    s.release code o = s ∨ ∃ k, Restacked s (s.release code o) k none := by
  by_cases hp : s.ign.power = .sleep
  · exact .inl (release_asleep hb hw hp)
  cases hf : findCode s.alert.stack code with
  | none => exact .inl (release_absent hb hw hp hf)
  | some e =>
    by_cases hv : e.severity = .info
    · exact .inr ⟨_, s, .inl rfl, release_removes hb hw hp hf hv⟩
    · cases hh : e.held with
      | true => exact .inr ⟨_, s, .inl rfl, release_frees hb hw hp hf hv hh⟩
      | false => exact .inl (release_unheld hb hw hp hf hv hh)

end Sys2Proof.Machine
end

section
/-! A push and a release of an alert, whole (R90 to R94, R98): O47. -/

namespace Sys2Proof.Machine

variable {s : State} {code : Nat} {v : Severity} {o : Origin} {e : AlertEntry} {above below : List AlertEntry}

/-! ### A push (R91 to R93) -/

section Push
variable (hb : s.alert.backlog = []) (hw : s.watched 13 = false) (hp : s.ign.power = .waking ∨ s.ign.power = .run)
include hb hw hp

theorem push_merges_stack (hk : s.alert.stack = above ++ e :: below) (hc : e.code = code) (ha : ∀ f ∈ above, f.code ≠ code)
    (hl : ∀ f ∈ below, f.code ≠ code) :
    (s.push code v o).alert.stack = e.merge v :: (above ++ below) ∧ (s.push code v o).alert.lost = s.alert.lost := by
  obtain ⟨find, without, -⟩ := findCode_split code above e below hc ha hl
  rw [← hk] at find without
  rw [push_merges hb hw hp find, without]
  obtain ⟨C, -⟩ := stackChanged_spec (s.setStack (e.merge v :: (above ++ below))) (some (e.merge v).severity.pattern) hw
  exact ⟨C.stack, C.lost⟩

theorem push_enters_stack (hf : ∀ f ∈ s.alert.stack, f.code ≠ code) (hl : s.alert.stack.length < 16) :
    (s.push code v o).alert.stack = s.newEntry code v o :: s.alert.stack ∧ (s.push code v o).alert.lost = s.alert.lost := by
  rw [push_enters hb hw hp (findCode_absent hf) hl]
  obtain ⟨C, -⟩ := stackChanged_spec (s.setStack (s.newEntry code v o :: s.alert.stack)) (some v.pattern) hw
  exact ⟨C.stack, C.lost⟩

theorem push_dropped_stack (hf : ∀ f ∈ s.alert.stack, f.code ≠ code) (hl : 16 ≤ s.alert.stack.length)
    (hm : ∀ f ∈ s.alert.stack, v.rank < f.severity.rank) :
    (s.push code v o).alert.stack = s.alert.stack ∧ (s.push code v o).alert.playing = s.alert.playing := by
  have hne : s.alert.stack ≠ [] := List.ne_nil_of_length_pos (by omega)
  rw [push_dropped hb hw hp (findCode_absent hf) hl (lt_lowestSeverity hne hm), alertLost_alert]
  exact ⟨rfl, rfl⟩

theorem push_evicts_stack (hf : ∀ f ∈ s.alert.stack, f.code ≠ code) (hl : 16 ≤ s.alert.stack.length)
    (hk : s.alert.stack = above ++ e :: below) (hmin : ∀ f ∈ s.alert.stack, e.severity.rank ≤ f.severity.rank)
    (hlast : ∀ f ∈ below, f.severity ≠ e.severity) (hv : e.severity.rank ≤ v.rank) :
    (s.push code v o).alert.stack = s.newEntry code v o :: (above ++ below) := by
  have hm : lowestSeverity s.alert.stack = e.severity :=
    lowestSeverity_is _ e (by rw [hk]; exact List.mem_append_right _ List.mem_cons_self) hmin
  have hR : Restacked s (s.push code v o) _ (some v) :=
    ⟨s.alertLost, .inr rfl, push_evicts hb hw hp (findCode_absent hf) hl (by rw [hm]; exact hv)⟩
  rw [hR.stack hw, hm, hk, dropLowest_split _ above e below rfl hlast]

end Push

/-! ### A release (R94) -/

section Release
variable (hb : s.alert.backlog = []) (hw : s.watched 13 = false) (hp : s.ign.power ≠ .sleep)
  (hk : s.alert.stack = above ++ e :: below) (hc : e.code = code) (ha : ∀ f ∈ above, f.code ≠ code)
  (hl : ∀ f ∈ below, f.code ≠ code)
include hb hw hp hk hc ha hl

theorem release_removes_stack (hv : e.severity = .info) : (s.release code o).alert.stack = above ++ below := by
  obtain ⟨find, without, -⟩ := findCode_split code above e below hc ha hl
  rw [← hk] at find without
  have hR : Restacked s (s.release code o) _ none := ⟨s, .inl rfl, release_removes hb hw hp find hv⟩
  rw [hR.stack hw, without]

theorem release_frees_stack (hv : e.severity ≠ .info) :
    (s.release code o).alert.stack = above ++ { e with held := false } :: below ∧ (e.held = false → s.release code o = s) := by
  obtain ⟨find, -, freed⟩ := findCode_split code above e below hc ha hl
  rw [← hk] at find freed
  cases hh : e.held with
  | true =>
    have hR : Restacked s (s.release code o) _ none := ⟨s, .inl rfl, release_frees hb hw hp find hv hh⟩
    exact ⟨by rw [hR.stack hw, freed], nofun⟩
  | false =>
    have same : s.release code o = s := release_unheld hb hw hp find hv hh
    have he : ({ e with held := false } : AlertEntry) = e := by rw [← hh]
    exact ⟨by rw [same, hk, he], fun _ => same⟩

end Release

/-! ### What both leave -/

/-- A push or a release that has changed the stack shows the top in slot 13 and marks the two display records. -/
theorem stack_change_shown (hb : s.alert.backlog = []) (hw : s.watched 13 = false) {t : State}
    (ht : t = s.push code v o ∨ t = s.release code o) (hne : t.alert.stack ≠ s.alert.stack) :
    (t.slot 13).value = topSeverity t.alert.stack ∧
      (s.display.link ≠ .off → t.display.dirty.topAlert = true ∧ t.display.dirty.alertList = true) := by
  have shown {k : List AlertEntry} {asked : Option Severity} (hR : Restacked s t k asked) :
      (t.slot 13).value = topSeverity t.alert.stack ∧
        (s.display.link ≠ .off → t.display.dirty.topAlert = true ∧ t.display.dirty.alertList = true) := by
    rw [hR.stack hw]
    exact hR.shows hw
  rcases ht with rfl | rfl
  · by_cases hp : s.ign.power = .waking ∨ s.ign.power = .run
    · rcases push_cases hb hw hp with ⟨e, rest, hR, -⟩ | ⟨hd, -⟩
      · exact shown hR
      · exact absurd (by rw [hd, alertLost_stack]) hne
    · exact absurd (by rw [push_discarded hb hw hp]) hne
  · rcases release_cases hb hw with hs | ⟨k, hR⟩
    · exact absurd (by rw [hs]) hne
    · exact shown hR

/-- Settles O47: a push merges, enters, is dropped or evicts, and a release removes or frees, each one change of the stack with what
follows it. -/
theorem alertStack : Obligations.AlertStack := by
  intro s code severity origin hb hw
  refine ⟨fun hn hr => push_discarded hb hw (not_or.mpr ⟨hn, hr⟩), fun hp => ⟨fun above e below hk hc ha hl => ?_,
    fun hf hl => ?_, fun hf hl => ?_⟩, fun h => ?_, fun above e below hp hk hc ha hl => ?_, fun t ht hne => ?_,
    fun t ht hp hkept => ?_, fun t ht hne => ?_⟩
  · exact push_merges_stack hb hw hp hk hc ha hl
  · exact push_enters_stack hb hw hp hf hl
  · obtain ⟨lost, flagged⟩ := push_full (v := severity) (o := origin) hb hw hp (findCode_absent hf) hl
    exact ⟨lost, flagged, fun hm => push_dropped_stack hb hw hp hf hl hm,
      fun above e below hk hmin hlast hv => push_evicts_stack hb hw hp hf hl hk hmin hlast hv⟩
  · by_cases hp : s.ign.power = .sleep
    · exact release_asleep hb hw hp
    · exact release_absent hb hw hp (findCode_absent (h.resolve_left hp))
  · exact ⟨release_removes_stack hb hw hp hk hc ha hl, release_frees_stack hb hw hp hk hc ha hl⟩
  · obtain ⟨value, marks⟩ := stack_change_shown hb hw ht hne
    refine ⟨value.trans ?_, marks, ?_⟩
    · cases t.alert.stack <;> rfl
    · rcases ht with rfl | rfl
      · exact ripple_push (· = 13) s code severity origin rfl
      · exact ripple_release (· = 13) s code origin rfl
  · subst ht
    rcases push_cases (v := severity) (o := origin) hb hw hp with ⟨e, rest, hR, hc⟩ | ⟨-, habsent, hfull, hlow⟩
    · exact ⟨e, rest, hR.stack hw, hc, hR.chime hw⟩
    · rcases hkept with ⟨f, hf, hc⟩ | hl | ⟨f, hf, hr⟩
      · exact absurd hc (habsent f hf)
      · omega
      · have := hlow f hf
        omega
  · subst ht
    rcases release_cases hb hw with hs | ⟨k, hR⟩
    · exact absurd (by rw [hs]) hne
    · exact hR.chime hw

end Sys2Proof.Machine
end

section
/-! The distance block through the operations that the commands come to (R113 to R117): no operation of another block changes it, and the
filters, the ring and the timers are no part of its odometry. -/

namespace Sys2Proof.Machine

/-- What R113 to R117 speak of: the accumulator, the k-factor with its history, and the two odometers. -/
def Distance.odometry (d : Distance) : Nat × Nat × List CalEntry × Nat × Nat :=
  (d.accumulator, d.kFactor, d.history, d.liveOdo, d.storedOdo)

section

variable (s : State)

/-! ### Shared operations -/

@[simp] theorem send_dist (l : List AlertAction) : (s.send l).dist = s.dist := (ripple_send (fun _ => True) s l trivial).dist

@[simp] theorem push_dist (code : Nat) (v : Severity) (o : Origin) : (s.push code v o).dist = s.dist := send_dist s _

@[simp] theorem release_dist (code : Nat) (o : Origin) : (s.release code o).dist = s.dist := send_dist s _

@[simp] theorem settleLamps_dist : s.settleLamps.dist = s.dist := (ripple_settleLamps (fun _ => True) s).dist

@[simp] theorem writePlain_dist (n : Nat) (w : SlotWrite) : (s.writePlain n w).dist = s.dist :=
  (ripple_writePlain (fun _ => True) s n w trivial trivial).dist

@[simp] theorem changeSlot_dist (n : Nat) (c : Cause) (r : SlotRecord) : (s.changeSlot n c r).dist = s.dist :=
  (ripple_changeSlot (fun _ => True) (fun _ _ => trivial) s n c r trivial).dist

@[simp] theorem writeSpeed_dist (w : SlotWrite) : (s.writeSpeed w).dist = s.dist := changeSlot_dist s _ _ _

@[simp] theorem expireSlot_dist (n : Nat) : (s.expireSlot n).dist = s.dist := changeSlot_dist s _ _ _

@[simp] theorem setMarks_dist (a b : Bool) : (s.setMarks a b).dist = s.dist := by
  obtain ⟨-, -, h, -⟩ := setMarks_spec s a b
  exact h

@[simp] theorem evalRule_dist (i : Nat) : (s.evalRule i).1.dist = s.dist :=
  (ripple_evalRule (fun _ => True) s i (fun _ => True) (fun _ _ => trivial) (fun _ _ => trivial)).dist

@[simp] theorem acknowledge_dist : s.acknowledge.dist = s.dist := (ripple_acknowledge (fun _ => True) s trivial).dist

@[simp] theorem minuteEvent_dist (d : Driver) : (s.minuteEvent d).dist = s.dist :=
  (ripple_minuteEvent (fun _ => True) (fun _ _ => trivial) s d).dist

@[simp] theorem enqueue_dist (d : Driver) (attempt : Nat) : (s.enqueue d attempt).dist = s.dist :=
  (ripple_enqueue (fun _ => True) (fun _ _ => trivial) s d attempt).dist

@[simp] theorem paramChanged_dist (id : Nat) : (s.paramChanged id).dist = s.dist :=
  (ripple_paramChanged (fun _ => True) (fun _ _ => trivial) s id).dist

@[simp] theorem reportFault_dist (c : Nat) : (s.reportFault c).dist = s.dist := by simp [State.reportFault]

/-! ### The controller (R66, R188 to R191) -/

@[simp] theorem judgeRun_dist : s.judgeRun.dist = s.dist := by
  unfold State.judgeRun
  split
  · exact (ripple_runEntry (fun _ => True) s trivial trivial).dist
  · rfl

/-- SLEEP entry stops the timers of the distance block (R123). -/
@[simp] theorem sleepEntry_odometry : s.sleepEntry.dist.odometry = s.dist.odometry := by
  have blocks (t : State) : t.sleepBlocks.dist.odometry = t.dist.odometry := rfl
  obtain ⟨-, -, -, -, -, -, -, -, -, -, hdist, -⟩ :=
    cutSave_frame { s with ign.power := .sleep, ign.hold := false, ign.parkingTimer := none, ign.secondTimer := none }
  unfold State.sleepEntry
  simp only []
  rw [State.compareIgn_dist, settleLamps_dist, blocks, hdist]

@[simp] theorem judgeSleep_odometry : s.judgeSleep.dist.odometry = s.dist.odometry := by
  unfold State.judgeSleep
  split
  · exact sleepEntry_odometry s
  · rfl

/-- A channel that moves, with what the controller makes of its report. -/
@[simp] theorem moveChannel_odometry (c : Nat) (ch : Channel) : (s.moveChannel c ch).dist.odometry = s.dist.odometry := by
  obtain ⟨reports, hn⟩ := noteChannel_only (s.putChannel c ch) s.gauges c
  unfold State.moveChannel
  simp only [hn]
  split
  · rfl
  · rw [judgeSleep_odometry, judgeRun_dist]
    rfl

@[simp] theorem stepChannel_odometry (c : Nat) : (s.stepChannel c).dist.odometry = s.dist.odometry :=
  moveChannel_odometry s c _

@[simp] theorem homeChannel_odometry (c : Nat) : (s.homeChannel c).dist.odometry = s.dist.odometry :=
  moveChannel_odometry s c _

@[simp] theorem failChannel_odometry (c : Nat) (cause : CoilFault) :
    (s.failChannel c cause).dist.odometry = s.dist.odometry := by simp [State.failChannel]

@[simp] theorem proveOutEnded_dist : s.proveOutEnded.dist = s.dist := by simp [State.proveOutEnded]

@[simp] theorem countSecond_dist : s.countSecond.dist = s.dist := by simp [State.countSecond]

/-! ### The ports, the intake and the stores -/

@[simp] theorem hearFrame_dist (p : Port) : (s.hearFrame p).dist = s.dist :=
  (hear_ripple s p).dist.trans (State.setPort_dist s p _)

@[simp] theorem sortFrame_dist (p : Port) (f : BusFrame) : (s.sortFrame p f).dist = s.dist := by
  unfold State.sortFrame State.intakeOffer
  split
  · split <;> simp
  · simp

@[simp] theorem countTxError_dist (p : Port) : (s.countTxError p).dist = s.dist := by
  unfold State.countTxError
  simp only []
  split <;> simp

@[simp] theorem fallSilent_dist (p : Port) : (s.fallSilent p).dist = s.dist := by
  unfold State.fallSilent
  simp only []
  split <;> simp

@[simp] theorem routeFrame_dist (route : Route) (r : FrameRecord) : (s.routeFrame route r).dist = s.dist := by
  unfold State.routeFrame
  simp only []
  split
  · exact (extract_ripple route r.data route.extractors _).dist
  · rfl

@[simp] theorem openBuild_dist (b : Build) : (s.openBuild b).dist = s.dist := by
  unfold State.openBuild State.abandonBuild
  split <;> simp

@[simp] theorem deleteRoute_dist (e : RouteEntry) : (s.deleteRoute e).dist = s.dist := by
  obtain ⟨R, -⟩ := deleteRoute_resets s e
  exact R.dist

@[simp] theorem calWritten_dist : s.calWritten.dist = s.dist := by
  unfold State.calWritten
  split <;> rfl

@[simp] theorem saveRead_dist (image : ConfigImage) (equal : Bool) : (s.saveRead image equal).dist = s.dist := by
  have report (t : State) : t.reportValid.dist = t.dist := by
    unfold State.reportValid
    split <;> simp
  unfold State.saveRead
  cases equal <;> simp [report]

/-! ### The rules, the lamps, the inputs and the display -/

@[simp] theorem enableRule_dist (i : Nat) : (s.enableRule i).dist = s.dist := by
  simp [State.enableRule, State.evalAlone]

@[simp] theorem clearRule_dist (i : Nat) : (s.clearRule i).dist = s.dist := by simp [State.clearRule]

@[simp] theorem confirmRule_dist (i : Nat) : (s.confirmRule i).dist = s.dist := by simp [State.confirmRule]

@[simp] theorem advancePhase_dist : s.advancePhase.dist = s.dist := by simp [State.advancePhase]

@[simp] theorem checkLamp_dist (n : Nat) (current : Bool) : (s.checkLamp n current).dist = s.dist := by
  unfold State.checkLamp
  simp only []
  split <;> simp

@[simp] theorem ackRecognised_dist : s.ackRecognised.dist = s.dist := by
  unfold State.ackRecognised
  simp only []
  split <;> simp

@[simp] theorem ackLevel_dist (pressed : Bool) : (s.ackLevel pressed).dist = s.dist := by
  unfold State.ackLevel
  split <;> rfl

@[simp] theorem pageLevel_dist (pressed : Bool) : (s.pageLevel pressed).dist = s.dist := by
  unfold State.pageLevel
  split <;> rfl

@[simp] theorem minutePassed_dist : s.minutePassed.dist = s.dist := by simp [State.minutePassed]

@[simp] theorem watchExpired_dist : s.watchExpired.dist = s.dist := by simp [State.watchExpired]

@[simp] theorem longPress_dist : s.longPress.dist = s.dist := by
  unfold State.longPress
  simp only []
  split <;> simp

@[simp] theorem turnPage_dist : s.turnPage.dist = s.dist := by simp [State.turnPage]

@[simp] theorem startRecord_dist : s.startRecord.dist = s.dist := by
  unfold State.startRecord
  split
  · split <;> rfl
  · rfl

@[simp] theorem readyUp_dist : s.readyUp.dist = s.dist := by
  unfold State.readyUp
  simp only []
  split <;> rfl

@[simp] theorem retry_dist : s.retry.dist = s.dist := by
  unfold State.retry
  split <;> rfl

/-! ### The filters and the zero timer (R106, R111) -/

@[simp] theorem setStability_odometry (p : Pin) (t : Timer) : (s.setStability p t).dist.odometry = s.dist.odometry := by
  cases p <;> rfl

@[simp] theorem setFiltered_odometry (p : Pin) (high : Bool) :
    (s.setFiltered p high).dist.odometry = s.dist.odometry := by
  cases p <;> rfl

@[simp] theorem takeRaw_odometry (p : Pin) (high : Bool) : (s.takeRaw p high).dist.odometry = s.dist.odometry := by
  have counted (t : State) (n : Nat) : ({ t with dist.filterReject := n } : State).dist.odometry = t.dist.odometry := rfl
  unfold State.takeRaw State.filterChange
  repeat' split
  all_goals simp [counted]

@[simp] theorem zeroExpired_odometry : s.zeroExpired.dist.odometry = s.dist.odometry := by
  unfold State.zeroExpired
  simp only []
  split
  · rfl
  · rw [writeSpeed_dist]
    rfl

@[simp] theorem spbEdge_odometry : s.spbEdge.dist.odometry = s.dist.odometry := by
  have cleared : ({ s with dist.phaseB := 0 } : State).dist.odometry = s.dist.odometry := rfl
  unfold State.spbEdge
  simp only []
  repeat' split
  all_goals simp [cleared]

end

end Sys2Proof.Machine
end

section
/-! The operations of the distance block and of the supply that change its odometry, each of which keeps what R113, R115 and R117 say. -/

namespace Sys2Proof.Machine

/-- A calibration image that a load takes passes the checks of R184. -/
theorem loadedCal_passes (contents : StoreContents CalImage) : (loadedCal contents).passes = true := by
  unfold loadedCal
  split
  · decide
  · decide
  · split
    · assumption
    · decide

/-- The distance block of the state obeys R113, R115 and R117. -/
def OdometryOk (s : State) : Prop := DistanceOk s.dist

namespace OdometryOk

variable {s t : State}

/-- A change of anything but the odometry. -/
theorem same (hs : OdometryOk s) (h : t.dist.odometry = s.dist.odometry) : OdometryOk t := by
  simp only [Distance.odometry, Prod.mk.injEq] at h
  obtain ⟨hacc, hk, hhistory, hlive, hstored⟩ := h
  unfold OdometryOk DistanceOk at *
  rw [hacc, hk, hhistory, hlive, hstored]
  exact hs

/-- The stored odometer takes the live one (R115). -/
theorem stored (hs : OdometryOk s) (h : t.dist = { s.dist with storedOdo := s.dist.liveOdo }) : OdometryOk t := by
  obtain ⟨hacc, hk, hroom, hlast, -⟩ := hs
  unfold OdometryOk
  rw [h]
  exact ⟨hacc, hk, hroom, hlast, Nat.le_refl _⟩

theorem storeOdometer (hs : OdometryOk s) : OdometryOk s.storeOdometer := hs.stored (requestCal_dist _)

/-- A pulse carries what reaches the k-factor into the odometer, and each kilometre stores it (R113 to R115). -/
theorem pulse (hs : OdometryOk s) : OdometryOk s.pulse := by
  obtain ⟨hacc, hk, hroom, hlast, hodo⟩ := hs
  obtain ⟨-, -, -, -, -, -, history, kFactor, -, -, -, -, -, -, -, accumulator, live, storedOdo, -⟩ := pulse_spec s _ rfl
  unfold OdometryOk DistanceOk
  rw [history, kFactor, accumulator]
  refine ⟨by split <;> omega, hk, hroom, hlast, ?_⟩
  have up : s.dist.liveOdo ≤ s.pulse.dist.liveOdo := by
    rw [live]
    split
    · exact Nat.le_refl _
    · split <;> omega
  rw [storedOdo]
  split
  · exact Nat.le_refl _
  · exact hodo.trans up

theorem acceptEdge (p : Pin) (hs : OdometryOk s) : OdometryOk (s.acceptEdge p) := by
  have taken : OdometryOk ((s.setStability p none).setFiltered p (s.rawLevel p)) := hs.same (by simp)
  unfold State.acceptEdge
  cases p with
  | spa =>
    simp only []
    split
    · exact taken.pulse
    · exact taken
  | spb => exact taken.same (spbEdge_odometry _)

/-- A k-factor accepted joins the history as its newest and clears the accumulator (R117, R118). -/
theorem changeK {k : Nat} (hs : OdometryOk s) (hk : kPasses k = true) (hroom : s.dist.history.length < historyRoom) :
    OdometryOk (s.changeK k) := by
  obtain ⟨-, -, -, -, hodo⟩ := hs
  have hk : 2000 ≤ k := by
    simp only [kPasses, Bool.and_eq_true, decide_eq_true_eq] at hk
    exact hk.1
  have pos : 0 < k := by omega
  refine storeOdometer ⟨pos, hk, ?_, ?_, hodo⟩
  · rw [List.length_append]
    exact hroom
  · simp only [List.getLast?_concat]
    rfl

/-- Both odometers take the value, and the accumulator is cleared (R120). -/
theorem setOdometer (metres : Nat) (hs : OdometryOk s) : OdometryOk (s.setOdometer metres) := by
  obtain ⟨-, hk, hroom, hlast, -⟩ := hs
  have pos : 0 < s.dist.kFactor := by omega
  have taken : OdometryOk { s with dist.liveOdo := metres, dist.storedOdo := metres, dist.accumulator := 0 } :=
    ⟨pos, hk, hroom, hlast, Nat.le_refl _⟩
  refine taken.same ?_
  unfold State.setOdometer State.showOdometer
  rw [requestCal_dist, (ripple_writeOther (fun _ => True) _ 2 _ trivial trivial).dist]

theorem sealNow (hs : OdometryOk s) : OdometryOk s.sealNow := by
  have marked : OdometryOk { s with dist.sealed := true } := hs
  exact marked.storeOdometer

/-! ### The supply and the changes of power state (R184, R188 to R192) -/

theorem parkingEntry (hs : OdometryOk s) : OdometryOk s.parkingEntry := by
  obtain ⟨-, -, -, -, -, -, -, -, -, hdist, -⟩ := parkingEntry_fields s
  exact hs.stored hdist

theorem returnToRun (hs : OdometryOk s) : OdometryOk s.returnToRun := by
  obtain ⟨-, -, -, -, -, -, -, -, -, -, -, -, -, -, hdist, -⟩ := returnToRun_spec s
  exact hs.same (congrArg Distance.odometry hdist)

/-- WAKING entry loads an image that passes, with the accumulator at 0 (R124, R184). -/
theorem wakingEntry (s : State) : OdometryOk s.wakingEntry := by
  have hp := loadedCal_passes s.settledCal
  simp only [CalImage.passes, kPasses, Bool.and_eq_true, decide_eq_true_eq] at hp
  obtain ⟨⟨⟨⟨hk, -⟩, hroom⟩, -⟩, hlast⟩ := hp
  have pos : 0 < (loadedCal s.settledCal).kFactor := by omega
  obtain ⟨R, -⟩ := wakingEntry_settled s
  obtain ⟨hblocks, -⟩ := wakingBlocks s
  unfold OdometryOk
  rw [R.dist, hblocks]
  exact ⟨pos, hk, hroom, hlast, Nat.le_refl _⟩

theorem poweredOn (s : State) : OdometryOk s.poweredOn := distanceOk_reset

theorem start (s : State) : OdometryOk s.start := by
  unfold State.start State.sampleIgn
  split
  · exact wakingEntry _
  · exact poweredOn s

theorem takeIgnLevel (hs : OdometryOk s) : OdometryOk s.takeIgnLevel := by
  have taken : OdometryOk { s with ign.level := s.pins.ign, ign.timer := none } := hs
  unfold State.takeIgnLevel
  simp only []
  split
  · exact wakingEntry _
  · exact taken.parkingEntry
  · exact taken.parkingEntry
  · exact taken.returnToRun
  · exact taken

end OdometryOk

end Sys2Proof.Machine
end

section
/-! The odometry through every command and every step (R113 to R118): O9. -/

namespace Sys2Proof.Machine

theorem exec_busOffRecoveryExpiry (s : State) (p : Port) :
    exec (.busOffRecoveryExpiry p) s =
      onExpiry (s.port p).recovery
        (fun t => t.setPort p { t.port p with state := .active, txErrors := 0, rxErrors := 0, recovery := none }) s := rfl

theorem exec_silenceTimerExpiry (s : State) (p : Port) :
    exec (.silenceTimerExpiry p) s = onExpiry (s.port p).silence (fun t => t.fallSilent p) s := rfl

theorem exec_calWriteComplete (s : State) :
    exec .calWriteComplete s = onExpiry s.store.writeTimer (fun t => t.calWritten.judgeSleep) s := rfl

namespace OdometryOk

variable {s t : State}

/-! ### What a classifier path, a request and an expiry keep -/

theorem path {path : State → FrameRecord → Bool} {f : FrameRecord → State → State} (hs : OdometryOk s)
    (ht : takeHead path f s = .next t) (hf : ∀ r u, (f r u).dist.odometry = u.dist.odometry) : OdometryOk t := by
  rcases takeHead_cases ht with rfl | ⟨r, rest, -, -, rfl⟩
  · exact hs
  · exact hs.same (hf r _)

theorem expiry {timer : Timer} {f : State → State} (hs : OdometryOk s) (ht : onExpiry timer f s = .next t)
    (hf : ∀ u, OdometryOk u → OdometryOk (f u)) : OdometryOk t := by
  rcases onExpiry_cases ht with rfl | ⟨due, -, rfl⟩
  · exact hs
  · exact hf _ hs

/-- An expiry whose effect leaves the odometry. -/
theorem timer {timer : Timer} {f : State → State} (hs : OdometryOk s) (ht : onExpiry timer f s = .next t)
    (hf : ∀ u, (f u).dist.odometry = u.dist.odometry) : OdometryOk t := hs.expiry ht fun u hu => hu.same (hf u)

/-- A request takes effect on the state on which it was judged, once its response has been offered. -/
theorem requestOffered {code : Nat} {judge : FrameRecord → State → Verdict} (hs : OdometryOk s)
    (ht : onRequest code judge s = .next t)
    (hj : ∀ r u f, OdometryOk u → OdometryOk ((judge r u).effect (u.offer f))) : OdometryOk t := by
  rcases takeHead_cases ht with rfl | ⟨r, rest, -, -, rfl⟩
  · exact hs
  · exact hj r _ _ hs

theorem offer (hs : OdometryOk s) (f : TxFrame) : OdometryOk (s.offer f) := hs.same (by simp)

theorem request {code : Nat} {judge : FrameRecord → State → Verdict} (hs : OdometryOk s)
    (ht : onRequest code judge s = .next t) (hj : ∀ r u, (judge r u).Keeps OdometryOk u) : OdometryOk t :=
  hs.requestOffered ht fun r u f hu => hj r u _ (quiet_offer u f) (hu.offer f)

/-- A verdict whose effect leaves the odometry. -/
theorem leaves {v : Verdict} {u : State} (h : ∀ x, (v.effect x).dist.odometry = x.dist.odometry) :
    v.Keeps OdometryOk u := fun x _ hx => hx.same (h x)

theorem accepts {f : State → State} {u : State} (h : ∀ x, (f x).dist.odometry = x.dist.odometry) :
    (Machine.accepts f).Keeps OdometryOk u := leaves h

theorem read {code : Nat} {judge : FrameRecord → State → Verdict} (hs : OdometryOk s)
    (ht : onRequest code judge s = .next t) (hj : ∀ r u, (judge r u).Reads) : OdometryOk t := by
  refine hs.request ht fun r u => leaves fun x => ?_
  rcases hj r u with e | e <;> rw [e] <;> rfl

/-- A command that does its work where a condition holds. -/
theorem guarded {c : Prop} [Decidable c] {u v : State} (hu : OdometryOk u) (hv : OdometryOk v) :
    OdometryOk (if c then u else v) := by
  split
  · exact hu
  · exact hv

/-! ### The requests -/

/-- SET_KFACTOR takes a k-factor in its range while the history has room (R118). -/
theorem setKfactor (hs : OdometryOk s) (ht : execSetKfactor s = .next t) : OdometryOk t := by
  refine hs.requestOffered ht fun r u f hu => ?_
  have ho := hu.offer f
  unfold judgeSetKfactor
  split
  · exact ho
  next hk =>
  split
  · exact ho
  split
  · exact ho
  · next hroom => exact ho.changeK (by simpa using hk) (by rw [State.offer_dist]; omega)

theorem setOdometerRequest (hs : OdometryOk s) (ht : execSetOdometer s = .next t) : OdometryOk t := by
  refine hs.request ht fun r u => ?_
  unfold judgeSetOdometer
  exact keeps_check fun _ x _ hx => hx.setOdometer (r.long 2)

theorem sealOdometer (hs : OdometryOk s) (ht : execSealOdometer s = .next t) : OdometryOk t :=
  hs.request ht fun _ _ => keeps_check fun _ _ _ hx => hx.sealNow

theorem setParam (hs : OdometryOk s) (ht : execSetParam s = .next t) : OdometryOk t :=
  hs.request ht fun _ _ => keeps_unlessSaving (keeps_check fun _ => keeps_check fun _ => keeps_check fun _ =>
    leaves fun x => by simp)

theorem routeOpen (hs : OdometryOk s) (ht : execRouteOpen s = .next t) : OdometryOk t :=
  hs.request ht fun _ _ => keeps_unlessSaving (keeps_check fun _ => keeps_check fun _ => keeps_check fun _ =>
    keeps_check fun _ => accepts fun x => by simp)

theorem acceptPart (u : State) (b : Build) : (acceptPart b).Keeps OdometryOk u := by
  unfold Machine.acceptPart
  split <;> exact leaves fun _ => rfl

theorem extA (hs : OdometryOk s) (ht : execExtA s = .next t) : OdometryOk t := by
  refine hs.request ht fun r u => keeps_unlessSaving ?_
  split
  · exact keeps_refuse _ u _
  · exact keeps_check fun _ => keeps_check fun _ => keeps_check fun _ => acceptPart u _

theorem extB (hs : OdometryOk s) (ht : execExtB s = .next t) : OdometryOk t := by
  refine hs.request ht fun r u => keeps_unlessSaving ?_
  split
  · exact keeps_refuse _ u _
  · exact keeps_check fun _ => keeps_check fun _ => acceptPart u _

theorem extC (hs : OdometryOk s) (ht : execExtC s = .next t) : OdometryOk t := by
  refine hs.request ht fun r u => keeps_unlessSaving ?_
  split
  · exact keeps_refuse _ u _
  · exact keeps_check fun _ => acceptPart u _

theorem routeDelete (hs : OdometryOk s) (ht : execRouteDelete s = .next t) : OdometryOk t := by
  refine hs.request ht fun r u => keeps_unlessSaving (keeps_check fun _ => ?_)
  split
  · exact accepts fun x => by simp
  · exact keeps_ite (fun _ => accepts fun _ => rfl) fun _ => keeps_refuse _ u _

theorem gaugeCommit (hs : OdometryOk s) (ht : execGaugeCommit s = .next t) : OdometryOk t :=
  hs.request ht fun _ _ => keeps_unlessSaving (keeps_check fun _ => keeps_check fun _ => keeps_check fun _ =>
    keeps_check fun _ => accepts fun x => moveChannel_odometry x _ _)

theorem writePart (u : State) (i : Nat) (f : Rule → Rule) : (writePart i f).Keeps OdometryOk u := leaves fun _ => rfl

theorem ruleA (hs : OdometryOk s) (ht : execRuleA s = .next t) : OdometryOk t := by
  refine hs.request ht fun r u => keeps_editable ?_
  split
  · exact writePart u _ _
  · exact keeps_refuse _ u _

theorem ruleC (hs : OdometryOk s) (ht : execRuleC s = .next t) : OdometryOk t := by
  refine hs.request ht fun r u => keeps_editable ?_
  split
  · exact writePart u _ _
  · exact keeps_refuse _ u _

theorem ruleD (hs : OdometryOk s) (ht : execRuleD s = .next t) : OdometryOk t := by
  refine hs.request ht fun r u => keeps_editable ?_
  split
  · exact keeps_refuse _ u _
  · exact keeps_check fun _ => writePart u _ _

theorem alertAck (hs : OdometryOk s) (ht : execAlertAck s = .next t) : OdometryOk t := by
  refine hs.request ht fun _ u => keeps_ite (fun _ => ?_) fun _ => keeps_refuse _ u _
  unfold AckResult.verdict
  split <;> exact leaves fun x => by simp

theorem cardRead (hs : OdometryOk s) (ht : execCardRead s = .next t) : OdometryOk t := by
  refine hs.request ht fun r u => ?_
  unfold judgeCardRead
  split
  · exact keeps_refuse _ u _
  · exact keeps_check fun _ => keeps_check fun _ => leaves fun x => by simp

/-! ### The other commands with a case of their own -/

theorem ignChange {high : Bool} (hs : OdometryOk s) (ht : execIgnChange high s = .next t) : OdometryOk t := by
  cases ht
  exact hs.guarded (guarded hs hs)

theorem restartExecute (hs : OdometryOk s) (ht : execRestartExecute s = .next t) : OdometryOk t := by
  unfold execRestartExecute at ht
  split at ht
  · cases ht; exact hs
  · split at ht <;> cases ht
    · exact start _
    · exact hs

theorem configSaveEnd {equal : Bool} (hs : OdometryOk s) (ht : execConfigSaveEnd equal s = .next t) : OdometryOk t := by
  unfold execConfigSaveEnd at ht
  split at ht <;> cases ht
  · exact hs
  · exact hs.same (by simp)

theorem routedFrame (hs : OdometryOk s) (ht : execRoutedFrame s = .next t) : OdometryOk t := by
  refine hs.path ht fun r u => ?_
  split
  · rw [routeFrame_dist]
  · rfl

theorem unroutedFrame (hs : OdometryOk s) (ht : execUnroutedFrame s = .next t) : OdometryOk t :=
  hs.path ht fun _ _ => by simp

theorem badRequest (hs : OdometryOk s) (ht : execBadRequest s = .next t) : OdometryOk t :=
  hs.path ht fun _ u => congrArg Distance.odometry (State.offer_dist u _)

theorem foreignMgmt (hs : OdometryOk s) (ht : execForeignMgmt s = .next t) : OdometryOk t := hs.path ht fun _ _ => rfl

theorem xferStray (hs : OdometryOk s) (ht : execXferStray s = .next t) : OdometryOk t := hs.path ht fun _ _ => rfl

theorem xferOpen (hs : OdometryOk s) (ht : execXferOpen s = .next t) : OdometryOk t := by
  refine hs.path ht fun r u => ?_
  split
  · rw [(ripple_takeOpen onlyTacho (fun _ h => h) u _ _).dist]
  · rfl

theorem xferData (hs : OdometryOk s) (ht : execXferData s = .next t) : OdometryOk t := by
  refine hs.path ht fun r u => ?_
  split
  · rw [(ripple_takeData onlyTacho (fun _ h => h) u _ _).dist]
  · rfl

theorem xferClose (hs : OdometryOk s) (ht : execXferClose s = .next t) : OdometryOk t := by
  refine hs.path ht fun r u => ?_
  split
  · rw [(ripple_takeClose onlyTacho (fun _ h => h) u _).dist]
  · rfl

/-! ### Every command and every step -/

theorem exec {c : Instr} (hs : OdometryOk s) (ht : Machine.exec c s = .next t) : OdometryOk t := by
  cases c with
  | powerOn => cases ht; exact hs.guarded (start s)
  | supplyLoss => cases ht; exact guarded (poweredOn s) hs
  | ignChange => exact hs.ignChange ht
  | ignTimerExpiry => exact hs.expiry ht fun _ hu => hu.takeIgnLevel
  | restartExecute => exact hs.restartExecute ht
  | filterStabilityExpiry p => rw [exec_filterStabilityExpiry] at ht; exact hs.expiry ht fun _ hu => hu.acceptEdge p
  | setKfactor => exact hs.setKfactor ht
  | setOdometer => exact hs.setOdometerRequest ht
  | sealOdometer => exact hs.sealOdometer ht
  | busOffRecoveryExpiry | silenceTimerExpiry | slotExpiry | stepEvent | homingStep | restDelayExpiry | confirmTimerExpiry
  | calWriteComplete =>
    simp only [exec_busOffRecoveryExpiry, exec_silenceTimerExpiry, exec_slotExpiry, exec_stepEvent, exec_homingStep,
      exec_restDelayExpiry, exec_confirmTimerExpiry, exec_calWriteComplete] at ht
    exact hs.timer ht fun _ => by simp
  | parkingTimerExpiry | secondTimerExpiry | phaseEvent | proveOutEnd | ackPress | zeroTimerExpiry | minuteTimerExpiry
  | silenceWatchExpiry | retryTimerExpiry | displayTransferStart | pageShortPress | pageLongPress =>
    exact hs.timer ht fun _ => by simp
  | toneCounterExpiry | readyTimerExpiry | displayTransferComplete => exact hs.timer ht fun _ => rfl
  | chimeIntervalEnd => exact hs.timer ht fun u => by rw [(ripple_chimeNext onlyTacho u).dist]
  | transferTimerExpiry => exact hs.timer ht fun u => by rw [(ripple_transferTimeout onlyTacho (fun _ h => h) u).dist]
  | mismatchTimerExpiry =>
    exact hs.timer ht fun u => by rw [(ripple_confirmSide (fun _ => True) (fun _ _ => trivial) u trivial).dist]
  | validFrameReceived | rxErrorDetected | txErrorDetected | txFrameComplete | coilFaultReport | lampTurnOnCheck =>
    cases ht; exact guarded (hs.same (by simp [State.frameSent])) hs
  | pinRawChange | ackInputChange | pageInputChange => cases ht; exact hs.guarded (hs.same (by simp))
  | readyRise => cases ht; exact hs.same (by simp)
  | readyFall => cases ht; exact hs
  | configSaveEnd => exact hs.configSaveEnd ht
  | routedFrame => exact hs.routedFrame ht
  | unroutedFrame => exact hs.unroutedFrame ht
  | foreignMgmt => exact hs.foreignMgmt ht
  | badRequest => exact hs.badRequest ht
  | xferOpen => exact hs.xferOpen ht
  | xferData => exact hs.xferData ht
  | xferClose => exact hs.xferClose ht
  | xferStray => exact hs.xferStray ht
  | xferAbort => exact hs.path ht fun _ u => by rw [(ripple_takeAbort onlyTacho (fun _ h => h) u).dist]
  | readEvents => exact hs.request ht fun _ _ => leaves fun _ => rfl
  | setNoticeMask => exact hs.request ht fun _ u => keeps_ite (fun _ => leaves fun _ => rfl) fun _ => keeps_refuse _ u _
  | setParam => exact hs.setParam ht
  | restart | configSave | configErase => exact hs.request ht fun _ _ => keeps_unlessSaving (accepts fun _ => rfl)
  | routeOpen => exact hs.routeOpen ht
  | extA => exact hs.extA ht
  | extB => exact hs.extB ht
  | extC => exact hs.extC ht
  | routeDelete => exact hs.routeDelete ht
  | gaugeField => exact hs.request ht fun _ _ => keeps_check fun _ => keeps_check fun _ => leaves fun _ => rfl
  | gaugeCommit => exact hs.gaugeCommit ht
  | ruleA => exact hs.ruleA ht
  | ruleB => exact hs.request ht fun _ u => keeps_editable (writePart u _ _)
  | ruleC => exact hs.ruleC ht
  | ruleD => exact hs.ruleD ht
  | ruleEnable =>
    exact hs.request ht fun _ _ => keeps_unlessSaving (keeps_check fun _ => keeps_check fun _ => keeps_check fun _ =>
      accepts fun _ => by simp)
  | ruleClear => exact hs.request ht fun _ _ => keeps_unlessSaving (keeps_check fun _ => accepts fun _ => by simp)
  | alertAck => exact hs.alertAck ht
  | cardRead => exact hs.cardRead ht
  | readCounters => exact hs.read ht reads_readCounters
  | getParam => exact hs.read ht reads_getParam
  | routeRead => exact hs.read ht reads_routeRead
  | readSlot => exact hs.read ht reads_readSlot
  | gaugeRead => exact hs.read ht reads_gaugeRead
  | ruleRead => exact hs.read ht reads_ruleRead
  | lampRead => exact hs.read ht reads_lampRead
  | alertRead => exact hs.read ht reads_alertRead
  | readCalHistory => exact hs.read ht reads_readCalHistory
  | distanceRead => exact hs.read ht reads_distanceRead
  | tachoRead => exact hs.read ht reads_tachoRead
  | displayRead => exact hs.read ht reads_displayRead

/-- A step on an empty queue sends what is on its way, runs what is due, or lets a microsecond pass. -/
theorem idle (hs : OdometryOk s) (ht : Machine.idle s = .next t) : OdometryOk t := by
  unfold Machine.idle at ht
  split at ht
  · cases ht; exact hs.same (by simp)
  · split at ht
    · exact hs.exec ht
    · split at ht <;> cases ht <;> exact hs

theorem step (hs : OdometryOk s) (ht : Machine.step s = .next t) : OdometryOk t := by
  unfold Machine.step at ht
  split at ht
  · next c rest _ =>
    have hq : OdometryOk { s with pending := rest } := hs
    exact hq.exec ht
  · exact hs.idle ht

end OdometryOk

/-- Settles O9: the commands leave the odometry but for a pulse, the requests of the calibration, PARKING entry, a load and power-on, each
of which keeps what is said of it. -/
theorem distanceKept : Obligations.DistanceKept := fun _ _ (hs : OdometryOk _) ht => hs.step ht

end Sys2Proof.Machine
end

section
/-! The requests of the distance block: SET_KFACTOR, SET_ODOMETER and SEAL, and the two reads (R118 to R122): O51 and O52. -/

namespace Sys2Proof.Machine

/-! ### Reads (R119, R122) -/

theorem exec_readCalHistory (s : State) : exec .readCalHistory s = onRequest 0x3B judgeReadCalHistory s := rfl

theorem exec_distanceRead (s : State) : exec .distanceRead s = onRequest 0x3C judgeDistanceRead s := rfl

/-- The ring count, direction and mode of selector 3 (R193). -/
theorem sensorByte_eq (s : State) :
    s.sensorByte =
      s.dist.ring.length + (if s.dist.reverse then 16 else 0) + (if s.param 7 = 0 then 0 else 32) := by
  have mode : 32 * bit (!s.quadrature) = if s.param 7 = 0 then 0 else 32 := by
    unfold State.quadrature bit
    by_cases h : s.param 7 = 0 <;> simp [h]
  have direction : 16 * bit s.dist.reverse = if s.dist.reverse then 16 else 0 := by
    cases s.dist.reverse <;> rfl
  unfold State.sensorByte
  rw [mode, direction]

/-- Settles O52: each read answers by its selector, once its arguments have passed, and has no effect. -/
theorem distanceReads : Obligations.DistanceReads := by
  refine fun s r rest => ⟨fun h => ?_, fun h => ?_⟩
  · rw [exec_readCalHistory]
    by_cases hb : 7 < r.byte 2 ∨ 1 < r.byte 3
    · rw [if_pos hb]
      exact onRequest_answers h (if_pos hb)
    · rw [if_neg hb]
      cases he : s.dist.history[r.byte 2]? with
      | none => exact onRequest_answers h ((if_neg hb).trans (by rw [he]; rfl))
      | some e =>
        by_cases h0 : r.byte 3 = 0
        · simp only [if_pos h0]
          exact onRequest_answers h ((if_neg hb).trans (by rw [he]; exact if_pos h0))
        · simp only [if_neg h0]
          exact onRequest_answers h ((if_neg hb).trans (by rw [he]; exact if_neg h0))
  · rw [exec_distanceRead]
    generalize hb : r.byte 2 = selector
    match selector with
    | 0 => exact onRequest_answers h (by unfold judgeDistanceRead; rw [hb]; rfl)
    | 1 => exact onRequest_answers h (by unfold judgeDistanceRead; rw [hb]; rfl)
    | 2 => exact onRequest_answers h (by unfold judgeDistanceRead; rw [hb]; rfl)
    | 3 => exact onRequest_answers h (by unfold judgeDistanceRead; rw [hb, sensorByte_eq]; rfl)
    | n + 4 => exact onRequest_answers h (by unfold judgeDistanceRead; rw [hb]; rfl)

/-! ### Calibration writes (R182) -/

/-- A calibration write requested by both ends of a ripple: its image, its timer and the write mark are the same. -/
theorem Ripple.requestCal {ch : Nat → Prop} {s t : State} (h : Ripple ch s t) : Ripple ch s.requestCal t.requestCal := by
  have self (u : State) : u.requestCal = u.travelAs u.requestCal := by
    unfold State.requestCal State.startCalWrite
    cases u.store.write <;> rfl
  have image : s.calImage = t.calImage := by
    unfold State.calImage
    rw [h.dist]
  obtain ⟨store, ign⟩ := requestCal_congr h.store.symm h.ign.symm h.clock.symm image
  obtain ⟨silent, phaseB, -⟩ := h.marks
  have ends : s.requestCal = s.travelAs t.requestCal := by
    rw [self s]
    unfold State.travelAs
    rw [store, ign, requestCal_dist, requestCal_dist, requestCal_table, requestCal_table, h.dist, silent, phaseB]
  rw [ends, self t]
  exact h.travel t.requestCal

/-! ### SET_KFACTOR, SET_ODOMETER and SEAL (R118, R120, R121) -/

theorem exec_setKfactor (s : State) : exec .setKfactor s = onRequest 0x38 judgeSetKfactor s := rfl

theorem exec_setOdometer (s : State) : exec .setOdometer s = onRequest 0x39 judgeSetOdometer s := rfl

theorem exec_sealOdometer (s : State) : exec .sealOdometer s = onRequest 0x3A judgeSeal s := rfl

theorem kPasses_iff (k : Nat) : kPasses k = false ↔ k < 2000 ∨ 64000 < k := by
  rw [← Bool.not_eq_true, kPasses, Bool.and_eq_true, decide_eq_true_eq, decide_eq_true_eq]
  omega

/-- A request judged: its answer, and its effect behind it. -/
theorem onRequest_judged {code : Nat} {s : State} {r : FrameRecord} {rest : List FrameRecord} (h : Asked code s r rest)
    {judge : FrameRecord → State → Verdict} {v : Verdict} (hv : judge r { s with intake.queue := rest } = v) :
    onRequest code judge s = .next (v.effect (answered s r rest v.result v.data)) := by
  rw [onRequest_asked h, hv]

section

variable {s : State} {r : FrameRecord} {rest : List FrameRecord}

theorem setKfactor_answers (h : Asked 0x38 s r rest) :
    exec .setKfactor s = .next
      (if r.word 2 < 2000 ∨ 64000 < r.word 2 then answered s r rest .badArg []
       else if r.word 2 = s.dist.kFactor then answered s r rest .noChange []
       else if 8 ≤ s.dist.history.length then answered s r rest .historyFull []
       else (answered s r rest .ok (u8 (s.dist.history.length + 1))).changeK (r.word 2)) := by
  rw [exec_setKfactor]
  split
  · next hk => exact onRequest_answers h (if_pos ((kPasses_iff _).mpr hk))
  next hk =>
  have hk := mt (kPasses_iff _).mp hk
  split
  · next hsame => exact onRequest_answers h ((if_neg hk).trans (if_pos hsame))
  next hsame =>
  split
  · next hfull => exact onRequest_answers h ((if_neg hk).trans ((if_neg hsame).trans (if_pos hfull)))
  · next hroom => exact onRequest_judged (judge := judgeSetKfactor) h ((if_neg hk).trans ((if_neg hsame).trans (if_neg hroom)))

theorem setOdometer_answers (h : Asked 0x39 s r rest) :
    exec .setOdometer s = .next
      (if s.dist.sealed then answered s r rest .sealed [] else (answered s r rest .ok []).setOdometer (r.long 2)) := by
  rw [exec_setOdometer]
  split
  · next hsealed => exact onRequest_answers h (if_pos hsealed)
  · next hopen => exact onRequest_judged (judge := judgeSetOdometer) h (if_neg hopen)

theorem sealOdometer_answers (h : Asked 0x3A s r rest) :
    exec .sealOdometer s = .next
      (if s.dist.sealed then answered s r rest .noChange [] else (answered s r rest .ok []).sealNow) := by
  rw [exec_sealOdometer]
  split
  · next hsealed => exact onRequest_answers h (if_pos hsealed)
  · next hopen => exact onRequest_judged (judge := judgeSeal) h (if_neg hopen)

end

/-! ### What an accepted request makes of the calibration (R118, R120, R121) -/

section

variable (s : State)

theorem changeK_eq (k : Nat) :
    s.changeK k =
      withCalWrite
        { s with
          dist.history := s.dist.history ++ [{ oldK := s.dist.kFactor, newK := k, odometer := s.dist.liveOdo }],
          dist.kFactor := k, dist.accumulator := 0, dist.storedOdo := s.dist.liveOdo } := requestCal_eq _

theorem sealNow_eq : s.sealNow = withCalWrite { s with dist.sealed := true, dist.storedOdo := s.dist.liveOdo } :=
  requestCal_eq _

/-- Both odometers take the value, before slot 2 follows (R120). -/
def State.odometerTaken (metres : Nat) : State :=
  { s with dist.liveOdo := metres, dist.storedOdo := metres, dist.accumulator := 0 }

theorem setOdometer_value (metres : Nat) : ((s.setOdometer metres).slot 2).value = (metres / 100 : Nat) := by
  have shown : (s.setOdometer metres).slot 2 = (s.odometerTaken metres).showOdometer.slot 2 :=
    congrArg (fun t : SignalTable => t.slots.get 2 SlotRecord.frameNever) (requestCal_table _)
  rw [shown]
  exact writeOther_value _ 2 _ (by decide) (by decide)

/-- The calibration written and slot 2's write keep out of each other's way. -/
theorem setOdometer_ripple (metres : Nat) :
    Ripple (fun n => n = 2 ∨ n = 13) (withCalWrite (s.odometerTaken metres)) (s.setOdometer metres) := by
  rw [← requestCal_eq]
  exact (ripple_writeOther (fun n => n = 2 ∨ n = 13) (s.odometerTaken metres) 2 (metres / 100 : Nat) (.inl rfl)
    (.inr rfl)).requestCal

/-- Slot 2 is not written where it holds the quotient. -/
theorem setOdometer_still {metres : Nat} (h : (s.slot 2).value = (metres / 100 : Nat)) :
    s.setOdometer metres = withCalWrite (s.odometerTaken metres) := by
  have still : (s.odometerTaken metres).showOdometer = s.odometerTaken metres := if_pos h
  rw [← requestCal_eq]
  exact congrArg State.requestCal still

end

/-- Settles O51: each request answers by its checks, and an accepted one is its change of the calibration with the write requested. -/
theorem calRequests : Obligations.CalRequests := by
  refine fun s r rest => ⟨fun h => ?_, fun h => ⟨fun hsealed => ?_, fun hopen => ?_⟩, fun h => ?_⟩
  · simp only [setKfactor_answers h, changeK_eq, answered_dist]
  · rw [setOdometer_answers h, if_pos hsealed]
  · have run := setOdometer_answers h
    rw [if_neg (by rw [hopen]; exact Bool.false_ne_true)] at run
    exact ⟨_, run, setOdometer_value _ _, setOdometer_ripple _ _, fun h2 =>
      setOdometer_still _ (by unfold State.slot at h2 ⊢; rw [answered_table]; exact h2)⟩
  · simp only [sealOdometer_answers h, sealNow_eq, answered_dist]

end Sys2Proof.Machine
end

section
/-! The sensor filters and the zero timer (R106, R111, R125, R153): O53. -/

namespace Sys2Proof.Machine

/-! ### The filters (R106, R125) -/

section

variable {s : State} {p : Pin} {high : Bool}

theorem exec_pinRawChange (s : State) (p : Pin) (high : Bool) :
    exec (.pinRawChange p high) s = .next (if s.rawLevel p = high then s else s.takeRaw p high) := rfl

theorem rawLevel_setRaw (s : State) (p : Pin) (high : Bool) : (s.setRaw p high).rawLevel p = high := by
  cases p <;> rfl

theorem filtered_setRaw (s : State) (p : Pin) (high : Bool) : (s.setRaw p high).filtered p = s.filtered p := by
  cases p <;> rfl

/-- The level that a pin has already. -/
theorem setRaw_same (h : s.rawLevel p = high) : s.setRaw p high = s := by
  subst h
  cases p <;> rfl

theorem pinRawChange_same (h : s.rawLevel p = high) : exec (.pinRawChange p high) s = .next s := by
  rw [exec_pinRawChange, if_pos h]

/-- In SLEEP and without supply the level alone is held. -/
theorem pinRawChange_off (ha : s.awake = false) : exec (.pinRawChange p high) s = .next (s.setRaw p high) := by
  rw [exec_pinRawChange]
  split
  · next h => rw [setRaw_same h]
  · unfold State.takeRaw
    rw [if_neg (by rw [ha]; exact Bool.false_ne_true)]

theorem pinRawChange_awake (ha : s.awake = true) (h : s.rawLevel p ≠ high) :
    exec (.pinRawChange p high) s = .next ((s.setRaw p high).filterChange p) := by
  rw [exec_pinRawChange, if_neg h]
  unfold State.takeRaw
  rw [if_pos ha]

/-- A raw level away from the filtered level starts the stability time. -/
theorem pinRawChange_away (ha : s.awake = true) (h : s.rawLevel p ≠ high) (hf : s.filtered p ≠ high) :
    exec (.pinRawChange p high) s = .next ((s.setRaw p high).setStability p (s.after (s.paramNat 8))) := by
  have after : (s.setRaw p high).after ((s.setRaw p high).paramNat 8) = s.after (s.paramNat 8) := by cases p <;> rfl
  rw [pinRawChange_awake ha h]
  unfold State.filterChange
  rw [rawLevel_setRaw, filtered_setRaw, if_neg (Ne.symm hf), after]

/-- A change rejected: the stability time that runs is stopped, and counted. -/
def State.changeRejected (s : State) (p : Pin) : State :=
  { s.setStability p none with
    dist.filterReject := if s.stability p = none then s.dist.filterReject else min (s.dist.filterReject + 1) 65535 }

/-- A raw level back at the filtered level rejects the change. -/
theorem pinRawChange_back (ha : s.awake = true) (h : s.rawLevel p ≠ high) (hf : s.filtered p = high) :
    exec (.pinRawChange p high) s = .next ((s.setRaw p high).changeRejected p) := by
  rw [pinRawChange_awake ha h]
  unfold State.filterChange State.changeRejected
  rw [rawLevel_setRaw, filtered_setRaw, if_pos hf.symm]
  generalize s.setRaw p high = t
  have unset (hn : t.stability p = none) : t.setStability p none = t := by
    rw [← hn]
    cases p <;> rfl
  have reject : (t.setStability p none).dist.filterReject = t.dist.filterReject := by cases p <;> rfl
  cases hn : t.stability p with
  | none =>
    rw [if_neg (by decide), if_pos rfl, unset hn]
  | some due =>
    rw [Option.isSome_some, if_pos rfl, if_neg (Option.some_ne_none due), reject]
    rfl

end

/-! ### The zero timer (R111, R153) -/

/-- Settles O53: a pin's new level by its filtered level and the power state, and the zero timer by the silent mark. -/
theorem filterEvents : Obligations.FilterEvents := by
  refine ⟨fun s high => ⟨pinRawChange_same (p := .spa), pinRawChange_same (p := .spb), fun hoff => ?_, fun hp hw => ?_⟩,
    fun s due hdue => ?_⟩
  · have ha := awake_off s hoff
    exact ⟨pinRawChange_off (p := .spa) ha, pinRawChange_off (p := .spb) ha⟩
  · have ha := awake_on s hp hw
    exact ⟨pinRawChange_away (p := .spa) ha, pinRawChange_back (p := .spa) ha, pinRawChange_away (p := .spb) ha,
      pinRawChange_back (p := .spb) ha⟩
  · rw [exec_zeroTimerExpiry, onExpiry_running hdue]
    refine ⟨_, rfl, fun hmark => if_pos hmark, fun hmark => ?_⟩
    rw [zeroExpired_eq (s := s.reach due) hmark]
    generalize hy : ({ s.reach due with dist.ring := [], dist.lastPulse := none, dist.zeroTimer := none } : State) = y
    have link : y.display = s.display := by rw [← hy]; rfl
    refine ⟨?_, fun hon => writeSpeed_marks y _ (by rw [link]; exact hon), ripple_writeSpeed y _⟩
    unfold Shows
    rw [slot_writeSpeed]
    exact ⟨rfl, rfl⟩

end Sys2Proof.Machine
end

section
/-! The readout queue, the transfer record with its timer, and the parameters through the operations of the other blocks, none of
which changes them (R126, R134, R136, R173). -/

namespace Sys2Proof.Machine

/-- What the invariants of the readout queue and of the parameters speak of: the queue, the transfer record with its timer, and the
held values and the values in effect. -/
def State.upheld (s : State) : List Readout × Transfer × Timer × Bank Int 27 × Bank Int 27 :=
  (s.tacho.readout, s.tacho.transfer, s.tacho.transferTimer, s.mgmt.held, s.mgmt.inEffect)

/-- A ripple leaves the parameters; one that leaves the tachograph block too leaves all of them. -/
theorem Ripple.upheld {ch ev : Nat → Prop} {s t : State} (R : Ripple ch s t ev) (h : t.tacho = s.tacho) :
    t.upheld = s.upheld := by
  unfold State.upheld
  rw [h, R.heldBank, R.inEffect]

section

variable (s : State)

/-! ### Shared operations -/

@[simp] theorem send_upheld (l : List AlertAction) : (s.send l).upheld = s.upheld :=
  (ripple_send (fun _ => True) s l trivial).upheld (cascade_send s l).tacho

@[simp] theorem push_upheld (code : Nat) (v : Severity) (o : Origin) : (s.push code v o).upheld = s.upheld := send_upheld s _

@[simp] theorem release_upheld (code : Nat) (o : Origin) : (s.release code o).upheld = s.upheld := send_upheld s _

@[simp] theorem raise_upheld (f : EventFlag) : (s.raise f).upheld = s.upheld :=
  (ripple_raise (fun _ => True) s f).upheld (s.raise_tacho f)

@[simp] theorem offer_upheld (f : TxFrame) : (s.offer f).upheld = s.upheld :=
  (ripple_offer (fun _ => True) s f).upheld (s.offer_tacho f)

@[simp] theorem markDirty_upheld (kinds : List RecordKind) : (s.markDirty kinds).upheld = s.upheld :=
  (ripple_markDirty (fun _ => True) s kinds).upheld (s.markDirty_tacho kinds)

@[simp] theorem settleLamps_upheld : s.settleLamps.upheld = s.upheld :=
  (ripple_settleLamps (fun _ => True) s).upheld (cascade_settleLamps s).tacho

@[simp] theorem tell_upheld (n : Nat) : (s.tell n).upheld = s.upheld :=
  (ripple_tell (fun _ => True) s n trivial).upheld (tell_tacho s n)

@[simp] theorem writePlain_upheld (n : Nat) (w : SlotWrite) : (s.writePlain n w).upheld = s.upheld :=
  (ripple_writePlain (fun _ => True) s n w trivial trivial).upheld (writePlain_tacho s n w)

@[simp] theorem writeOther_upheld (n : Nat) (v : Int) : (s.writeOther n v).upheld = s.upheld :=
  (ripple_writeOther (fun _ => True) s n v trivial trivial).upheld (writeOther_tacho s n v)

@[simp] theorem writeSummary_upheld (d : Driver) (v : Int) : (s.writeSummary d v).upheld = s.upheld := writeOther_upheld s _ v

@[simp] theorem evalRule_upheld (i : Nat) : (s.evalRule i).1.upheld = s.upheld :=
  (ripple_evalRule (fun _ => True) s i (fun _ => True) (fun _ _ => trivial) (fun _ _ => trivial)).upheld (evalRule_tacho s i)

@[simp] theorem chimeRequest?_upheld (p : Option ChimePattern) : (s.chimeRequest? p).upheld = s.upheld :=
  (ripple_chimeRequest? (fun _ => True) s p).upheld (cascade_chimeRequest? s p).tacho

@[simp] theorem updateDuty_upheld : s.updateDuty.upheld = s.upheld :=
  (ripple_updateDuty (fun _ => True) s (fun _ => True) fun _ _ => trivial).upheld s.updateDuty_tacho

@[simp] theorem setPort_upheld (p : Port) (b : PortBlock) : (s.setPort p b).upheld = s.upheld := by cases p <;> rfl

@[simp] theorem putChannel_upheld (c : Nat) (ch : Channel) : (s.putChannel c ch).upheld = s.upheld := rfl

@[simp] theorem putDriver_upheld (d : Driver) (r : DriverRecord) : (s.putDriver d r).upheld = s.upheld := by cases d <;> rfl

@[simp] theorem setDriver_upheld (d : Driver) (r : DriverRecord) : (s.setDriver d r).upheld = s.upheld := by
  unfold State.setDriver
  split <;> simp

@[simp] theorem setMarks_upheld (a b : Bool) : (s.setMarks a b).upheld = s.upheld := by
  have marked : ({ s with table.silentMark := a, table.phaseBMark := b } : State).upheld = s.upheld := rfl
  unfold State.setMarks
  simp only []
  repeat' split
  all_goals simp [marked]

/-- An acknowledgement makes a change of the stack, and then sends what the rules on slot 13 answer. -/
@[simp] theorem acknowledge_upheld : s.acknowledge.upheld = s.upheld := by
  refine (ripple_acknowledge (fun _ => True) s trivial).upheld ?_
  unfold State.acknowledge
  split
  · rfl
  · exact (cascade_chimeRequest s _).tacho
  · have top (u : State) : u.settleTop.tacho = u.tacho := by
      unfold State.settleTop
      split
      · exact (cascade_settleLamps u).tacho
      · rfl
    simp only [top]
    rw [(cascade_send _ _).tacho, (cascade_stackChanged _ _).tacho]
    rfl

@[simp] theorem chimeNext_upheld : s.chimeNext.upheld = s.upheld := by
  refine (ripple_chimeNext (fun _ => True) s).upheld ?_
  unfold State.chimeNext
  repeat' split
  all_goals rfl

/-- A calibration write requested touches the store block and the controller's mark. -/
@[simp] theorem requestCal_upheld : s.requestCal.upheld = s.upheld := by
  obtain ⟨w, t, m, h, -⟩ := requestCal_frame s
  rw [h]
  rfl

@[simp] theorem storeOdometer_upheld : s.storeOdometer.upheld = s.upheld := requestCal_upheld _

@[simp] theorem moveAll_upheld (f : Channel → Channel) : (s.moveAll f).upheld = s.upheld := by
  obtain ⟨reports, h⟩ := moveAll_only s f
  rw [h]
  rfl

@[simp] theorem resumeRules_upheld : s.resumeRules.upheld = s.upheld := by
  obtain ⟨rules, h⟩ := resumeFold_rules (List.range 64) (s, [])
  unfold State.resumeRules
  simp only [send_upheld, h]
  rfl

/-! ### The controller (R66, R188) -/

@[simp] theorem compareIgn_upheld : s.compareIgn.upheld = s.upheld := rfl

@[simp] theorem judgeRun_upheld : s.judgeRun.upheld = s.upheld := by
  have entered : ({ s with
      ign.power := .run, ign.secondTimer := s.after (ms 1000), tacho.minuteTimer := s.after (ms 60000) } : State).upheld =
        s.upheld := rfl
  unfold State.judgeRun State.runEntry
  split <;> simp [entered]

@[simp] theorem proveOutEnded_upheld : s.proveOutEnded.upheld = s.upheld := by
  unfold State.proveOutEnded
  rw [judgeRun_upheld, settleLamps_upheld]
  rfl

@[simp] theorem countSecond_upheld : s.countSecond.upheld = s.upheld := writePlain_upheld _ _ _

@[simp] theorem reportFault_upheld (c : Nat) : (s.reportFault c).upheld = s.upheld := by simp [State.reportFault]

/-! ### The ports, the intake and the stores -/

@[simp] theorem hearFrame_upheld (p : Port) : (s.hearFrame p).upheld = s.upheld := by
  unfold State.hearFrame
  simp only []
  repeat' split
  all_goals simp

@[simp] theorem intakeOffer_upheld (r : FrameRecord) : (s.intakeOffer r).upheld = s.upheld := by
  unfold State.intakeOffer
  split
  · rfl
  · simp

@[simp] theorem sortFrame_upheld (p : Port) (f : BusFrame) : (s.sortFrame p f).upheld = s.upheld := by
  unfold State.sortFrame
  split <;> simp

@[simp] theorem countTxError_upheld (p : Port) : (s.countTxError p).upheld = s.upheld := by
  unfold State.countTxError
  simp only []
  split <;> simp

@[simp] theorem fallSilent_upheld (p : Port) : (s.fallSilent p).upheld = s.upheld := by
  unfold State.fallSilent
  simp only []
  split <;> simp

@[simp] theorem openBuild_upheld (b : Build) : (s.openBuild b).upheld = s.upheld := by
  have abandoned : s.abandonBuild.upheld = s.upheld := by
    unfold State.abandonBuild
    split <;> simp
  exact abandoned

@[simp] theorem calWritten_upheld : s.calWritten.upheld = s.upheld := by
  unfold State.calWritten
  split <;> rfl

@[simp] theorem saveRead_upheld (image : ConfigImage) (equal : Bool) : (s.saveRead image equal).upheld = s.upheld := by
  have report (u : State) : u.reportValid.upheld = u.upheld := by
    have valid : ({ u with store.report := true } : State).upheld = u.upheld := rfl
    unfold State.reportValid
    split <;> simp [valid]
  unfold State.saveRead
  simp only []
  split
  · rw [report, raise_upheld]
    rfl
  · rw [raise_upheld]
    rfl

/-! ### The rules, the lamps, the inputs and the display -/

@[simp] theorem putRule_upheld (i : Nat) (r : Rule) : (s.putRule i r).upheld = s.upheld := rfl

@[simp] theorem enableRule_upheld (i : Nat) : (s.enableRule i).upheld = s.upheld := by
  simp [State.enableRule, State.evalAlone]

@[simp] theorem clearRule_upheld (i : Nat) : (s.clearRule i).upheld = s.upheld := by simp [State.clearRule]

@[simp] theorem confirmRule_upheld (i : Nat) : (s.confirmRule i).upheld = s.upheld := by simp [State.confirmRule]

@[simp] theorem advancePhase_upheld : s.advancePhase.upheld = s.upheld := settleLamps_upheld _

@[simp] theorem checkLamp_upheld (n : Nat) (current : Bool) : (s.checkLamp n current).upheld = s.upheld := by
  have put (l : Lamp) : (s.putLamp n l).upheld = s.upheld := rfl
  unfold State.checkLamp
  simp only []
  split <;> simp [put]

@[simp] theorem ackRecognised_upheld : s.ackRecognised.upheld = s.upheld := by
  unfold State.ackRecognised
  simp only []
  split
  · exact acknowledge_upheld _
  · rfl

@[simp] theorem ackLevel_upheld (pressed : Bool) : (s.ackLevel pressed).upheld = s.upheld := by
  unfold State.ackLevel
  split <;> rfl

@[simp] theorem pageLevel_upheld (pressed : Bool) : (s.pageLevel pressed).upheld = s.upheld := by
  unfold State.pageLevel
  split <;> rfl

@[simp] theorem turnPage_upheld : s.turnPage.upheld = s.upheld := markDirty_upheld _ _

@[simp] theorem startRecord_upheld : s.startRecord.upheld = s.upheld := by
  unfold State.startRecord
  split
  · split <;> rfl
  · rfl

@[simp] theorem readyUp_upheld : s.readyUp.upheld = s.upheld := by
  unfold State.readyUp
  simp only []
  split <;> rfl

@[simp] theorem retry_upheld : s.retry.upheld = s.upheld := by
  unfold State.retry
  split <;> rfl

/-! ### The distance block (R106 to R120) -/

@[simp] theorem setFiltered_upheld (p : Pin) (high : Bool) : (s.setFiltered p high).upheld = s.upheld := by cases p <;> rfl

@[simp] theorem setStability_upheld (p : Pin) (timer : Timer) : (s.setStability p timer).upheld = s.upheld := by
  cases p <;> rfl

@[simp] theorem filterChange_upheld (p : Pin) : (s.filterChange p).upheld = s.upheld := by
  unfold State.filterChange
  split
  · split
    · exact setStability_upheld s p none
    · rfl
  · exact setStability_upheld s p _

@[simp] theorem takeRaw_upheld (p : Pin) (high : Bool) : (s.takeRaw p high).upheld = s.upheld := by
  have raw : (s.setRaw p high).upheld = s.upheld := by cases p <;> rfl
  unfold State.takeRaw
  split <;> simp [raw]

@[simp] theorem clearSilent_upheld : s.clearSilent.upheld = s.upheld := by
  unfold State.clearSilent
  simp only []
  repeat' split
  all_goals simp

@[simp] theorem takeDirection_upheld : s.takeDirection.upheld = s.upheld := by
  unfold State.takeDirection
  split
  · rfl
  · exact writePlain_upheld _ _ _

@[simp] theorem countPhaseB_upheld : s.countPhaseB.upheld = s.upheld := by
  have counted : ({ s with dist.phaseB := s.dist.phaseB + 1 } : State).upheld = s.upheld := rfl
  unfold State.countPhaseB State.phaseBFault
  simp only []
  repeat' split
  all_goals simp [counted]

@[simp] theorem spbEdge_upheld : s.spbEdge.upheld = s.upheld := by
  have cleared : ({ s with dist.phaseB := 0 } : State).upheld = s.upheld := rfl
  unfold State.spbEdge
  simp only []
  repeat' split
  all_goals simp [cleared]

@[simp] theorem accumulate_upheld : s.accumulate.upheld = s.upheld := by
  have metre (u : State) : u.addMetre.upheld = u.upheld := by
    have longer : ({ u with dist.liveOdo := u.dist.liveOdo + 1 } : State).upheld = u.upheld := rfl
    unfold State.addMetre State.showOdometer
    simp only []
    repeat' split
    all_goals simp [longer]
  unfold State.accumulate
  split
  · rfl
  · exact metre _

@[simp] theorem setOdometer_upheld (metres : Nat) : (s.setOdometer metres).upheld = s.upheld := by
  unfold State.setOdometer State.showOdometer
  rw [requestCal_upheld, writeOther_upheld]
  rfl

/-! ### The tachograph block's counters and its watches (R128 to R131, R146 to R148) -/

@[simp] theorem writeCounters_upheld (d : Driver) : (s.writeCounters d).upheld = s.upheld := by
  unfold State.writeCounters
  simp only []
  split <;> simp

@[simp] theorem reconcile_upheld (d : Driver) (v : Nat) : (s.reconcile d v).upheld = s.upheld := by simp [State.reconcile]

@[simp] theorem minuteEvent_upheld (d : Driver) : (s.minuteEvent d).upheld = s.upheld := by
  unfold State.minuteEvent
  split <;> simp

@[simp] theorem minutePassed_upheld : s.minutePassed.upheld = s.upheld := by
  unfold State.minutePassed
  rw [minuteEvent_upheld, minuteEvent_upheld]
  rfl

@[simp] theorem followLimit_upheld (d : Driver) : (s.followLimit d).upheld = s.upheld := by
  unfold State.followLimit
  split <;> simp

@[simp] theorem judgeMismatch_upheld : s.judgeMismatch.upheld = s.upheld := by
  unfold State.judgeMismatch
  repeat' split
  all_goals rfl

@[simp] theorem judgeWatch_upheld : s.judgeWatch.upheld = s.upheld := by
  unfold State.judgeWatch
  repeat' split
  all_goals rfl

@[simp] theorem speedEvent_upheld (n : Nat) : (s.speedEvent n).upheld = s.upheld := by
  unfold State.speedEvent
  repeat' split
  all_goals simp

@[simp] theorem contEvent_upheld (d : Driver) (e : UpdateEvent) : (s.contEvent d e).upheld = s.upheld := by
  unfold State.contEvent
  split <;> simp

@[simp] theorem pulseNotice_upheld : s.pulseNotice.upheld = s.upheld := by
  unfold State.pulseNotice
  split <;> rfl

@[simp] theorem confirmSide_upheld : s.confirmSide.upheld = s.upheld := by
  have stopped : ({ s with tacho.mismatchTimer := none } : State).upheld = s.upheld := rfl
  unfold State.confirmSide
  simp only []
  repeat' split
  all_goals simp [stopped]

end

end Sys2Proof.Machine
end
section
/-! The readout queue and the parameters through the operations that change them: the tachograph block's own, a change of a slot,
the changes of power state, and a parameter set (R134 to R143, R150, R173, R174, R183, R188 to R192). -/

namespace Sys2Proof.Machine

/-- What is said of the readout queue (R134, R136) and of the parameters (R126, R127, R173, R174) is kept from `s` to `t`. -/
structure Upholds (s t : State) : Prop where
  readout : ReadoutOk s.tacho → ReadoutOk t.tacho
  params : ParamsOk s.mgmt → ParamsOk t.mgmt

theorem Upholds.refl (s : State) : Upholds s s := ⟨id, id⟩

theorem Upholds.trans {s t u : State} (h : Upholds s t) (k : Upholds t u) : Upholds s u :=
  ⟨fun hs => k.readout (h.readout hs), fun hs => k.params (h.params hs)⟩

theorem Upholds.foldl {α : Type} {f : State → α → State} (hf : ∀ s a, Upholds s (f s a)) :
    ∀ (l : List α) (s : State), Upholds s (l.foldl f s)
  | [], s => Upholds.refl s
  | a :: l, s => (hf s a).trans (Upholds.foldl hf l (f s a))

/-- What is said of a tachograph block is said of its queue, its transfer record and that record's timer. -/
theorem readoutOk_of_eq {k l : Tacho} (hq : l.readout = k.readout) (hx : l.transfer = k.transfer)
    (ht : l.transferTimer = k.transferTimer) (h : ReadoutOk k) : ReadoutOk l := by
  unfold ReadoutOk at *
  rw [hq, hx, ht]
  exact h

/-- What is said of the parameters is said of the held values and the values in effect. -/
theorem paramsOk_of_eq {m n : Management} (hh : n.held = m.held) (he : n.inEffect = m.inEffect) (h : ParamsOk m) :
    ParamsOk n := by
  unfold ParamsOk at *
  rw [hh, he]
  exact h

/-- A change of anything else. -/
theorem Upholds.same {s t : State} (h : t.upheld = s.upheld) : Upholds s t := by
  simp only [State.upheld, Prod.mk.injEq] at h
  obtain ⟨hq, hx, ht, hh, he⟩ := h
  exact ⟨readoutOk_of_eq hq hx ht, paramsOk_of_eq hh he⟩

/-- A ripple leaves the parameters. -/
theorem Upholds.ripple {ch ev : Nat → Prop} {s t : State} (R : Ripple ch s t ev)
    (h : ReadoutOk s.tacho → ReadoutOk t.tacho) : Upholds s t := ⟨h, paramsOk_of_eq R.heldBank R.inEffect⟩

/-- A command that does its work where a condition holds. -/
theorem Upholds.guarded {c : Prop} [Decidable c] {s t u : State} (ht : Upholds s t) (hu : Upholds s u) :
    Upholds s (if c then t else u) := by
  split
  · exact ht
  · exact hu

section

variable (s : State)

/-! ### The readout queue (R134, R136) -/

/-- With the transfer record IDLE and its timer stopped, a queue that holds no driver twice is all there is to say. -/
theorem readoutOk_idle {k : Tacho} (hx : k.transfer = .idle) (ht : k.transferTimer = none)
    (hq : (k.readout.map (·.driver)).Nodup) : ReadoutOk k :=
  ⟨hq, fun _ _ => by rw [hx]; exact (Option.some_ne_none _).symm, fun _ => ht⟩

/-- The head of the queue goes into flight: it stands in the queue no more. -/
theorem upholds_startTransfer (e : Readout) (rest : List Readout) (hq : s.tacho.readout = e :: rest) :
    Upholds s (s.startTransfer e rest) := by
  refine .ripple (ripple_startTransfer onlyTacho (fun _ h => h) s e rest) fun ⟨hnodup, _⟩ => ?_
  rw [hq, List.map_cons, List.nodup_cons] at hnodup
  rw [(startTransfer_spec s e rest).1]
  refine ⟨hnodup.2, fun f hf hd => hnodup.1 ?_, fun h => nomatch h⟩
  obtain hd : e.driver = f.driver := Option.some.inj hd
  rw [hd]
  exact List.mem_map_of_mem hf

theorem upholds_tryStart : Upholds s s.tryStart := by
  unfold State.tryStart
  split
  · next e rest _ hq => exact (upholds_startTransfer s e rest hq).guarded (.refl s)
  · exact .refl s

/-- A driver that is neither queued nor in flight joins the queue. -/
theorem upholds_enqueue (d : Driver) (attempt : Nat) : Upholds s (s.enqueue d attempt) := by
  unfold State.enqueue
  split
  · next h =>
    simp only [Tacho.engaged, Bool.and_eq_true, Bool.not_eq_true', Bool.or_eq_false_iff, List.any_eq_false,
      decide_eq_true_eq, decide_eq_false_iff_not] at h
    obtain ⟨-, hqueue, hflight⟩ := h
    have joined : Upholds s { s with tacho.readout := s.tacho.readout ++ [Readout.mk d attempt] } := by
      refine ⟨fun ⟨hnodup, hapart, hidle⟩ => ⟨?_, fun e he => ?_, hidle⟩, id⟩
      · rw [List.map_append, List.map_singleton, List.nodup_append]
        refine ⟨hnodup, List.nodup_singleton d, fun x hx y hy => ?_⟩
        obtain rfl := List.mem_singleton.mp hy
        obtain ⟨e, he, rfl⟩ := List.mem_map.mp hx
        exact hqueue e he
      · rcases List.mem_append.mp he with he | he
        · exact hapart e he
        · obtain rfl := List.mem_singleton.mp he
          exact hflight
    exact joined.trans (upholds_tryStart _)
  · exact .refl s

/-! ### The end of a transfer (R141 to R143) -/

theorem upholds_idleTransfer : Upholds s s.idleTransfer := ⟨fun ⟨hnodup, _⟩ => readoutOk_idle rfl rfl hnodup, id⟩

theorem upholds_setOutcome (d : Driver) (o : TransferOutcome) : Upholds s (s.setOutcome d o) := .same (putDriver_upheld s d _)

theorem upholds_abandon (d : Driver) : Upholds s (s.abandon d) := by
  unfold State.abandon
  refine Upholds.guarded (upholds_idleTransfer s) ?_
  exact (Upholds.same (offer_upheld s _)).trans ((upholds_setOutcome _ d _).trans (upholds_idleTransfer _))

theorem upholds_failTransfer (d : Driver) (attempt : Nat) (cause : TransferOutcome) :
    Upholds s (s.failTransfer d attempt cause) := by
  have ended := (upholds_setOutcome s d cause).trans (upholds_idleTransfer _)
  unfold State.failTransfer
  refine Upholds.guarded ?_ ?_
  · exact ended.trans ((upholds_enqueue _ d 2).trans (upholds_tryStart _))
  · exact ended.trans ((Upholds.same (by simp)).trans (upholds_tryStart _))

theorem upholds_succeedTransfer (d : Driver) (m : Summary) : Upholds s (s.succeedTransfer d m) := by
  unfold State.succeedTransfer
  exact Upholds.trans (.same (by simp)) ((upholds_idleTransfer _).trans (upholds_tryStart _))

/-- The driver in flight stays in flight: a transfer that goes on keeps what is said. -/
theorem upholds_receiving {d : Driver} (hd : s.tacho.transfer.driver = some d) (attempt total expected count : Nat)
    (payload : List Byte) (timer : Timer) :
    Upholds s
      { s with
        tacho.transfer := .receiving d attempt total expected count payload, tacho.transferTimer := timer } :=
  ⟨fun ⟨hnodup, hapart, _⟩ => ⟨hnodup, fun e he => by have h := hapart e he; rwa [hd] at h, fun h => nomatch h⟩, id⟩

theorem upholds_takeOpen (named : Driver) (total : Nat) : Upholds s (s.takeOpen named total) := by
  unfold State.takeOpen
  split
  · exact .refl s
  · next d attempt h =>
    refine Upholds.guarded (.guarded ?_ (upholds_failTransfer s d attempt _)) (upholds_failTransfer s d attempt _)
    exact upholds_receiving s (by rw [h]; rfl) attempt _ _ _ _ _
  · exact upholds_failTransfer s _ _ _

theorem upholds_takeData (number : Nat) (bytes : List Byte) : Upholds s (s.takeData number bytes) := by
  unfold State.takeData
  split
  · exact .refl s
  · exact upholds_failTransfer s _ _ _
  · next d attempt total expected count payload h =>
    refine Upholds.guarded (upholds_failTransfer s d attempt _) (.guarded ?_ (upholds_failTransfer s d attempt _))
    exact upholds_receiving s (by rw [h]; rfl) attempt _ _ _ _ _

theorem upholds_takeClose (crc : BitVec 16) : Upholds s (s.takeClose crc) := by
  unfold State.takeClose
  split
  · exact .refl s
  · exact upholds_failTransfer s _ _ _
  · next d attempt total expected count payload h =>
    refine Upholds.guarded (upholds_failTransfer s d attempt _) (.guarded (upholds_failTransfer s d attempt _) ?_)
    split
    · exact upholds_failTransfer s d attempt _
    · exact upholds_succeedTransfer s d _

theorem upholds_takeAbort : Upholds s s.takeAbort := by
  unfold State.takeAbort
  split
  · exact .refl s
  · exact upholds_failTransfer s _ _ _
  · exact upholds_failTransfer s _ _ _

theorem upholds_markRestart (d : Driver) : Upholds s (s.markRestart d) := .guarded (.same rfl) (.refl s)

theorem upholds_transferTimeout : Upholds s s.transferTimeout := by
  unfold State.transferTimeout
  split
  · exact upholds_idleTransfer s
  · exact (upholds_failTransfer s _ _ _).trans (upholds_markRestart _ _)
  · exact (upholds_failTransfer s _ _ _).trans (upholds_markRestart _ _)

/-! ### Cards (R132, R133) -/

theorem upholds_insertCard (d : Driver) : Upholds s (s.insertCard d) := by
  unfold State.insertCard
  exact Upholds.guarded (upholds_enqueue s d 1) (Upholds.trans (.same (by simp)) (upholds_enqueue _ d 1))

theorem upholds_dropReadout (d : Driver) : Upholds s (s.dropReadout d) :=
  ⟨fun ⟨hnodup, hapart, hidle⟩ =>
    ⟨hnodup.sublist (List.filter_sublist.map _), fun e he => hapart e (List.mem_of_mem_filter he), hidle⟩, id⟩

theorem upholds_withdrawCard (d : Driver) : Upholds s (s.withdrawCard d) := by
  have abandoned : Upholds s (s.abandonOwn d) := .guarded (upholds_abandon s d) (.refl s)
  unfold State.withdrawCard
  exact (abandoned.trans (upholds_dropReadout _ d)).trans (Upholds.trans (.same (by simp)) (upholds_tryStart _))

theorem upholds_cardEvent (d : Driver) (e : UpdateEvent) : Upholds s (s.cardEvent d e) :=
  .guarded (.guarded (upholds_insertCard s d) (.guarded (upholds_withdrawCard s d) (.refl s))) (.refl s)

theorem upholds_changeCardSlot (d : Driver) : Upholds s (s.changeCardSlot d) := by
  have dropped : Upholds s (if (s.driver d).present then s.withdrawCard d else s) :=
    .guarded (upholds_withdrawCard s d) (.refl s)
  unfold State.changeCardSlot
  simp only []
  split
  · exact dropped
  · exact dropped.trans (.guarded (upholds_insertCard _ d) (.refl _))

/-! ### Changes of slots (R26 to R31) -/

theorem upholds_tachoEvent (e : UpdateEvent) : Upholds s (s.tachoEvent e) := by
  have cont (u : State) : Upholds u ((u.contEvent .one e).contEvent .two e) := .same (by simp)
  exact (Upholds.same (speedEvent_upheld s e.slot)).trans
    (((upholds_cardEvent _ .one e).trans (upholds_cardEvent _ .two e)).trans (cont _))

theorem upholds_changeSlot (n : Nat) (c : Cause) (r : SlotRecord) : Upholds s (s.changeSlot n c r) := by
  unfold State.changeSlot State.announce
  refine Upholds.trans (.same ?_) ((upholds_tachoEvent _ _).trans (.same (markDirty_upheld _ _)))
  rw [tell_upheld]
  rfl

theorem upholds_routeFrame (route : Route) (r : FrameRecord) : Upholds s (s.routeFrame route r) := by
  have counted (routes : List RouteEntry) : Upholds s { s with intake.routes := routes } := .same rfl
  have written (u : State) (x : Extractor) : Upholds u (extractInto route r.data u x) := by
    unfold extractInto State.writeFrame
    exact upholds_changeSlot u _ _ _
  unfold State.routeFrame
  simp only []
  split
  · exact (counted _).trans (.foldl written _ _)
  · exact counted _

theorem upholds_deleteRoute (e : RouteEntry) : Upholds s (s.deleteRoute e) := by
  have removed (routes : List RouteEntry) : Upholds s { s with intake.routes := routes } := .same rfl
  have reset (u : State) (n : Nat) : Upholds u (u.resetSlot n) := upholds_changeSlot u n _ _
  exact (removed _).trans (.foldl reset _ _)

theorem upholds_zeroExpired : Upholds s s.zeroExpired := by
  have stopped : Upholds s { s with dist.ring := [], dist.lastPulse := none, dist.zeroTimer := none } := .same rfl
  exact Upholds.guarded stopped (stopped.trans (upholds_changeSlot _ _ _ _))

theorem upholds_watchExpired : Upholds s s.watchExpired := by
  have stopped : ({ s with tacho.watch := none } : State).upheld = s.upheld := rfl
  unfold State.watchExpired
  exact Upholds.trans (.same (by simp [stopped])) (upholds_changeSlot _ _ _ _)

theorem upholds_takeInterval (cleared : Bool) : Upholds s (s.takeInterval cleared) := by
  have timed (ring : List Nat) : Upholds s { s with dist.ring := ring, dist.lastPulse := some s.clock } := .same rfl
  unfold State.takeInterval
  simp only []
  split
  · exact .guarded ((timed _).trans (upholds_changeSlot _ _ _ _)) (timed _)
  · exact (timed _).trans (upholds_changeSlot _ _ _ _)

theorem upholds_pulse : Upholds s s.pulse := by
  have timer (u : State) : u.restartZero.upheld = u.upheld := rfl
  have before : Upholds s (s.clearSilent.takeDirection).countPhaseB := .same (by simp)
  have behind (u : State) : Upholds u (u.accumulate.restartZero).pulseNotice := .same (by simp [timer])
  exact before.trans ((upholds_takeInterval _ _).trans (behind _))

theorem upholds_acceptEdge (p : Pin) : Upholds s (s.acceptEdge p) := by
  have taken : Upholds s ((s.setStability p none).setFiltered p (s.rawLevel p)) := .same (by simp)
  unfold State.acceptEdge
  cases p with
  | spa => exact .guarded (taken.trans (upholds_pulse _)) taken
  | spb => exact taken.trans (.same (spbEdge_upheld _))

theorem upholds_longPress : Upholds s s.longPress := by
  have released : Upholds s { s with display.pagePress := none, display.pageKnown := false, display.pageArmed := false } :=
    .same rfl
  unfold State.longPress
  simp only []
  split
  · exact released.trans (upholds_enqueue _ _ 1)
  · exact released

/-! ### The changes of power state (R150, R188 to R192) -/

theorem upholds_sleepEntry : Upholds s s.sleepEntry := by
  have cut (u : State) : u.cutSave.upheld = u.upheld := by
    unfold State.cutSave
    split <;> rfl
  have blocks (u : State) : Upholds u u.sleepBlocks :=
    ⟨fun _ => readoutOk_idle rfl rfl List.nodup_nil, paramsOk_of_eq rfl rfl⟩
  have compared (u : State) : u.settleLamps.compareIgn.upheld = u.upheld := by simp
  have slept : Upholds s { s with ign.power := .sleep, ign.hold := false, ign.parkingTimer := none, ign.secondTimer := none } :=
    .same rfl
  exact slept.trans ((Upholds.same (cut _)).trans ((blocks _).trans (.same (compared _))))

theorem upholds_judgeSleep : Upholds s s.judgeSleep := .guarded (upholds_sleepEntry s) (.refl s)

theorem upholds_moveChannel (c : Nat) (ch : Channel) : Upholds s (s.moveChannel c ch) := by
  obtain ⟨reports, hn⟩ := noteChannel_only (s.putChannel c ch) s.gauges c
  unfold State.moveChannel
  simp only [hn]
  refine Upholds.guarded (.same rfl) (Upholds.trans (.same ?_) (upholds_judgeSleep _))
  exact judgeRun_upheld _

theorem upholds_failChannel (c : Nat) (cause : CoilFault) : Upholds s (s.failChannel c cause) := by
  unfold State.failChannel
  refine Upholds.trans (.same ?_) (upholds_judgeSleep _)
  exact (judgeRun_upheld _).trans (reportFault_upheld _ c)

/-- The tachograph block at PARKING entry: a transfer in flight is abandoned, and the queue is emptied (R150). -/
theorem upholds_parkTacho : Upholds s s.parkTacho := by
  have abandoned (u : State) : Upholds u u.abandonAny := by
    unfold State.abandonAny
    split
    · exact upholds_abandon u _
    · exact .refl u
  have emptied (u : State) : Upholds u { u with tacho.readout := [] } :=
    ⟨fun ⟨_, _, hidle⟩ => ⟨List.nodup_nil, nofun, hidle⟩, id⟩
  have summary (u : State) (d : Driver) : Upholds u (u.parkSummary d) :=
    .guarded (.same (writeSummary_upheld u d _)) (.refl u)
  have stopped : Upholds s { s with tacho.minuteTimer := none } := .same rfl
  exact (((stopped.trans (abandoned _)).trans (emptied _)).trans (summary _ .one)).trans (summary _ .two)

theorem upholds_parkingEntry : Upholds s s.parkingEntry := by
  obtain ⟨z, he, -, -, htacho, -, -, -, hmgmt⟩ := parking_last s
  have before : Upholds s z := ⟨fun h => by rw [htacho]; exact h, fun h => by rw [hmgmt]; exact h⟩
  rw [he]
  exact (before.trans (upholds_parkTacho z)).trans (.same (markDirty_upheld _ _))

theorem upholds_returnToRun : Upholds s s.returnToRun := by
  have compared (u : State) : (u.markDirty [.pageSelect]).compareIgn.upheld = u.upheld := by simp
  unfold State.returnToRun
  refine Upholds.trans (.same ?_) ((upholds_tryStart _).trans (.same (compared _)))
  rw [settleLamps_upheld, resumeRules_upheld, moveAll_upheld]
  rfl

/-- The parameters of an image that passes are in their ranges and relations (R183). -/
theorem loadedConfig_params (contents : StoreContents ConfigImage) (id : Nat) (hid : id < 27) :
    paramInRange id ((loadedConfig contents).params.get id 0) = true ∧
      paramRelates (loadedConfig contents).params id ((loadedConfig contents).params.get id 0) = true := by
  have passes : (loadedConfig contents).passes = true := by
    unfold loadedConfig goodConfig
    split
    · decide
    · decide
    · split
      · assumption
      · decide
  simp only [ConfigImage.passes, Bool.and_eq_true, List.all_eq_true, List.mem_range] at passes
  exact passes.2 id hid

/-- WAKING entry empties the readout queue and loads the parameters of an image that passes (R149, R173, R183). -/
theorem upholds_wakingEntry : Upholds s s.wakingEntry := by
  obtain ⟨R, lamps, he⟩ := wakingEntry_settled s
  have held : s.wokenBlocks.mgmt.held = (loadedConfig s.store.config).params := by rw [wokenBlocks_form]; rfl
  have inEffect : s.wokenBlocks.mgmt.inEffect = (loadedConfig s.store.config).params := by rw [wokenBlocks_form]; rfl
  refine ⟨fun _ => ?_, fun _ id hid => ?_⟩
  · rw [he, relit_tacho, firstEvents_tacho, wokenBlocks_tacho]
    exact readoutOk_reset
  · obtain ⟨hrange, hrelates⟩ := loadedConfig_params s.store.config id hid
    rw [R.heldBank, R.inEffect, held, inEffect]
    exact ⟨hrange, hrange, hrelates⟩

theorem upholds_poweredOn : Upholds s s.poweredOn := ⟨fun _ => readoutOk_reset, fun _ => paramsOk_reset⟩

theorem upholds_start : Upholds s s.start := by
  have sampled (u : State) : Upholds u u.sampleIgn := by
    have level : Upholds u { u with ign.level := true } := .same rfl
    exact .guarded (level.trans (upholds_wakingEntry _)) (.refl u)
  exact (upholds_poweredOn s).trans (sampled _)

theorem upholds_takeIgnLevel : Upholds s s.takeIgnLevel := by
  have taken : Upholds s { s with ign.level := s.pins.ign, ign.timer := none } := .same rfl
  unfold State.takeIgnLevel
  simp only []
  split
  · exact taken.trans (upholds_wakingEntry _)
  · exact taken.trans (upholds_parkingEntry _)
  · exact taken.trans (upholds_parkingEntry _)
  · exact taken.trans (upholds_returnToRun _)
  · exact taken

/-! ### A parameter set (R173, R174) -/

theorem upholds_paramChanged (id : Nat) : Upholds s (s.paramChanged id) := by
  unfold State.paramChanged
  split
  · exact .same (by simp)
  · exact .same (by simp)
  · exact .same (by simp)
  · exact upholds_changeCardSlot s .one
  · exact upholds_changeCardSlot s .two
  · exact .same (by simp)
  · exact .refl s

end

/-- What `paramRelates` says of a value for `id`, relation by relation (R126, R127, R174). -/
theorem paramRelates_iff (held : Bank Int 27) (id : Nat) (v : Int) :
    paramRelates held id v = true ↔
      (id = 18 → held.get 19 0 ≤ v) ∧ (id = 19 → v ≤ held.get 18 0) ∧
        (id ∈ mapIds → v ≠ -1 → ∀ j ∈ mapIds, j ≠ id → held.get j 0 ≠ v) ∧
        (id ∈ identifierIds → ∀ j ∈ identifierIds, j ≠ id → held.get j 0 ≠ v) := by
  have map_apart : 18 ∉ mapIds ∧ 19 ∉ mapIds ∧ 18 ∉ identifierIds ∧ 19 ∉ identifierIds ∧ ∀ j ∈ mapIds, j ∉ identifierIds := by
    decide
  obtain ⟨m18, m19, i18, i19, apart⟩ := map_apart
  unfold paramRelates
  split
  · next h => subst h; simp [m18, i18]
  next h18 =>
  split
  · next h => subst h; simp [m19, i19]
  next h19 =>
  split
  · next hm =>
    have hm := List.contains_iff_mem.mp hm
    simp only [h18, h19, hm, apart id hm, Bool.or_eq_true, List.all_eq_true, decide_eq_true_eq, beq_iff_eq]
    grind
  next hm =>
  have hm : id ∉ mapIds := fun h => hm (List.contains_iff_mem.mpr h)
  split
  · next hi =>
    have hi := List.contains_iff_mem.mp hi
    simp only [h18, h19, hm, hi, Bool.or_eq_true, List.all_eq_true, decide_eq_true_eq, beq_iff_eq]
    grind
  · next hi =>
    have hi : id ∉ identifierIds := fun h => hi (List.contains_iff_mem.mpr h)
    simp [h18, h19, hm, hi]

/-- A value in its range and its relations put in its place keeps every relation: each of them is symmetric. -/
theorem paramsOk_put {m : Management} {id : Nat} {v : Int} (h : ParamsOk m) (hid : id < 27)
    (hrange : paramInRange id v = true) (hrelates : paramRelates m.held id v = true) :
    ParamsOk { m with held := m.held.put id v } := by
  have got (j : Nat) : (m.held.put id v).get j 0 = if j = id then v else m.held.get j 0 := by
    split
    · next e => subst e; exact Bank.get_put_same _ _ _ _ hid
    · next e => exact Bank.get_put_other _ _ _ _ _ (Ne.symm e)
  obtain ⟨new18, new19, newMap, newIds⟩ := (paramRelates_iff _ _ _).mp hrelates
  intro j hj
  obtain ⟨range, inEffect, relates⟩ := h j hj
  obtain ⟨old18, old19, oldMap, oldIds⟩ := (paramRelates_iff _ _ _).mp relates
  refine ⟨?_, inEffect, (paramRelates_iff _ _ _).mpr ⟨?_, ?_, ?_, ?_⟩⟩
  · rw [got]
    split
    · next e => rw [e]; exact hrange
    · exact range
  all_goals simp only [got]; grind

end Sys2Proof.Machine
end
section
/-! The readout queue and the parameters through every command and every step (R126, R134, R136, R173, R174): O10 and O14. -/

namespace Sys2Proof.Machine

section

variable {s t : State}

/-! ### What a classifier path, a request and an expiry keep -/

theorem upholds_path {path : State → FrameRecord → Bool} {f : FrameRecord → State → State}
    (ht : takeHead path f s = .next t) (hf : ∀ r u, Upholds u (f r u)) : Upholds s t := by
  rcases takeHead_cases ht with rfl | ⟨r, rest, -, -, rfl⟩
  · exact .refl _
  · have taken : Upholds s { s with intake.queue := rest } := .same rfl
    exact taken.trans (hf r _)

theorem upholds_expiry {timer : Timer} {f : State → State} (ht : onExpiry timer f s = .next t)
    (hf : ∀ u, Upholds u (f u)) : Upholds s t := by
  rcases onExpiry_cases ht with rfl | ⟨due, -, rfl⟩
  · exact .refl _
  · have reached : Upholds s (s.reach due) := .same rfl
    exact reached.trans (hf _)

/-- An expiry whose effect leaves the queue and the parameters. -/
theorem upholds_timer {timer : Timer} {f : State → State} (ht : onExpiry timer f s = .next t)
    (hf : ∀ u, (f u).upheld = u.upheld) : Upholds s t := upholds_expiry ht fun u => .same (hf u)

/-- A request takes effect on the state on which it was judged, once its response has been offered. -/
theorem upholds_judged {code : Nat} {judge : FrameRecord → State → Verdict} (ht : onRequest code judge s = .next t)
    (hj : ∀ r u f, Upholds u ((judge r u).effect (u.offer f))) : Upholds s t :=
  upholds_path ht fun r u => hj r u _

theorem upholds_request {code : Nat} {judge : FrameRecord → State → Verdict} (ht : onRequest code judge s = .next t)
    (hj : ∀ r u, (judge r u).Keeps (Upholds u) u) : Upholds s t :=
  upholds_judged ht fun r u f => hj r u _ (quiet_offer u f) (.same (offer_upheld u f))

/-- A verdict whose effect keeps what is said. -/
theorem keeps_upholds {v : Verdict} {u : State} (h : ∀ x, Upholds x (v.effect x)) : v.Keeps (Upholds u) u :=
  fun x _ hx => hx.trans (h x)

theorem accepts_upholds {f : State → State} {u : State} (h : ∀ x, Upholds x (f x)) : (accepts f).Keeps (Upholds u) u :=
  keeps_upholds h

theorem accepts_upheld {f : State → State} {u : State} (h : ∀ x, (f x).upheld = x.upheld) :
    (accepts f).Keeps (Upholds u) u := accepts_upholds fun x => .same (h x)

theorem upholds_read {code : Nat} {judge : FrameRecord → State → Verdict} (ht : onRequest code judge s = .next t)
    (hj : ∀ r u, (judge r u).Reads) : Upholds s t := by
  refine upholds_request ht fun r u => keeps_upholds fun x => ?_
  rcases hj r u with e | e <;> rw [e] <;> exact .same rfl

/-! ### The requests -/

/-- SET_PARAM writes a value that has passed the checks against the values held (R174). -/
theorem upholds_setParam (ht : execSetParam s = .next t) : Upholds s t := by
  refine upholds_judged ht fun r u f => (Upholds.same (offer_upheld u f)).trans ?_
  unfold judgeSetParam unlessSaving judgeParam
  split
  · exact .refl _
  split
  · exact .refl _
  next hid =>
  split
  · exact .refl _
  next hrange =>
  split
  · exact .refl _
  next hrelates =>
  have held : Upholds (u.offer f) ((u.offer f).setHeld (r.byte 2) (r.signedLong 3)) :=
    ⟨id, fun h => paramsOk_put h (by omega) (by simpa using hrange) (by simpa using hrelates)⟩
  exact held.trans (upholds_paramChanged _ _)

theorem upholds_acceptPart (u : State) (b : Build) : (acceptPart b).Keeps (Upholds u) u := by
  unfold acceptPart
  split <;> exact keeps_upholds fun _ => .same rfl

theorem upholds_extA (ht : execExtA s = .next t) : Upholds s t := by
  refine upholds_request ht fun r u => keeps_unlessSaving ?_
  split
  · exact keeps_refuse _ u _
  · exact keeps_check fun _ => keeps_check fun _ => keeps_check fun _ => upholds_acceptPart u _

theorem upholds_extB (ht : execExtB s = .next t) : Upholds s t := by
  refine upholds_request ht fun r u => keeps_unlessSaving ?_
  split
  · exact keeps_refuse _ u _
  · exact keeps_check fun _ => keeps_check fun _ => upholds_acceptPart u _

theorem upholds_extC (ht : execExtC s = .next t) : Upholds s t := by
  refine upholds_request ht fun r u => keeps_unlessSaving ?_
  split
  · exact keeps_refuse _ u _
  · exact keeps_check fun _ => upholds_acceptPart u _

theorem upholds_routeDelete (ht : execRouteDelete s = .next t) : Upholds s t := by
  refine upholds_request ht fun r u => keeps_unlessSaving (keeps_check fun _ => ?_)
  split
  · exact accepts_upholds fun x => upholds_deleteRoute x _
  · exact keeps_ite (fun _ => accepts_upheld fun _ => rfl) fun _ => keeps_refuse _ u _

theorem upholds_writePart (u : State) (i : Nat) (f : Rule → Rule) : (writePart i f).Keeps (Upholds u) u :=
  accepts_upheld fun _ => rfl

theorem upholds_ruleA (ht : execRuleA s = .next t) : Upholds s t := by
  refine upholds_request ht fun r u => keeps_editable ?_
  split
  · exact upholds_writePart u _ _
  · exact keeps_refuse _ u _

theorem upholds_ruleC (ht : execRuleC s = .next t) : Upholds s t := by
  refine upholds_request ht fun r u => keeps_editable ?_
  split
  · exact upholds_writePart u _ _
  · exact keeps_refuse _ u _

theorem upholds_ruleD (ht : execRuleD s = .next t) : Upholds s t := by
  refine upholds_request ht fun r u => keeps_editable ?_
  split
  · exact keeps_refuse _ u _
  · exact keeps_check fun _ => upholds_writePart u _ _

theorem upholds_alertAck (ht : execAlertAck s = .next t) : Upholds s t := by
  refine upholds_request ht fun _ u => keeps_ite (fun _ => ?_) fun _ => keeps_refuse _ u _
  unfold AckResult.verdict
  split <;> exact keeps_upholds fun x => .same (acknowledge_upheld x)

theorem upholds_setKfactor (ht : execSetKfactor s = .next t) : Upholds s t := by
  refine upholds_request ht fun r u => ?_
  unfold judgeSetKfactor
  exact keeps_check fun _ => keeps_check fun _ => keeps_check fun _ =>
    keeps_upholds fun x => .same (storeOdometer_upheld _)

theorem upholds_setOdometer (ht : execSetOdometer s = .next t) : Upholds s t := by
  refine upholds_request ht fun r u => ?_
  unfold judgeSetOdometer
  exact keeps_check fun _ => accepts_upheld fun x => setOdometer_upheld x _

theorem upholds_cardRead (ht : execCardRead s = .next t) : Upholds s t := by
  refine upholds_request ht fun r u => ?_
  unfold judgeCardRead
  split
  · exact keeps_refuse _ u _
  · exact keeps_check fun _ => keeps_check fun _ => keeps_upholds fun x => upholds_enqueue x _ 1

/-! ### The records of the classifier's other paths -/

theorem upholds_routedFrame (ht : execRoutedFrame s = .next t) : Upholds s t := by
  refine upholds_path ht fun r u => ?_
  split
  · exact upholds_routeFrame u _ r
  · exact .refl u

theorem upholds_unroutedFrame (ht : execUnroutedFrame s = .next t) : Upholds s t :=
  upholds_path ht fun r u => .same (setPort_upheld u r.port _)

theorem upholds_foreignMgmt (ht : execForeignMgmt s = .next t) : Upholds s t := upholds_path ht fun _ _ => .same rfl

theorem upholds_badRequest (ht : execBadRequest s = .next t) : Upholds s t :=
  upholds_path ht fun _ u => .same (offer_upheld u _)

theorem upholds_xferStray (ht : execXferStray s = .next t) : Upholds s t := upholds_path ht fun _ _ => .same rfl

theorem upholds_xferOpen (ht : execXferOpen s = .next t) : Upholds s t := by
  refine upholds_path ht fun r u => ?_
  split
  · exact upholds_takeOpen u _ _
  · exact .refl u

theorem upholds_xferData (ht : execXferData s = .next t) : Upholds s t := by
  refine upholds_path ht fun r u => ?_
  split
  · exact upholds_takeData u _ _
  · exact .refl u

theorem upholds_xferClose (ht : execXferClose s = .next t) : Upholds s t := by
  refine upholds_path ht fun r u => ?_
  split
  · exact upholds_takeClose u _
  · exact .refl u

/-! ### The other commands with a case of their own -/

theorem upholds_ignChange {high : Bool} (ht : execIgnChange high s = .next t) : Upholds s t := by
  cases ht
  exact .guarded (.refl s) (.guarded (.same rfl) (.same rfl))

theorem upholds_restartExecute (ht : execRestartExecute s = .next t) : Upholds s t := by
  unfold execRestartExecute at ht
  split at ht
  · cases ht
    exact .refl _
  · next r _ =>
    have reached : Upholds s (s.reach (r.moment s.clock)) := .same rfl
    split at ht <;> cases ht
    · exact reached.trans (upholds_start _)
    · exact .refl _

theorem upholds_configSaveEnd {equal : Bool} (ht : execConfigSaveEnd equal s = .next t) : Upholds s t := by
  unfold execConfigSaveEnd at ht
  split at ht <;> cases ht
  · exact .refl _
  · exact (Upholds.same (saveRead_upheld s _ equal)).trans (upholds_judgeSleep _)

theorem upholds_supplyLoss (ht : execSupplyLoss s = .next t) : Upholds s t := by
  have lost : Upholds s.poweredOn s.loseSupply := .same rfl
  cases ht
  exact .guarded ((upholds_poweredOn s).trans lost) (.refl s)

/-! ### Every command and every step -/

theorem exec_upholds {c : Instr} (ht : exec c s = .next t) : Upholds s t := by
  cases c with
  | powerOn => cases ht; exact .guarded (.refl s) (upholds_start s)
  | supplyLoss => exact upholds_supplyLoss ht
  | ignChange => exact upholds_ignChange ht
  | ignTimerExpiry => exact upholds_expiry ht upholds_takeIgnLevel
  | parkingTimerExpiry => exact upholds_expiry ht upholds_sleepEntry
  | restartExecute => exact upholds_restartExecute ht
  | configSaveEnd => exact upholds_configSaveEnd ht
  | slotExpiry n => rw [exec_slotExpiry] at ht; exact upholds_expiry ht fun u => upholds_changeSlot u n _ _
  | stepEvent c => rw [exec_stepEvent] at ht; exact upholds_expiry ht fun u => upholds_moveChannel u c _
  | homingStep c => rw [exec_homingStep] at ht; exact upholds_expiry ht fun u => upholds_moveChannel u c _
  | coilFaultReport c cause => cases ht; exact .guarded (upholds_failChannel s c cause) (.refl s)
  | filterStabilityExpiry p => rw [exec_filterStabilityExpiry] at ht; exact upholds_expiry ht fun u => upholds_acceptEdge u p
  | calWriteComplete =>
    rw [exec_calWriteComplete] at ht
    exact upholds_expiry ht fun u => (Upholds.same (calWritten_upheld u)).trans (upholds_judgeSleep _)
  | zeroTimerExpiry => exact upholds_expiry ht upholds_zeroExpired
  | silenceWatchExpiry => exact upholds_expiry ht upholds_watchExpired
  | transferTimerExpiry => exact upholds_expiry ht upholds_transferTimeout
  | pageLongPress => exact upholds_expiry ht upholds_longPress
  | restDelayExpiry | busOffRecoveryExpiry | silenceTimerExpiry | confirmTimerExpiry =>
    simp only [exec_restDelayExpiry, exec_busOffRecoveryExpiry, exec_silenceTimerExpiry, exec_confirmTimerExpiry] at ht
    exact upholds_timer ht fun u => by simp
  | secondTimerExpiry | phaseEvent | proveOutEnd | ackPress | chimeIntervalEnd | minuteTimerExpiry | mismatchTimerExpiry
  | retryTimerExpiry | displayTransferStart | pageShortPress =>
    exact upholds_timer ht fun u => by simp
  | toneCounterExpiry | readyTimerExpiry | displayTransferComplete => exact upholds_timer ht fun _ => rfl
  | validFrameReceived | txErrorDetected | lampTurnOnCheck => cases ht; exact .guarded (.same (by simp)) (.refl s)
  | rxErrorDetected p => cases ht; exact .guarded (.same (setPort_upheld s p _)) (.refl s)
  | txFrameComplete => cases ht; exact .guarded (.same rfl) (.refl s)
  | pinRawChange | ackInputChange | pageInputChange => cases ht; exact .guarded (.refl s) (.same (by simp))
  | readyRise => cases ht; exact .same (readyUp_upheld s)
  | readyFall => cases ht; exact .same rfl
  | routedFrame => exact upholds_routedFrame ht
  | unroutedFrame => exact upholds_unroutedFrame ht
  | foreignMgmt => exact upholds_foreignMgmt ht
  | badRequest => exact upholds_badRequest ht
  | xferOpen => exact upholds_xferOpen ht
  | xferData => exact upholds_xferData ht
  | xferClose => exact upholds_xferClose ht
  | xferAbort => exact upholds_path ht fun _ => upholds_takeAbort
  | xferStray => exact upholds_xferStray ht
  | readEvents => exact upholds_request ht fun _ _ => keeps_upholds fun _ => .same rfl
  | setNoticeMask =>
    exact upholds_request ht fun _ u => keeps_ite (fun _ => keeps_upholds fun _ => .same rfl) fun _ => keeps_refuse _ u _
  | setParam => exact upholds_setParam ht
  | restart | configSave | configErase =>
    exact upholds_request ht fun _ _ => keeps_unlessSaving (accepts_upheld fun _ => rfl)
  | routeOpen =>
    exact upholds_request ht fun _ _ => keeps_unlessSaving (keeps_check fun _ => keeps_check fun _ => keeps_check fun _ =>
      keeps_check fun _ => accepts_upheld fun x => openBuild_upheld x _)
  | extA => exact upholds_extA ht
  | extB => exact upholds_extB ht
  | extC => exact upholds_extC ht
  | routeDelete => exact upholds_routeDelete ht
  | gaugeField =>
    exact upholds_request ht fun _ _ => keeps_check fun _ => keeps_check fun _ => keeps_upholds fun _ => .same rfl
  | gaugeCommit =>
    exact upholds_request ht fun _ _ => keeps_unlessSaving (keeps_check fun _ => keeps_check fun _ => keeps_check fun _ =>
      keeps_check fun _ => accepts_upholds fun x => upholds_moveChannel x _ _)
  | ruleA => exact upholds_ruleA ht
  | ruleB => exact upholds_request ht fun _ u => keeps_editable (upholds_writePart u _ _)
  | ruleC => exact upholds_ruleC ht
  | ruleD => exact upholds_ruleD ht
  | ruleEnable =>
    exact upholds_request ht fun _ _ => keeps_unlessSaving (keeps_check fun _ => keeps_check fun _ => keeps_check fun _ =>
      accepts_upheld fun x => enableRule_upheld x _)
  | ruleClear =>
    exact upholds_request ht fun _ _ => keeps_unlessSaving (keeps_check fun _ => accepts_upheld fun x => clearRule_upheld x _)
  | alertAck => exact upholds_alertAck ht
  | setKfactor => exact upholds_setKfactor ht
  | setOdometer => exact upholds_setOdometer ht
  | sealOdometer => exact upholds_request ht fun _ _ => keeps_check fun _ => accepts_upheld fun _ => storeOdometer_upheld _
  | cardRead => exact upholds_cardRead ht
  | readCounters => exact upholds_read ht reads_readCounters
  | getParam => exact upholds_read ht reads_getParam
  | routeRead => exact upholds_read ht reads_routeRead
  | readSlot => exact upholds_read ht reads_readSlot
  | gaugeRead => exact upholds_read ht reads_gaugeRead
  | ruleRead => exact upholds_read ht reads_ruleRead
  | lampRead => exact upholds_read ht reads_lampRead
  | alertRead => exact upholds_read ht reads_alertRead
  | readCalHistory => exact upholds_read ht reads_readCalHistory
  | distanceRead => exact upholds_read ht reads_distanceRead
  | tachoRead => exact upholds_read ht reads_tachoRead
  | displayRead => exact upholds_read ht reads_displayRead

/-- A step on an empty queue sends what is on its way, runs what is due, or lets a microsecond pass. -/
theorem idle_upholds (ht : idle s = .next t) : Upholds s t := by
  unfold idle at ht
  split at ht
  · cases ht
    exact .same (send_upheld s [])
  · split at ht
    · exact exec_upholds ht
    · split at ht <;> cases ht <;> exact .same rfl

theorem step_upholds (ht : step s = .next t) : Upholds s t := by
  unfold step at ht
  split at ht
  · next c rest _ =>
    have taken : Upholds s { s with pending := rest } := .same rfl
    exact taken.trans (exec_upholds ht)
  · exact idle_upholds ht

end

/-- Settles O10: a driver is enqueued where it is neither queued nor in flight, and the head leaves the queue as it goes into flight;
SLEEP entry, PARKING entry, WAKING entry and power-on empty the queue. -/
theorem readoutKept : Obligations.ReadoutKept := fun _ _ hs ht => (step_upholds ht).readout hs

/-- Settles O14: SET_PARAM checks a value against its range and the values held, and a load takes an image that passes. -/
theorem paramsKept : Obligations.ParamsKept := fun _ _ hs ht => (step_upholds ht).params hs

end Sys2Proof.Machine
end

section
/-! CARD_READ and TACHO_READ (R134, R135, R145): O58. -/

namespace Sys2Proof.Machine

/-! ### A readout enqueued (R134, R136) -/

section
variable {s : State} {d : Driver}

theorem engaged_iff (t : Tacho) (d : Driver) :
    t.engaged d = true ↔ (∃ e ∈ t.readout, e.driver = d) ∨ t.transfer.driver = some d := by
  simp [Tacho.engaged]

/-- While a transfer is in flight, and outside WAKING and RUN, the readout waits behind the queue. -/
theorem enqueue_waits (hp : (s.driver d).state ≠ .noDriver) (hq : ∀ e ∈ s.tacho.readout, e.driver ≠ d)
    (hf : s.tacho.transfer.driver ≠ some d) (hw : s.tacho.transfer ≠ .idle ∨ (s.ign.power ≠ .waking ∧ s.ign.power ≠ .run)) :
    s.enqueue d 1 = { s with tacho.readout := s.tacho.readout ++ [{ driver := d, attempt := 1 }] } := by
  rw [enqueue_spec s d 1 hp hq hf]
  exact tryStart_not _ hw

/-- On an IDLE record in WAKING and RUN the head of the queue starts at once. -/
theorem enqueue_starts (hp : (s.driver d).state ≠ .noDriver) (hq : ∀ e ∈ s.tacho.readout, e.driver ≠ d)
    (hi : s.tacho.transfer = .idle) (hr : s.ign.power = .waking ∨ s.ign.power = .run) :
    NextTransfer s (s.tacho.readout ++ [{ driver := d, attempt := 1 }]) (s.enqueue d 1) := by
  have hf : s.tacho.transfer.driver ≠ some d := by
    rw [hi]
    nofun
  exact ((enqueue_does s d hp).2 hq hf).2 hi hr

end

theorem driverOf_none {n : Nat} (h1 : n ≠ 1) (h2 : n ≠ 2) : driverOf n = none := by
  cases h : driverOf n with
  | none => rfl
  | some d =>
    have hn := (driverOf_iff n d).mp h
    cases d
    · exact absurd hn h1
    · exact absurd hn h2

theorem bit_isSome {α : Type} (o : Option α) [Decidable (o = none)] : bit o.isSome = if o = none then 0 else 1 := by
  cases o <;> simp [bit]

section
variable {s : State} {r : FrameRecord} {rest : List FrameRecord} {d : Driver}

/-! ### CARD_READ (R135) -/

theorem exec_cardRead (s : State) : exec .cardRead s = onRequest 0x40 judgeCardRead s := rfl

theorem queueAfter_eq (u : State) (d : Driver) : u.queueAfter d = u.tacho.readout.length + 1 := List.length_append

/-- CARD_READ of a driver that the byte names (R135). -/
theorem judgeCardRead_driver (u : State) (hd : r.byte 2 = d.number) :
    judgeCardRead r u =
      if (u.driver d).state = .noDriver then refuse .wrongState
      else if u.tacho.engaged d then refuse .noChange
      else { result := .ok, data := u8 (u.tacho.readout.length + 1), effect := fun t => t.enqueue d 1 } := by
  unfold judgeCardRead
  rw [(driverOf_iff _ d).mpr hd, ← queueAfter_eq u d]

theorem cardRead_noDriver (h : Asked 0x40 s r rest) (h1 : r.byte 2 ≠ 1) (h2 : r.byte 2 ≠ 2) :
    exec .cardRead s = .next (answered s r rest .badArg []) := by
  rw [exec_cardRead]
  refine onRequest_answers h ?_
  unfold judgeCardRead
  rw [driverOf_none h1 h2]
  rfl

theorem cardRead_absent (h : Asked 0x40 s r rest) (hd : r.byte 2 = d.number) (hp : (s.driver d).state = .noDriver) :
    exec .cardRead s = .next (answered s r rest .wrongState []) := by
  rw [exec_cardRead]
  exact onRequest_answers h ((judgeCardRead_driver _ hd).trans (if_pos hp))

theorem cardRead_engaged (h : Asked 0x40 s r rest) (hd : r.byte 2 = d.number) (hp : (s.driver d).state ≠ .noDriver)
    (he : (∃ e ∈ s.tacho.readout, e.driver = d) ∨ s.tacho.transfer.driver = some d) :
    exec .cardRead s = .next (answered s r rest .noChange []) := by
  rw [exec_cardRead]
  exact onRequest_answers h
    ((judgeCardRead_driver _ hd).trans ((if_neg hp).trans (if_pos ((engaged_iff s.tacho d).mpr he))))

theorem cardRead_enqueues (h : Asked 0x40 s r rest) (hd : r.byte 2 = d.number) (hp : (s.driver d).state ≠ .noDriver)
    (hq : ∀ e ∈ s.tacho.readout, e.driver ≠ d) (hf : s.tacho.transfer.driver ≠ some d) :
    exec .cardRead s = .next ((answered s r rest .ok (u8 (s.tacho.readout.length + 1))).enqueue d 1) := by
  have he : ¬ s.tacho.engaged d = true := by
    rw [engaged_iff]
    exact not_or.mpr ⟨fun ⟨e, hm, hx⟩ => hq e hm hx, hf⟩
  rw [exec_cardRead]
  exact onRequest_judged h ((judgeCardRead_driver _ hd).trans ((if_neg hp).trans (if_neg he)))

/-! ### TACHO_READ (R145) -/

theorem exec_tachoRead (s : State) : exec .tachoRead s = onRequest 0x41 judgeTachoRead s := rfl

/-- TACHO_READ of a driver that the byte names, by its selector (R145). -/
theorem judgeTachoRead_driver {selector : Nat} (rest : List FrameRecord) (hd : driverOf (r.byte 2) = some d)
    (hs : r.byte 3 = selector) :
    judgeTachoRead r { s with intake.queue := rest } =
      match (generalizing := false) selector with
      | 0 => reads (u16 ((s.driver d).contDrive + 16384 * (s.driver d).state.code) ++ u16 (s.driver d).sinceReconcile)
      | 1 => reads (u8 (s.driver d).breakAccum ++ u16 (s.driver d).stretch ++ u8 (s.driver d).outcome.code)
      | 2 =>
        readsFree (s.tacho.transfer.data s.fresh ++ u8 s.tacho.readout.length ++
          u8 (driverNumber (s.tacho.readout.head?.map (·.driver))))
      | 3 => reads (summaryData (s.driver d).summary 3 0 0)
      | 4 => readsFree (summaryData (s.driver d).summary 4 0 s.fresh)
      | 5 => readsFree (summaryData (s.driver d).summary 5 0 s.fresh)
      | 6 => reads (u8 (bit s.checking.isSome) ++ u8 s.tacho.side.code ++ u8 (bit s.tacho.watch.isSome))
      | 7 => if 3 < r.byte 4 then refuse .badArg else reads (summaryData (s.driver d).summary 7 (r.byte 4) 0)
      | 8 => if 4 < r.byte 4 then refuse .badArg else reads (summaryData (s.driver d).summary 8 (r.byte 4) 0)
      | _ => refuse .badArg := by
  unfold judgeTachoRead
  rw [hd, hs]
  rfl

theorem tachoRead_refuses (h : Asked 0x41 s r rest)
    (hb : (r.byte 2 ≠ 1 ∧ r.byte 2 ≠ 2) ∨ 8 < r.byte 3 ∨ (r.byte 3 = 7 ∧ 3 < r.byte 4) ∨ (r.byte 3 = 8 ∧ 4 < r.byte 4)) :
    exec .tachoRead s = .next (answered s r rest .badArg []) := by
  rw [exec_tachoRead]
  refine onRequest_answers h ?_
  cases hd : driverOf (r.byte 2) with
  | none =>
    unfold judgeTachoRead
    rw [hd]
    rfl
  | some d =>
    have hn := (driverOf_iff _ d).mp hd
    rcases hb with ⟨h1, h2⟩ | h8 | ⟨h7, hp⟩ | ⟨h8, hp⟩
    · rw [driverOf_none h1 h2] at hd
      nomatch hd
    · obtain ⟨k, hk⟩ := Nat.exists_eq_add_of_le' h8
      exact judgeTachoRead_driver rest hd hk
    · exact (judgeTachoRead_driver rest hd h7).trans (if_pos hp)
    · exact (judgeTachoRead_driver rest hd h8).trans (if_pos hp)

/-- A read by a selector without a free value. -/
theorem tachoRead_plain (h : Asked 0x41 s r rest) {data : List Byte}
    (hj : judgeTachoRead r { s with intake.queue := rest } = reads data) :
    exec .tachoRead s = .next (answered s r rest .ok data) := by
  rw [exec_tachoRead]
  exact onRequest_answers h hj

/-- A read by a selector whose data may hold a free value. -/
theorem tachoRead_free (h : Asked 0x41 s r rest) {data : List Byte}
    (hj : judgeTachoRead r { s with intake.queue := rest } = readsFree data) :
    exec .tachoRead s = .next (answered s r rest .ok data).useFree := by
  rw [exec_tachoRead]
  exact onRequest_judged h hj

/-- A response pads its data with zeros: an invalid summary's data are four of them (R145, R165). -/
theorem answered_noData (c : ResultCode) : answered s r rest c [] = answered s r rest c [0, 0, 0, 0] := rfl

/-- The answer about a summary: `shown` of a valid one, zeros of an invalid one (R145). -/
theorem answered_summaryData (m : Option Summary) (selector part free : Nat) (shown : Summary → List Byte)
    (hs : ∀ q, summaryData (some q) selector part free = shown q) :
    answered s r rest .ok (summaryData m selector part free) =
      answered s r rest .ok
        (match m with
         | none => [0, 0, 0, 0]
         | some q => shown q) := by
  cases m with
  | none => exact answered_noData .ok
  | some q => exact congrArg _ (hs q)

/-- A driving time that a valid summary may not hold (R193, log 14). -/
theorem driveData_eq (drive : Option Nat) (free : Nat) :
    driveData drive free =
      match drive with
      | some v => u16 (v + 32768)
      | none => u16 (Config.absentDrive free).toNat := rfl

/-- Selector 2's data, with the free values written out (R145, R193, log 14). -/
theorem transferData_eq (t : Transfer) (free : Nat) :
    t.data free =
      match t with
      | .idle => u8 (16 * (Config.idleAttempt free).toNat) ++ u8 (Config.idleDataCount free).toNat
      | .requested e k => u8 (1 + 4 * e.number + 16 * k) ++ u8 0
      | .receiving e k _ _ n _ => u8 (2 + 4 * e.number + 16 * k) ++ u8 n := rfl

theorem headNumber_eq (q : List Readout) :
    driverNumber (q.head?.map (·.driver)) =
      match q with
      | [] => 0
      | e :: _ => e.driver.number := by
  cases q <;> rfl

theorem monitorData_eq (s : State) :
    u8 (bit s.checking.isSome) ++ u8 s.tacho.side.code ++ u8 (bit s.tacho.watch.isSome) =
      u8 (if s.checking = none then 0 else 1) ++
        u8 (match s.tacho.side with
          | .none => 0
          | .inside => 1
          | .outside => 2) ++
        u8 (if s.tacho.watch = none then 0 else 1) := by
  rw [bit_isSome, bit_isSome]
  rfl

end

/-- Settles O58: CARD_READ refuses in R135's order and enqueues behind its response; TACHO_READ answers by its selector, and its
open values are those that the model draws. -/
theorem tachoRequests : Obligations.TachoRequests := by
  refine fun s r rest => ⟨fun h => ⟨cardRead_noDriver h, fun d hd => ⟨cardRead_absent h hd, fun hp =>
    ⟨cardRead_engaged h hd hp, fun hq hf => ?_⟩⟩⟩, fun h => ⟨tachoRead_refuses h, fun d hd => ?_⟩⟩
  · refine ⟨_, cardRead_enqueues h hd hp hq hf, ?_⟩
    have ht := answered_tacho s r rest .ok (u8 (s.tacho.readout.length + 1))
    have hi := answered_ign s r rest .ok (u8 (s.tacho.readout.length + 1))
    generalize answered s r rest .ok (u8 (s.tacho.readout.length + 1)) = a at ht hi ⊢
    have hpa : (a.driver d).state ≠ .noDriver := by
      rw [driver_tacho (congrArg Tacho.d1 ht) (congrArg Tacho.d2 ht) d]
      exact hp
    rw [← ht] at hq hf ⊢
    rw [← hi]
    exact ⟨enqueue_drivers a d .one 1, enqueue_drivers a d .two 1, ripple_enqueue onlyTacho (fun _ hn => hn) a d 1,
      enqueue_waits hpa hq hf, enqueue_starts hpa hq⟩
  · have hj (n : Nat) := judgeTachoRead_driver (s := s) (selector := n) rest ((driverOf_iff _ d).mpr hd)
    refine ⟨fun h0 => ?_, fun h1 => ?_, fun h2 => ?_, fun h3 => ?_, fun h4 => ?_, fun h5 => ?_, fun h6 => ?_, fun h7 hp => ?_,
      fun h8 hp => ?_⟩
    · exact tachoRead_plain h (hj 0 h0)
    · exact tachoRead_plain h (hj 1 h1)
    · refine ⟨_, _, (Config.idleAttempt s.fresh).isLt, (Config.idleDataCount s.fresh).isLt, ?_⟩
      have hj := hj 2 h2
      simp only [transferData_eq, headNumber_eq] at hj
      exact tachoRead_free h hj
    · exact (tachoRead_plain h (hj 3 h3)).trans
        (congrArg Host.Outcome.next (answered_summaryData _ 3 0 0 _ fun _ => rfl))
    · exact ⟨_, (Config.absentDrive s.fresh).isLt, (tachoRead_free h (hj 4 h4)).trans
        (congrArg (fun t => Host.Outcome.next t.useFree) (answered_summaryData _ 4 0 _ _ fun q =>
          congrArg (u16 q.contDrive ++ ·) (driveData_eq q.daily s.fresh)))⟩
    · exact ⟨_, (Config.absentDrive s.fresh).isLt, (tachoRead_free h (hj 5 h5)).trans
        (congrArg (fun t => Host.Outcome.next t.useFree) (answered_summaryData _ 5 0 _ _ fun q =>
          congrArg (· ++ u8 q.name.length) (driveData_eq q.weekly s.fresh)))⟩
    · exact tachoRead_plain h ((hj 6 h6).trans (congrArg reads (monitorData_eq s)))
    · exact (tachoRead_plain h ((hj 7 h7).trans (if_neg (Nat.not_lt.mpr hp)))).trans
        (congrArg Host.Outcome.next (answered_summaryData _ 7 _ 0 _ fun q => fourFrom_eq q.card (r.byte 4)))
    · exact (tachoRead_plain h ((hj 8 h8).trans (if_neg (Nat.not_lt.mpr hp)))).trans
        (congrArg Host.Outcome.next (answered_summaryData _ 8 _ 0 _ fun q => fourFrom_eq q.name (r.byte 4)))

end Sys2Proof.Machine
end

section
/-! DISPLAY_READ and the PAGE button (R157, R158, R162): O60. -/

namespace Sys2Proof.Machine

/-! ### DISPLAY_READ (R162) -/

theorem exec_displayRead (s : State) : exec .displayRead s = onRequest 0x48 judgeDisplayRead s := rfl

theorem displayRead_answers {s : State} {r : FrameRecord} {rest : List FrameRecord} (h : Asked 0x48 s r rest) :
    exec .displayRead s = .next
      (match r.byte 2 with
       | 0 =>
         answered s r rest .ok
           (u8 s.display.link.code ++ u8 s.display.page ++ u8 (bit s.pins.ready) ++ u8 s.display.dirty.marks)
       | 1 => answered s r rest .ok (u16 s.display.sent ++ u16 s.display.readyTimeout)
       | _ => answered s r rest .badArg []) := by
  rw [exec_displayRead]
  generalize hb : r.byte 2 = selector
  match selector with
  | 0 => exact onRequest_answers h (by unfold judgeDisplayRead; rw [hb]; rfl)
  | 1 => exact onRequest_answers h (by unfold judgeDisplayRead; rw [hb]; rfl)
  | n + 2 => exact onRequest_answers h (by unfold judgeDisplayRead; rw [hb]; rfl)

/-! ### The debounce of the PAGE input (R157) -/

section
variable {s : State} {pressed : Bool}

theorem exec_pageInputChange (s : State) (pressed : Bool) :
    exec (.pageInputChange pressed) s = .next (if s.pins.page = pressed then s else s.pageLevel pressed) := rfl

theorem pageInputChange_keeps (h : s.pins.page = pressed) : exec (.pageInputChange pressed) s = .next s := by
  rw [exec_pageInputChange, if_pos h]

theorem pageInputChange_moves (h : s.pins.page ≠ pressed) :
    exec (.pageInputChange pressed) s = .next (s.pageLevel pressed) := by
  rw [exec_pageInputChange, if_neg h]

theorem pageLevel_dark (pressed : Bool) (h : s.powered = false ∨ s.ign.power = .sleep) :
    s.pageLevel pressed = { s with pins.page := pressed } := by
  unfold State.pageLevel
  rw [awake_off s h]
  rfl

theorem pageLevel_awake (pressed : Bool) (hp : s.powered = true) (hs : s.ign.power ≠ .sleep) :
    s.pageLevel pressed =
      { s with pins.page := pressed, display := if pressed then s.display.pageDown s.clock else s.display.pageUp s.clock } := by
  unfold State.pageLevel
  rw [awake_on s hp hs]
  rfl

end

section
variable {b : Display} {now began : Nat}

theorem pageDown_begins (hn : b.pagePress = none)
    (h : b.pageArmed = true ∨ ∃ due, b.pageRelease = some due ∧ due ≤ now) :
    b.pageDown now = { b with pageArmed := true, pagePress := some now, pageKnown := false, pageRelease := none } := by
  rw [← releaseDone_iff, ← Bool.or_eq_true] at h
  unfold Display.pageDown
  rw [hn]
  exact if_pos h

theorem pageDown_inside (h : b.pagePress ≠ none) : b.pageDown now = { b with pageRelease := none } := by
  obtain ⟨began, hb⟩ := Option.ne_none_iff_exists'.mp h
  unfold Display.pageDown
  rw [hb]

theorem pageDown_early (ha : b.pageArmed = false) (h : ∀ due, b.pageRelease = some due → now < due) :
    b.pageDown now = { b with pageRelease := none } := by
  by_cases hn : b.pagePress = none
  · have hr : ¬ (b.pageArmed || releaseDone b.pageRelease now) = true := by
      rw [ha, Bool.false_or, releaseDone_iff]
      exact fun ⟨due, hd, hle⟩ => Nat.not_lt.mpr hle (h due hd)
    unfold Display.pageDown
    rw [hn]
    exact if_neg hr
  · exact pageDown_inside hn

theorem pageUp_pressed (h : b.pagePress = some began) :
    b.pageUp now =
      if b.pageKnown = true ∨ began + 50000 ≤ now then { b with pageKnown := true, pageRelease := some (now + 50000) }
      else { b with pagePress := none } := by
  unfold Display.pageUp
  rw [h]
  simp only [Bool.or_eq_true, decide_eq_true_eq]
  rfl

theorem pageUp_idle (h : b.pagePress = none) :
    b.pageUp now = if b.pageArmed = true then b else { b with pageRelease := some (now + 50000) } := by
  unfold Display.pageUp
  rw [h]
  rfl

end

/-! ### The two ends of a press (R157, R158) -/

theorem exec_pageShortPress (s : State) : exec .pageShortPress s = onExpiry s.display.shortDue State.turnPage s := rfl

theorem exec_pageLongPress (s : State) : exec .pageLongPress s = onExpiry s.display.longDue State.longPress s := rfl

section
variable {b : Display} {began due : Nat}

theorem shortDue_eq (hp : b.pagePress = some began) (hr : b.pageRelease = some due) (hd : due < began + 1000000) :
    b.shortDue = some due := by
  unfold Display.shortDue
  rw [hp, hr]
  exact if_pos hd

theorem longDue_eq (hp : b.pagePress = some began) (hr : ∀ due, b.pageRelease = some due → began + 1000000 ≤ due) :
    b.longDue = some (began + 1000000) := by
  unfold Display.longDue
  rw [hp]
  cases h : b.pageRelease with
  | none => rfl
  | some due => exact if_neg (Nat.not_lt.mpr (hr due h))

end

section
variable (s : State)

/-- The display link with its page turned, before the marks (R158). -/
def Display.turned (b : Display) : Display :=
  { b with page := (b.page + 1) % 4, pagePress := none, pageKnown := false, pageRelease := none, pageArmed := true }

theorem turnPage_eq :
    s.turnPage =
      ({ s with display := s.display.turned }).markDirty [.pageSelect, pageRecord ((s.display.page + 1) % 4)] := rfl

/-- The marks leave the page and the button. -/
theorem turnPage_fixed : s.turnPage.display.fixed = s.display.turned.fixed :=
  (ripple_markDirty onlyTacho _ _).display

theorem turnPage_only : s.turnPage = { s with display := s.turnPage.display } := by
  obtain ⟨d, hd⟩ := markDirty_only { s with display := s.display.turned } [.pageSelect, pageRecord ((s.display.page + 1) % 4)]
  rw [turnPage_eq, hd]

theorem turnPage_marks (h : s.display.link ≠ .off) :
    s.turnPage.display.dirty.pageSelect = true ∧
      s.turnPage.display.dirty.has (pageRecord ((s.display.page + 1) % 4)) = true := by
  have marked {k : RecordKind} (hk : k ∈ [RecordKind.pageSelect, pageRecord ((s.display.page + 1) % 4)]) :
      s.turnPage.display.dirty.has k = true := by
    rw [turnPage_eq, markDirty_has { s with display := s.display.turned } _ h k, decide_eq_true hk, Bool.or_true]
  exact ⟨marked (k := .pageSelect) (by simp), marked (by simp)⟩

/-- The press over, before what it gives. -/
def State.pageReleased : State :=
  { s with display.pagePress := none, display.pageKnown := false, display.pageArmed := false }

theorem longPress_eq :
    s.longPress =
      match pageDriver s.display.page with
      | some d => s.pageReleased.enqueue d 1
      | none => s.pageReleased := rfl

theorem longPress_driver {d : Driver} (h : s.display.page + 1 = d.number) :
    s.longPress = s.pageReleased.enqueue d 1 := by
  have hd : pageDriver s.display.page = some d := by
    cases d
    · rw [Nat.succ.inj h]
      rfl
    · rw [Nat.succ.inj h]
      rfl
  rw [longPress_eq, hd]

theorem longPress_other (h : 2 ≤ s.display.page) : s.longPress = s.pageReleased := by
  have hd : pageDriver s.display.page = none := by
    obtain ⟨k, hk⟩ := Nat.exists_eq_add_of_le' h
    rw [hk]
    rfl
  rw [longPress_eq, hd]

theorem ripple_longPress : Ripple onlyTacho s.pageReleased s.longPress := by
  rw [longPress_eq]
  cases pageDriver s.display.page with
  | none => exact Ripple.refl _ _
  | some d => exact ripple_enqueue onlyTacho (fun _ hn => hn) _ d 1

end

/-- Settles O60: DISPLAY_READ has no effect; the PAGE debounce is the display's alone; a short press only marks, and a long press
only enqueues. -/
theorem displayInputs : Obligations.DisplayInputs := by
  refine ⟨fun s r rest h => (displayRead_answers h).trans rfl, fun s pressed => ?_, fun s began due hp hr hd => ?_,
    fun s began hp hr => ?_⟩
  · refine ⟨pageInputChange_keeps, fun hm hd => ?_, fun hm hw hs => ?_⟩
    · rw [pageInputChange_moves hm, pageLevel_dark pressed hd]
    have moved := (pageInputChange_moves hm).trans (congrArg Host.Outcome.next (pageLevel_awake pressed hw hs))
    refine ⟨fun hb hn ha => ?_, fun hb ho => ?_, fun began hb hn => ?_, fun hb hn => ?_⟩
    · subst hb
      rw [moved, if_pos rfl, pageDown_begins hn ha]
    · subst hb
      have ignored : s.display.pageDown s.clock = { s.display with pageRelease := none } :=
        ho.elim pageDown_inside fun ⟨ha, he⟩ => pageDown_early ha he
      rw [moved, if_pos rfl, ignored]
    · subst hb
      rw [moved, if_neg Bool.false_ne_true, pageUp_pressed hn]
      split <;> rfl
    · subst hb
      rw [moved, if_neg Bool.false_ne_true, pageUp_idle hn]
      split <;> rfl
  · have fixed := turnPage_fixed (s.reach due)
    exact ⟨_, onExpiry_running (shortDue_eq hp hr hd) State.turnPage s, congrArg Display.page fixed,
      congrArg Display.pagePress fixed, congrArg Display.pageRelease fixed, congrArg Display.pageArmed fixed,
      turnPage_only (s.reach due), turnPage_marks (s.reach due)⟩
  · have R := ripple_longPress (s.reach (began + 1000000))
    refine ⟨_, onExpiry_running (longDue_eq hp hr) State.longPress s, R.page, congrArg Display.pagePress R.display,
      congrArg Display.pageArmed R.display, R.clock, R, longPress_other (s.reach (began + 1000000)),
      fun d hd hpres hq hf => ?_⟩
    rw [longPress_driver (s.reach (began + 1000000)) hd]
    have present : ((s.reach (began + 1000000)).pageReleased.driver d).state ≠ .noDriver := hpres
    exact ⟨fun hw => congrArg State.tacho (enqueue_waits present hq hf hw), enqueue_starts present hq⟩

end Sys2Proof.Machine
end

section
/-! The display link through the operations that the commands come to (R152, R153, R163): a ripple leaves it OFF or on as it was, and the
changes of power state turn it off and on. -/

namespace Sys2Proof

open Machine

variable {s t : State}

/-! ### What keeps the link with the power state -/

/-- What the invariant of the link speaks of: the link state and the four timers of the link (R152). -/
def Machine.Display.linkage (d : Display) : LinkState × Timer × Timer × Timer × Timer :=
  (d.link, d.readyTimer, d.retryTimer, d.startTimer, d.doneTimer)

/-- A change of anything else. -/
theorem LinkOk.same (h : LinkOk s) (hd : t.display.linkage = s.display.linkage) (hp : t.ign.power = s.ign.power) :
    LinkOk t := by
  simp only [Display.linkage, Prod.mk.injEq] at hd
  obtain ⟨hl, hready, hretry, hstart, hdone⟩ := hd
  unfold LinkOk
  rw [hl, hready, hretry, hstart, hdone, hp]
  exact h

/-- Outside SLEEP the link is on, and no more is said of it. -/
theorem linkOk_on (hp : t.ign.power ≠ .sleep) (hl : t.display.link ≠ .off) : LinkOk t :=
  ⟨⟨fun e => absurd e hl, fun e => absurd e hp⟩, fun e => absurd e hp⟩

/-- In SLEEP the link is OFF and none of its timers runs. -/
theorem linkOk_off (hp : t.ign.power = .sleep) (hd : t.display.linkage = (.off, none, none, none, none)) : LinkOk t := by
  simp only [Display.linkage, Prod.mk.injEq] at hd
  obtain ⟨hl, hready, hretry, hstart, hdone⟩ := hd
  exact ⟨iff_of_true hl hp, fun _ => ⟨hready, hretry, hstart, hdone⟩⟩

theorem LinkOk.on (h : LinkOk s) (hp : s.ign.power ≠ .sleep) : s.display.link ≠ .off := fun e => hp (h.1.mp e)

/-- The link as it was, from one power state outside SLEEP to another. -/
theorem LinkOk.moved (h : LinkOk s) (hs : s.ign.power ≠ .sleep) (hd : t.display.link = s.display.link)
    (ht : t.ign.power ≠ .sleep) : LinkOk t := linkOk_on ht (by rw [hd]; exact h.on hs)

/-- A link that is OFF hears of nothing, and one that is on stays on (R153). -/
theorem Machine.Ripple.linkOk {ch ev : Nat → Prop} (R : Ripple ch s t ev) (h : LinkOk s) : LinkOk t := by
  obtain ⟨hl, hq⟩ := h
  refine ⟨by rw [R.told.on, R.ign]; exact hl, fun hp => ?_⟩
  rw [R.ign] at hp
  rw [R.told.off (hl.mpr hp)]
  exact hq hp

theorem Machine.Travel.linkOk {ch : Nat → Prop} (T : Travel ch s t) (h : LinkOk s) : LinkOk t := by
  have hs : LinkOk (s.travelAs t) := h.same rfl rfl
  exact Ripple.linkOk T hs

/-- A command that does its work where a condition holds. -/
theorem LinkOk.guarded {c : Prop} [Decidable c] {u v : State} (hu : LinkOk u) (hv : LinkOk v) :
    LinkOk (if c then u else v) := by
  split
  · exact hu
  · exact hv

/-! ### Shared operations -/

theorem LinkOk.send (h : LinkOk s) (l : List AlertAction) : LinkOk (s.send l) :=
  (ripple_send (fun _ => True) s l trivial).linkOk h

theorem LinkOk.push (h : LinkOk s) (code : Nat) (v : Severity) (o : Origin) : LinkOk (s.push code v o) := h.send _

theorem LinkOk.release (h : LinkOk s) (code : Nat) (o : Origin) : LinkOk (s.release code o) := h.send _

theorem LinkOk.raise (h : LinkOk s) (f : EventFlag) : LinkOk (s.raise f) := (ripple_raise onlyTacho s f).linkOk h

theorem LinkOk.offer (h : LinkOk s) (f : TxFrame) : LinkOk (s.offer f) := (ripple_offer onlyTacho s f).linkOk h

theorem LinkOk.setPort (h : LinkOk s) (p : Port) (b : PortBlock) : LinkOk (s.setPort p b) := by
  cases p <;> exact h.same rfl rfl

theorem LinkOk.putRule (h : LinkOk s) (i : Nat) (r : Rule) : LinkOk (s.putRule i r) := h.same rfl rfl

theorem LinkOk.putLamp (h : LinkOk s) (n : Nat) (l : Lamp) : LinkOk (s.putLamp n l) := h.same rfl rfl

theorem LinkOk.settleLamps (h : LinkOk s) : LinkOk s.settleLamps := (ripple_settleLamps onlyTacho s).linkOk h

theorem LinkOk.writePlain (h : LinkOk s) (n : Nat) (w : SlotWrite) : LinkOk (s.writePlain n w) :=
  (ripple_writePlain (fun _ => True) s n w trivial trivial).linkOk h

theorem LinkOk.changeSlot (h : LinkOk s) (n : Nat) (c : Cause) (r : SlotRecord) : LinkOk (s.changeSlot n c r) :=
  (ripple_changeSlot (fun _ => True) (fun _ _ => trivial) s n c r trivial).linkOk h

theorem LinkOk.writeSpeed (h : LinkOk s) (w : SlotWrite) : LinkOk (s.writeSpeed w) := h.changeSlot _ _ _

theorem LinkOk.evalRule (h : LinkOk s) (i : Nat) : LinkOk (s.evalRule i).1 :=
  (ripple_evalRule (fun _ => True) s i (fun _ => True) (fun _ _ => trivial) (fun _ _ => trivial)).linkOk h

theorem LinkOk.setMarks (h : LinkOk s) (a b : Bool) : LinkOk (s.setMarks a b) := by
  obtain ⟨-, -, -, -, -, T⟩ := setMarks_spec s a b
  exact T.linkOk h

theorem LinkOk.requestCal (h : LinkOk s) : LinkOk s.requestCal := by
  obtain ⟨-, -, T⟩ := requestCal_travel (fun _ => True) s
  exact T.linkOk h

theorem LinkOk.acknowledge (h : LinkOk s) : LinkOk s.acknowledge := (ripple_acknowledge (fun _ => True) s trivial).linkOk h

theorem LinkOk.enqueue (h : LinkOk s) (d : Driver) (attempt : Nat) : LinkOk (s.enqueue d attempt) :=
  (ripple_enqueue onlyTacho (fun _ h => h) s d attempt).linkOk h

/-! ### The changes of power state (R163, R188 to R191) -/

theorem LinkOk.compareIgn (h : LinkOk s) : LinkOk s.compareIgn := h.same rfl rfl

/-- SLEEP entry turns the link OFF and cancels its timers; the lamps are the telltale block's alone (R163). -/
theorem linkOk_sleepEntry (s : State) : LinkOk s.sleepEntry := by
  obtain ⟨hp, -⟩ := sleepEntry_spec s
  refine linkOk_off hp ?_
  unfold State.sleepEntry
  simp only []
  obtain ⟨lamps, hl⟩ := settleLamps_only
    (State.sleepBlocks
      (State.cutSave { s with ign.power := .sleep, ign.hold := false, ign.parkingTimer := none, ign.secondTimer := none }))
  rw [hl]
  rfl

/-- WAKING entry turns the link on (R163). -/
theorem linkOk_wakingEntry (s : State) : LinkOk s.wakingEntry := by
  obtain ⟨hp, -, -, -, -, -, -, -, -, -, -, -, -, -, -, -, -, hl⟩ := wakingEntry_spec s
  exact linkOk_on (by rw [hp]; decide) hl

theorem LinkOk.runEntry (h : LinkOk s) (hp : s.ign.power ≠ .sleep) : LinkOk s.runEntry :=
  (ripple_runEntry (fun _ => True) s trivial trivial).linkOk (h.moved hp rfl fun e => nomatch e)

theorem LinkOk.parkingEntry (h : LinkOk s) (hp : s.ign.power ≠ .sleep) : LinkOk s.parkingEntry := by
  obtain ⟨p, q, he, R, -, hpower, -, -, -, -, -, -, -, -, -, -, -, -, -, -, -, -, -, -, -, -, hd, -⟩ := parkingEntry_spec s
  have hP : LinkOk p := h.moved hp (by rw [hd]) (by rw [hpower]; decide)
  rw [he]
  exact (R.linkOk hP).compareIgn

theorem LinkOk.returnToRun (h : LinkOk s) (hp : s.ign.power ≠ .sleep) : LinkOk s.returnToRun := by
  obtain ⟨hpower, -, -, -, -, -, -, -, -, -, -, -, -, -, -, -, -, -, hl, -⟩ := returnToRun_spec s
  exact linkOk_on (by rw [hpower]; decide) fun e => h.on hp (hl.mp e)

theorem LinkOk.judgeRun (h : LinkOk s) : LinkOk s.judgeRun := by
  unfold State.judgeRun Ignition.mayRun
  split
  · next hr =>
    simp only [Bool.and_eq_true, decide_eq_true_eq] at hr
    obtain ⟨⟨hp, -⟩, -⟩ := hr
    exact h.runEntry (by rw [hp]; decide)
  · exact h

theorem LinkOk.judgeSleep (h : LinkOk s) : LinkOk s.judgeSleep := (linkOk_sleepEntry s).guarded h

/-- A channel that moves, with what the controller makes of its report (R66). -/
theorem LinkOk.moveChannel (h : LinkOk s) (c : Nat) (d : Channel) : LinkOk (s.moveChannel c d) := by
  obtain ⟨reports, hn⟩ := noteChannel_only (s.putChannel c d) s.gauges c
  have reported : LinkOk { s.putChannel c d with ign.reports := reports } := h.same rfl rfl
  unfold State.moveChannel
  simp only [hn]
  exact LinkOk.guarded (h.same rfl rfl) reported.judgeRun.judgeSleep

/-- Power-on, a restart and a supply loss leave the link OFF with its timers stopped (R163). -/
theorem linkOk_poweredOn (s : State) : LinkOk s.poweredOn := linkOk_off rfl rfl

theorem linkOk_loseSupply (s : State) : LinkOk s.loseSupply := (linkOk_poweredOn s).same rfl rfl

theorem linkOk_start (s : State) : LinkOk s.start := (linkOk_wakingEntry _).guarded (linkOk_poweredOn s)

end Sys2Proof
end

section
/-! The display link through what the commands of the other blocks do, and through the link's own operations (R152 to R158). -/

namespace Sys2Proof

open Machine

variable {s t : State}

/-! ### The controller, the ports, the intake and the stores -/

theorem LinkOk.takeIgnLevel (h : LinkOk s) : LinkOk s.takeIgnLevel := by
  have taken : LinkOk { s with ign.level := s.pins.ign, ign.timer := none } := h.same rfl rfl
  unfold State.takeIgnLevel
  simp only []
  split
  · exact linkOk_wakingEntry _
  · next hp _ => exact taken.parkingEntry (by rw [hp]; decide)
  · next hp _ => exact taken.parkingEntry (by rw [hp]; decide)
  · next hp _ => exact taken.returnToRun (by rw [hp]; decide)
  · exact taken

theorem LinkOk.sortFrame (h : LinkOk s) (p : Port) (f : BusFrame) : LinkOk (s.sortFrame p f) := by
  have offered {u : State} (hu : LinkOk u) (r : FrameRecord) : LinkOk (u.intakeOffer r) :=
    LinkOk.guarded (hu.same rfl rfl) ((hu.setPort _ _).raise _)
  exact (offered (h.setPort p _) _).guarded (h.setPort p _)

theorem LinkOk.countTxError (h : LinkOk s) (p : Port) : LinkOk (s.countTxError p) :=
  ((h.setPort p _).raise _).guarded (h.setPort p _)

theorem LinkOk.fallSilent (h : LinkOk s) (p : Port) : LinkOk (s.fallSilent p) :=
  LinkOk.guarded (((h.setPort p _).writePlain _ _).push _ _ _) ((h.setPort p _).writePlain _ _)

theorem LinkOk.routeFrame (h : LinkOk s) (route : Route) (r : FrameRecord) : LinkOk (s.routeFrame route r) := by
  have counted (l : List RouteEntry) : LinkOk (s.withRoutes l) := h.same rfl rfl
  unfold State.routeFrame
  simp only []
  split
  · exact (extract_ripple route r.data route.extractors _).linkOk (counted _)
  · exact counted _

theorem LinkOk.openBuild (h : LinkOk s) (b : Build) : LinkOk (s.openBuild b) := by
  have abandoned : LinkOk s.abandonBuild := (h.raise _).guarded h
  exact abandoned.same rfl rfl

theorem LinkOk.deleteRoute (h : LinkOk s) (e : RouteEntry) : LinkOk (s.deleteRoute e) := by
  obtain ⟨R, -⟩ := deleteRoute_resets s e
  exact R.linkOk (h.same rfl rfl)

theorem LinkOk.calWritten (h : LinkOk s) : LinkOk s.calWritten := by
  unfold State.calWritten
  split <;> exact h.same rfl rfl

theorem LinkOk.saveRead (h : LinkOk s) (image : ConfigImage) (equal : Bool) : LinkOk (s.saveRead image equal) := by
  have saved (c : StoreContents ConfigImage) : LinkOk
      { s with store.save := none, store.saveLimit := none, ign.saveMark := false, store.config := c } := h.same rfl rfl
  have reported {u : State} (hu : LinkOk u) : LinkOk u.reportValid := by
    have valid : LinkOk { u with store.report := true } := hu.same rfl rfl
    exact hu.guarded (valid.release _ _).settleLamps
  unfold State.saveRead
  simp only []
  split
  · exact reported ((saved _).raise _)
  · exact (saved _).raise _

/-! ### The gauges, the rules and the lamps -/

theorem LinkOk.failChannel (h : LinkOk s) (c : Nat) (cause : CoilFault) : LinkOk (s.failChannel c cause) := by
  have failed : LinkOk (s.putChannel c ((s.channel c).fail cause)) := h.same rfl rfl
  have reported : LinkOk ((s.putChannel c ((s.channel c).fail cause)).reportFault c)  :=
    ((failed.writePlain _ _).raise _).push _ _ _
  have noted : LinkOk
      { (s.putChannel c ((s.channel c).fail cause)).reportFault c with
        ign.reports := ((s.putChannel c ((s.channel c).fail cause)).reportFault c).ign.reports.put c .fault } :=
    reported.same rfl rfl
  exact noted.judgeRun.judgeSleep

theorem LinkOk.enableRule (h : LinkOk s) (i : Nat) : LinkOk (s.enableRule i) :=
  (((h.putRule i _).evalRule i).send _).settleLamps

theorem LinkOk.clearRule (h : LinkOk s) (i : Nat) : LinkOk (s.clearRule i) :=
  ((h.putRule i _).send _).settleLamps

theorem LinkOk.confirmRule (h : LinkOk s) (i : Nat) : LinkOk (s.confirmRule i) :=
  ((h.putRule i _).send _).settleLamps

theorem LinkOk.advancePhase (h : LinkOk s) : LinkOk s.advancePhase :=
  (ripple_settleLamps onlyTacho _).linkOk (h.same rfl rfl)

theorem LinkOk.proveOutEnded (h : LinkOk s) : LinkOk s.proveOutEnded := by
  have ended : LinkOk { s with telltale.proveOut := none, ign.proveOutRunning := false } := h.same rfl rfl
  exact ended.settleLamps.judgeRun

theorem LinkOk.checkLamp (h : LinkOk s) (n : Nat) (current : Bool) : LinkOk (s.checkLamp n current) := by
  have checked : LinkOk (s.putLamp n { openMark := !current, checked := true }) := h.putLamp n _
  unfold State.checkLamp
  simp only []
  split
  · exact (checked.raise _).push _ _ _
  · exact checked.release _ _
  · exact checked
  · exact checked

/-! ### The inputs and the distance block -/

theorem LinkOk.ackRecognised (h : LinkOk s) : LinkOk s.ackRecognised := by
  have known : LinkOk { s with alert.ackHold := none, alert.ackArmed := false } := h.same rfl rfl
  exact known.acknowledge.guarded known

theorem LinkOk.ackLevel (h : LinkOk s) (pressed : Bool) : LinkOk (s.ackLevel pressed) := by
  unfold State.ackLevel
  split <;> exact h.same rfl rfl

theorem LinkOk.takeRaw (h : LinkOk s) (p : Pin) (high : Bool) : LinkOk (s.takeRaw p high) := by
  have raw : LinkOk (s.setRaw p high) := by cases p <;> exact h.same rfl rfl
  have timed {u : State} (hu : LinkOk u) (timer : Timer) : LinkOk (u.setStability p timer) := by
    cases p <;> exact hu.same rfl rfl
  refine LinkOk.guarded (LinkOk.guarded (LinkOk.guarded ?_ raw) (timed raw _)) raw
  exact (timed raw none).same rfl rfl

theorem LinkOk.acceptEdge (h : LinkOk s) (p : Pin) : LinkOk (s.acceptEdge p) := by
  have taken : LinkOk ((s.setStability p none).setFiltered p (s.rawLevel p)) := by cases p <;> exact h.same rfl rfl
  cases p with
  | spa => exact LinkOk.guarded ((pulse_travel _).linkOk taken) taken
  | spb => exact (spbEdge_travel _).linkOk taken

theorem LinkOk.zeroExpired (h : LinkOk s) : LinkOk s.zeroExpired := by
  have stopped : LinkOk { s with dist.ring := [], dist.lastPulse := none, dist.zeroTimer := none } := h.same rfl rfl
  exact stopped.guarded (stopped.writeSpeed _)

theorem LinkOk.watchExpired (h : LinkOk s) : LinkOk s.watchExpired := by
  have stopped : LinkOk { s with tacho.watch := none } := h.same rfl rfl
  exact (((stopped.setMarks _ _).raise _).push _ _ _).writeSpeed _

theorem LinkOk.changeK (h : LinkOk s) (k : Nat) : LinkOk (s.changeK k) := LinkOk.requestCal (h.same rfl rfl)

theorem LinkOk.sealNow (h : LinkOk s) : LinkOk s.sealNow := LinkOk.requestCal (h.same rfl rfl)

theorem LinkOk.setOdometer (h : LinkOk s) (metres : Nat) : LinkOk (s.setOdometer metres) :=
  LinkOk.requestCal ((ripple_writeOther (fun _ => True) _ 2 _ trivial trivial).linkOk (h.same rfl rfl))

theorem LinkOk.setParam (h : LinkOk s) (id : Nat) (v : Int) : LinkOk ((s.setHeld id v).paramChanged id) :=
  (ripple_paramChanged onlyTacho (fun _ h => h) _ id).linkOk (h.same rfl rfl)

/-! ### The PAGE button and the link's own events (R154 to R158) -/

theorem LinkOk.pageLevel (h : LinkOk s) (pressed : Bool) : LinkOk (s.pageLevel pressed) := by
  unfold State.pageLevel Display.pageDown Display.pageUp
  refine h.same ?_ ?_ <;> (repeat' split) <;> rfl

theorem LinkOk.turnPage (h : LinkOk s) : LinkOk s.turnPage := (ripple_markDirty onlyTacho _ _).linkOk (h.same rfl rfl)

theorem LinkOk.longPress (h : LinkOk s) : LinkOk s.longPress := (ripple_longPress s).linkOk (h.same rfl rfl)

end Sys2Proof
end

section
/-! The display link through every command and every step (R152, R163): O13. -/

namespace Sys2Proof

open Machine

variable {s t : State}

/-! ### The link's own commands (R154 to R156) -/

/-- A link that chooses stays on (R154). -/
theorem settle_on (d : Display) (ready : Bool) (now : Nat) : (d.settle ready now).link ≠ .off := poll_on _ _ _ nofun

/-- A timer of the link runs outside SLEEP alone, and what follows its expiry leaves a link that is on so (R152). -/
theorem LinkOk.timer {timer : Timer} {f : State → State} (h : LinkOk s) (ht : onExpiry timer f s = .next t)
    (hrun : s.display.readyTimer = none → s.display.retryTimer = none → s.display.startTimer = none →
      s.display.doneTimer = none → timer = none) (hp : ∀ u, (f u).ign.power = u.ign.power)
    (hl : ∀ u, u.display.link ≠ .off → (f u).display.link ≠ .off) : LinkOk t := by
  rcases onExpiry_cases ht with rfl | ⟨due, hdue, rfl⟩
  · exact h
  · have awake : s.ign.power ≠ .sleep := fun e => by
      obtain ⟨hready, hretry, hstart, hdone⟩ := h.2 e
      rw [hrun hready hretry hstart hdone] at hdue
      exact nomatch hdue
    exact linkOk_on (by rw [hp]; exact awake) (hl _ (h.on awake))

theorem LinkOk.readyTimer (h : LinkOk s) (ht : execReadyTimerExpiry s = .next t) : LinkOk t :=
  h.timer ht (fun hready _ _ _ => hready) (fun _ => rfl) fun _ _ => nofun

theorem LinkOk.retryTimer (h : LinkOk s) (ht : execRetryTimerExpiry s = .next t) : LinkOk t := by
  refine h.timer ht (fun _ hretry _ _ => hretry) (fun u => (quiet_retry u).power) fun u hu => ?_
  unfold State.retry
  split
  · exact settle_on _ _ _
  · exact hu

theorem LinkOk.transferStart (h : LinkOk s) (ht : execDisplayTransferStart s = .next t) : LinkOk t := by
  refine h.timer ht (fun _ _ hstart _ => hstart) (fun u => (quiet_startRecord u).power) fun u hu => ?_
  unfold State.startRecord
  split
  · split
    · exact hu
    · exact nofun
  · exact nofun

theorem LinkOk.transferComplete (h : LinkOk s) (ht : execDisplayTransferComplete s = .next t) : LinkOk t :=
  h.timer ht (fun _ _ _ hdone => hdone) (fun _ => rfl) fun _ _ => settle_on _ _ _

/-- READY moves a link that is WAITING alone, and so one that is on (R154). -/
theorem LinkOk.readyUp (h : LinkOk s) : LinkOk s.readyUp := by
  unfold State.readyUp
  simp only []
  split
  · next hw =>
    have awake : s.ign.power ≠ .sleep := fun e => by rw [h.1.mpr e] at hw; exact nomatch hw
    exact linkOk_on awake (settle_on _ _ _)
  · exact h.same rfl rfl

/-! ### What a classifier path, a request and an expiry keep -/

theorem LinkOk.path {path : State → FrameRecord → Bool} {f : FrameRecord → State → State} (h : LinkOk s)
    (ht : takeHead path f s = .next t) (hf : ∀ r u, LinkOk u → LinkOk (f r u)) : LinkOk t := by
  rcases takeHead_cases ht with rfl | ⟨r, rest, -, -, rfl⟩
  · exact h
  · exact hf r _ (h.same rfl rfl)

theorem LinkOk.expiry {timer : Timer} {f : State → State} (h : LinkOk s) (ht : onExpiry timer f s = .next t)
    (hf : ∀ u, LinkOk u → LinkOk (f u)) : LinkOk t := by
  rcases onExpiry_cases ht with rfl | ⟨due, -, rfl⟩
  · exact h
  · exact hf _ (h.same rfl rfl)

theorem LinkOk.request {code : Nat} {judge : FrameRecord → State → Verdict} (h : LinkOk s)
    (ht : onRequest code judge s = .next t) (hj : ∀ r u, (judge r u).Keeps LinkOk u) : LinkOk t :=
  h.path ht fun r u hu => hj r u _ (quiet_offer u _) (hu.offer _)

/-- A verdict whose effect keeps what is said of the link. -/
theorem linkOk_keeps {v : Verdict} {u : State} (hv : ∀ x, LinkOk x → LinkOk (v.effect x)) : v.Keeps LinkOk u :=
  fun x _ hx => hv x hx

/-- A request accepted, whose effect is `f`. -/
theorem linkOk_accepts {f : State → State} {u : State} (hf : ∀ x, LinkOk x → LinkOk (f x)) : (accepts f).Keeps LinkOk u :=
  linkOk_keeps hf

theorem LinkOk.read {code : Nat} {judge : FrameRecord → State → Verdict} (h : LinkOk s)
    (ht : onRequest code judge s = .next t) (hj : ∀ r u, (judge r u).Reads) : LinkOk t := by
  refine h.request ht fun r u => linkOk_keeps fun x hx => ?_
  rcases hj r u with e | e <;> rw [e]
  · exact hx
  · exact hx.same rfl rfl

/-! ### Requests and records with branches of their own -/

theorem linkOk_acceptPart (u : State) (b : Build) : (acceptPart b).Keeps LinkOk u := by
  unfold acceptPart
  split <;> exact linkOk_keeps fun _ hx => hx.same rfl rfl

theorem LinkOk.extA (h : LinkOk s) (ht : execExtA s = .next t) : LinkOk t := by
  refine h.request ht fun r u => keeps_unlessSaving ?_
  split
  · exact keeps_refuse _ u _
  · exact keeps_check fun _ => keeps_check fun _ => keeps_check fun _ => linkOk_acceptPart u _

theorem LinkOk.extB (h : LinkOk s) (ht : execExtB s = .next t) : LinkOk t := by
  refine h.request ht fun r u => keeps_unlessSaving ?_
  split
  · exact keeps_refuse _ u _
  · exact keeps_check fun _ => keeps_check fun _ => linkOk_acceptPart u _

theorem LinkOk.extC (h : LinkOk s) (ht : execExtC s = .next t) : LinkOk t := by
  refine h.request ht fun r u => keeps_unlessSaving ?_
  split
  · exact keeps_refuse _ u _
  · exact keeps_check fun _ => linkOk_acceptPart u _

theorem LinkOk.routeDelete (h : LinkOk s) (ht : execRouteDelete s = .next t) : LinkOk t := by
  refine h.request ht fun r u => keeps_unlessSaving (keeps_check fun _ => ?_)
  split
  · exact linkOk_accepts fun _ hx => hx.deleteRoute _
  · exact keeps_ite (fun _ => linkOk_accepts fun _ hx => hx.same rfl rfl) fun _ => keeps_refuse _ u _

theorem linkOk_writePart (u : State) (i : Nat) (f : Rule → Rule) : (writePart i f).Keeps LinkOk u :=
  linkOk_accepts fun _ hx => hx.putRule i _

theorem LinkOk.ruleD (h : LinkOk s) (ht : execRuleD s = .next t) : LinkOk t := by
  refine h.request ht fun r u => keeps_editable ?_
  split
  · exact keeps_refuse _ u _
  · exact keeps_check fun _ => linkOk_writePart u _ _

theorem LinkOk.alertAck (h : LinkOk s) (ht : execAlertAck s = .next t) : LinkOk t := by
  refine h.request ht fun _ u => keeps_ite (fun _ => ?_) fun _ => keeps_refuse _ u _
  unfold AckResult.verdict
  split <;> exact linkOk_keeps fun _ hx => hx.acknowledge

theorem LinkOk.setKfactor (h : LinkOk s) (ht : execSetKfactor s = .next t) : LinkOk t := by
  refine h.request ht fun r u => ?_
  unfold judgeSetKfactor
  exact keeps_check fun _ => keeps_check fun _ => keeps_check fun _ => linkOk_keeps fun _ hx => hx.changeK _

theorem LinkOk.setOdometerRequest (h : LinkOk s) (ht : execSetOdometer s = .next t) : LinkOk t := by
  refine h.request ht fun r u => ?_
  unfold judgeSetOdometer
  exact keeps_check fun _ => linkOk_accepts fun _ hx => hx.setOdometer _

theorem LinkOk.cardRead (h : LinkOk s) (ht : execCardRead s = .next t) : LinkOk t := by
  refine h.request ht fun r u => ?_
  unfold judgeCardRead
  split
  · exact keeps_refuse _ u _
  · exact keeps_check fun _ => keeps_check fun _ => linkOk_keeps fun _ hx => hx.enqueue _ 1

theorem LinkOk.routedFrame (h : LinkOk s) (ht : execRoutedFrame s = .next t) : LinkOk t := by
  refine h.path ht fun r u hu => ?_
  split
  · exact hu.routeFrame _ r
  · exact hu

theorem LinkOk.unroutedFrame (h : LinkOk s) (ht : execUnroutedFrame s = .next t) : LinkOk t :=
  h.path ht fun r _ hu => hu.setPort r.port _

theorem LinkOk.foreignMgmt (h : LinkOk s) (ht : execForeignMgmt s = .next t) : LinkOk t :=
  h.path ht fun _ _ hu => hu.same rfl rfl

theorem LinkOk.badRequest (h : LinkOk s) (ht : execBadRequest s = .next t) : LinkOk t :=
  h.path ht fun _ _ hu => hu.offer _

theorem LinkOk.xferStray (h : LinkOk s) (ht : execXferStray s = .next t) : LinkOk t :=
  h.path ht fun _ _ hu => hu.same rfl rfl

theorem LinkOk.xferOpen (h : LinkOk s) (ht : execXferOpen s = .next t) : LinkOk t := by
  refine h.path ht fun r u hu => ?_
  split
  · exact (ripple_takeOpen onlyTacho (fun _ h => h) u _ _).linkOk hu
  · exact hu

theorem LinkOk.xferData (h : LinkOk s) (ht : execXferData s = .next t) : LinkOk t := by
  refine h.path ht fun r u hu => ?_
  split
  · exact (ripple_takeData onlyTacho (fun _ h => h) u _ _).linkOk hu
  · exact hu

theorem LinkOk.xferClose (h : LinkOk s) (ht : execXferClose s = .next t) : LinkOk t := by
  refine h.path ht fun r u hu => ?_
  split
  · exact (ripple_takeClose onlyTacho (fun _ h => h) u _).linkOk hu
  · exact hu

theorem LinkOk.restartExecute (h : LinkOk s) (ht : execRestartExecute s = .next t) : LinkOk t := by
  unfold execRestartExecute at ht
  split at ht
  · cases ht; exact h
  · split at ht <;> cases ht
    · exact linkOk_start _
    · exact h

theorem LinkOk.configSaveEnd {equal : Bool} (h : LinkOk s) (ht : execConfigSaveEnd equal s = .next t) : LinkOk t := by
  unfold execConfigSaveEnd at ht
  split at ht <;> cases ht
  · exact h
  · exact (h.saveRead _ _).judgeSleep

/-! ### Every command and every step -/

theorem LinkOk.exec {c : Instr} (h : LinkOk s) (ht : Machine.exec c s = .next t) : LinkOk t := by
  cases c with
  | powerOn => cases ht; exact h.guarded (linkOk_start s)
  | supplyLoss => cases ht; exact (linkOk_loseSupply s).guarded h
  | ignChange => cases ht; exact h.guarded (LinkOk.guarded (h.same rfl rfl) (h.same rfl rfl))
  | ignTimerExpiry => exact h.expiry ht fun _ hu => hu.takeIgnLevel
  | parkingTimerExpiry => exact h.expiry ht fun u _ => linkOk_sleepEntry u
  | secondTimerExpiry => exact h.expiry ht fun u hu => (countSecond_ripple u).linkOk (hu.same rfl rfl)
  | validFrameReceived p f =>
    cases ht
    exact LinkOk.guarded (((hear_ripple s p).linkOk (h.setPort p _)).sortFrame p f) h
  | rxErrorDetected p => cases ht; exact (h.setPort p _).guarded h
  | txErrorDetected p => cases ht; exact (h.countTxError p).guarded h
  | busOffRecoveryExpiry p => rw [exec_busOffRecoveryExpiry] at ht; exact h.expiry ht fun _ hu => hu.setPort p _
  | silenceTimerExpiry p => rw [exec_silenceTimerExpiry] at ht; exact h.expiry ht fun _ hu => hu.fallSilent p
  | txFrameComplete => cases ht; exact LinkOk.guarded (h.same rfl rfl) h
  | routedFrame => exact h.routedFrame ht
  | unroutedFrame => exact h.unroutedFrame ht
  | foreignMgmt => exact h.foreignMgmt ht
  | badRequest => exact h.badRequest ht
  | xferStray => exact h.xferStray ht
  | readEvents => exact h.request ht fun _ _ => linkOk_keeps fun _ hx => hx.same rfl rfl
  | setNoticeMask =>
    exact h.request ht fun _ u => keeps_ite (fun _ => linkOk_keeps fun _ hx => hx.same rfl rfl) fun _ => keeps_refuse _ u _
  | setParam =>
    exact h.request ht fun _ _ => keeps_unlessSaving (keeps_check fun _ => keeps_check fun _ => keeps_check fun _ =>
      linkOk_keeps fun _ hx => hx.setParam _ _)
  | restart | configSave | configErase =>
    exact h.request ht fun _ _ => keeps_unlessSaving (linkOk_keeps fun _ hx => hx.same rfl rfl)
  | restartExecute => exact h.restartExecute ht
  | configSaveEnd => exact h.configSaveEnd ht
  | routeOpen =>
    exact h.request ht fun _ _ => keeps_unlessSaving (keeps_check fun _ => keeps_check fun _ => keeps_check fun _ =>
      keeps_check fun _ => linkOk_accepts fun _ hx => hx.openBuild _)
  | extA => exact h.extA ht
  | extB => exact h.extB ht
  | extC => exact h.extC ht
  | routeDelete => exact h.routeDelete ht
  | slotExpiry n => rw [exec_slotExpiry] at ht; exact h.expiry ht fun _ hu => hu.changeSlot n _ _
  | gaugeField =>
    exact h.request ht fun _ _ => keeps_check fun _ => keeps_check fun _ => linkOk_keeps fun _ hx => hx.same rfl rfl
  | gaugeCommit =>
    exact h.request ht fun _ _ => keeps_unlessSaving (keeps_check fun _ => keeps_check fun _ => keeps_check fun _ =>
      keeps_check fun _ => linkOk_accepts fun _ hx => hx.moveChannel _ _)
  | stepEvent c => rw [exec_stepEvent] at ht; exact h.expiry ht fun _ hu => hu.moveChannel c _
  | homingStep c => rw [exec_homingStep] at ht; exact h.expiry ht fun _ hu => hu.moveChannel c _
  | restDelayExpiry c => rw [exec_restDelayExpiry] at ht; exact h.expiry ht fun _ hu => hu.same rfl rfl
  | coilFaultReport c cause => cases ht; exact (h.failChannel c cause).guarded h
  | ruleA | ruleC =>
    refine h.request ht fun r u => keeps_editable ?_
    split
    · exact linkOk_writePart u _ _
    · exact keeps_refuse _ u _
  | ruleB => exact h.request ht fun _ u => keeps_editable (linkOk_writePart u _ _)
  | ruleD => exact h.ruleD ht
  | ruleEnable =>
    exact h.request ht fun _ _ => keeps_unlessSaving (keeps_check fun _ => keeps_check fun _ => keeps_check fun _ =>
      linkOk_accepts fun _ hx => hx.enableRule _)
  | ruleClear =>
    exact h.request ht fun _ _ => keeps_unlessSaving (keeps_check fun _ => linkOk_accepts fun _ hx => hx.clearRule _)
  | confirmTimerExpiry i => rw [exec_confirmTimerExpiry] at ht; exact h.expiry ht fun _ hu => hu.confirmRule i
  | phaseEvent => exact h.expiry ht fun _ hu => hu.advancePhase
  | proveOutEnd => exact h.expiry ht fun _ hu => hu.proveOutEnded
  | lampTurnOnCheck n current => cases ht; exact (h.checkLamp n current).guarded h
  | ackPress => exact h.expiry ht fun _ hu => hu.ackRecognised
  | alertAck => exact h.alertAck ht
  | chimeIntervalEnd => exact h.expiry ht fun u hu => (ripple_chimeNext onlyTacho u).linkOk hu
  | toneCounterExpiry => exact h.expiry ht fun _ hu => hu.same rfl rfl
  | pinRawChange p high => cases ht; exact h.guarded (h.takeRaw p high)
  | filterStabilityExpiry p => rw [exec_filterStabilityExpiry] at ht; exact h.expiry ht fun _ hu => hu.acceptEdge p
  | zeroTimerExpiry => exact h.expiry ht fun _ hu => hu.zeroExpired
  | setKfactor => exact h.setKfactor ht
  | setOdometer => exact h.setOdometerRequest ht
  | sealOdometer => exact h.request ht fun _ _ => keeps_check fun _ => linkOk_accepts fun _ hx => hx.sealNow
  | calWriteComplete => rw [exec_calWriteComplete] at ht; exact h.expiry ht fun _ hu => hu.calWritten.judgeSleep
  | minuteTimerExpiry => exact h.expiry ht fun u hu => (minutePassed_ripple u).linkOk hu
  | cardRead => exact h.cardRead ht
  | xferOpen => exact h.xferOpen ht
  | xferData => exact h.xferData ht
  | xferClose => exact h.xferClose ht
  | xferAbort => exact h.path ht fun _ u hu => (ripple_takeAbort onlyTacho (fun _ h => h) u).linkOk hu
  | transferTimerExpiry => exact h.expiry ht fun u hu => (ripple_transferTimeout onlyTacho (fun _ h => h) u).linkOk hu
  | mismatchTimerExpiry =>
    exact h.expiry ht fun u hu => (ripple_confirmSide (fun _ => True) (fun _ _ => trivial) u trivial).linkOk hu
  | silenceWatchExpiry => exact h.expiry ht fun _ hu => hu.watchExpired
  | readyRise => cases ht; exact h.readyUp
  | readyFall => cases ht; exact h.same rfl rfl
  | readyTimerExpiry => exact h.readyTimer ht
  | retryTimerExpiry => exact h.retryTimer ht
  | displayTransferStart => exact h.transferStart ht
  | displayTransferComplete => exact h.transferComplete ht
  | pageShortPress => exact h.expiry ht fun _ hu => hu.turnPage
  | pageLongPress => exact h.expiry ht fun _ hu => hu.longPress
  | ackInputChange pressed => cases ht; exact h.guarded (h.ackLevel pressed)
  | pageInputChange pressed => cases ht; exact h.guarded (h.pageLevel pressed)
  | readCounters => exact h.read ht reads_readCounters
  | getParam => exact h.read ht reads_getParam
  | routeRead => exact h.read ht reads_routeRead
  | readSlot => exact h.read ht reads_readSlot
  | gaugeRead => exact h.read ht reads_gaugeRead
  | ruleRead => exact h.read ht reads_ruleRead
  | lampRead => exact h.read ht reads_lampRead
  | alertRead => exact h.read ht reads_alertRead
  | readCalHistory => exact h.read ht reads_readCalHistory
  | distanceRead => exact h.read ht reads_distanceRead
  | tachoRead => exact h.read ht reads_tachoRead
  | displayRead => exact h.read ht reads_displayRead

/-- A step on an empty queue sends what is on its way, runs what is due, or lets a microsecond pass. -/
theorem LinkOk.idle (h : LinkOk s) (ht : Machine.idle s = .next t) : LinkOk t := by
  unfold Machine.idle at ht
  split at ht
  · cases ht
    exact h.send []
  · split at ht
    · exact h.exec ht
    · split at ht <;> cases ht
      · exact h
      · exact h.same rfl rfl

theorem LinkOk.step (h : LinkOk s) (ht : Machine.step s = .next t) : LinkOk t := by
  unfold Machine.step at ht
  split at ht
  · next c rest _ =>
    have taken : LinkOk { s with pending := rest } := h.same rfl rfl
    exact taken.exec ht
  · exact h.idle ht

end Sys2Proof

namespace Sys2Proof.Machine

/-- Settles O13: a ripple leaves the link OFF or on as it was, the link's own events come in a link that is on, and the power state and
the link leave and enter SLEEP and OFF together. -/
theorem linkKept : Obligations.LinkKept := fun _ _ hs ht => hs.step ht

end Sys2Proof.Machine
end

section
/-! The bytes of the display records (R159 to R161, R193, R196). -/

namespace Sys2Proof.Machine

/-! ### Numbers and padded fields in bytes (R151, R193) -/

@[simp] theorem leBytes_length (k v : Nat) : (leBytes k v).length = k := by
  induction k generalizing v with
  | zero => rfl
  | succ k ih => simp [leBytes, ih]

@[simp] theorem u8_length (n : Nat) : (u8 n).length = 1 := leBytes_length 1 n

@[simp] theorem u16_length (n : Nat) : (u16 n).length = 2 := leBytes_length 2 n

@[simp] theorem s32_length (v : Int) : (s32 v).length = 4 := leBytes_length 4 _

/-- Bytes that fit a record are followed by as many 0 as are left (R151). -/
theorem padTo_fits {n : Nat} {b : List Byte} (h : b.length ≤ n) : padTo n b = b ++ List.replicate (n - b.length) 0 := by
  unfold padTo
  rw [List.take_append, List.take_of_length_le h, List.take_replicate, Nat.min_eq_left (Nat.sub_le n b.length)]

/-! ### TOP_ALERT and ALERT_LIST (R159, R161) -/

theorem topAlertBytes_record (s : State) (daily weekly : Nat) :
    topAlertBytes s.alert.stack = recordOf s .topAlert daily weekly := by
  unfold topAlertBytes recordOf
  cases s.alert.stack with
  | nil => rfl
  | cons e k =>
    obtain ⟨code, severity, origin, held, repeats, raisedAt⟩ := e
    cases origin <;> rfl

/-- Three bytes for each entry (R161). -/
theorem listBytes_length (k : List AlertEntry) : (k.flatMap AlertEntry.listBytes).length = 3 * k.length := by
  induction k with
  | nil => rfl
  | cons e k ih => simp [ih, AlertEntry.listBytes]; omega

theorem listBytes_eq :
    AlertEntry.listBytes = fun e => u16 e.code ++ u8 (e.severity.rank + if e.held then 128 else 0) := by
  funext e
  unfold AlertEntry.listBytes
  cases e.held <;> rfl

theorem alertListBytes_record {s : State} (h : s.alert.stack.length ≤ 16) (daily weekly : Nat) :
    alertListBytes s.alert.stack = recordOf s .alertList daily weekly := by
  have hl : (u8 5 ++ u8 s.alert.stack.length ++ s.alert.stack.flatMap AlertEntry.listBytes).length =
      2 + 3 * s.alert.stack.length := by
    rw [List.length_append, List.length_append, u8_length, u8_length, listBytes_length]
  have rest : 50 - (2 + 3 * s.alert.stack.length) = 48 - 3 * s.alert.stack.length := by omega
  unfold alertListBytes
  rw [padTo_fits (by rw [hl]; omega), hl, rest, listBytes_eq]
  rfl

/-! ### DRIVER_PAGE (R160) -/

/-- Bytes 0 to 11 of a driver page: all but the summary fields. -/
def State.driverFields (s : State) (d : Driver) : List Byte :=
  u8 3 ++ u8 d.number ++ u8 (s.driver d).state.code ++ u8 (bit (decide ((s.driver d).state = .estimating))) ++
    u16 (ofSigned 16 (s.slot (contSlot d)).value) ++ s32 (s.slot (leftSlot d)).value ++
    u8 (s.slot (leftSlot d)).state.code ++ u8 (ofSigned 8 (s.slot (summarySlot d)).value)

theorem driverFields_length (s : State) (d : Driver) : (s.driverFields d).length = 12 := by simp [State.driverFields]

/-- Bytes 12 to 63 of a driver page: the summary fields, with `daily` and `weekly` for the driving times that a valid summary does not
hold, and the unnamed bytes. -/
def summaryFields (m : Option Summary) (daily weekly : Nat) : List Byte :=
  match m with
  | none => List.replicate 52 0
  | some q =>
    u8 1 ++ padTo 16 q.card ++ u16 q.year ++ u8 q.month ++ u8 q.day ++ u16 (q.daily.getD daily) ++
      u16 (q.weekly.getD weekly) ++ u8 ((if q.daily = none then 0 else 1) + (if q.weekly = none then 0 else 2)) ++
      u8 q.name.length ++ padTo 20 q.name ++ List.replicate 5 0

theorem pageDrive_eq (drive : Option Nat) (free : BitVec 16) : pageDrive drive free = u16 (drive.getD free.toNat) := by
  cases drive <;> rfl

theorem presentMarks (daily weekly : Option Nat) :
    bit daily.isSome + 2 * bit weekly.isSome = (if daily = none then 0 else 1) + (if weekly = none then 0 else 2) := by
  cases daily <;> cases weekly <;> rfl

theorem summaryBytes_length (q : Summary) (free : Nat) : (summaryBytes (some q) free).length = 47 := by
  simp [summaryBytes, pageDrive_eq, padTo_length]

/-- The model's summary fields, and the unnamed bytes behind them (R196). -/
theorem summaryBytes_padded (m : Option Summary) (free : Nat) :
    (summaryBytes m free).length ≤ 52 ∧
      summaryBytes m free ++ List.replicate (52 - (summaryBytes m free).length) 0 =
        summaryFields m (Config.absentPageDaily free).toNat (Config.absentPageWeekly free).toNat := by
  cases m with
  | none => exact ⟨Nat.zero_le 52, rfl⟩
  | some q =>
    rw [summaryBytes_length]
    refine ⟨by decide, ?_⟩
    simp only [summaryFields, summaryBytes, pageDrive_eq, presentMarks]

theorem recordOf_page (s : State) (d : Driver) (daily weekly : Nat) :
    recordOf s (pageOf d) daily weekly = s.driverFields d ++ summaryFields (s.driver d).summary daily weekly := by
  cases d with
  | one => cases h : (s.driver .one).state <;> simp only [State.driverFields, recordOf, pageOf, h] <;> rfl
  | two => cases h : (s.driver .two).state <;> simp only [State.driverFields, recordOf, pageOf, h] <;> rfl

theorem driverPageBytes_record (s : State) (d : Driver) :
    s.driverPageBytes d =
      recordOf s (pageOf d) (Config.absentPageDaily s.fresh).toNat (Config.absentPageWeekly s.fresh).toNat := by
  have page : s.driverPageBytes d = padTo 64 (s.driverFields d ++ summaryBytes (s.driver d).summary s.fresh) := rfl
  obtain ⟨fits, padded⟩ := summaryBytes_padded (s.driver d).summary s.fresh
  have hl : (s.driverFields d ++ summaryBytes (s.driver d).summary s.fresh).length =
      12 + (summaryBytes (s.driver d).summary s.fresh).length := by
    rw [List.length_append, driverFields_length]
  rw [page, padTo_fits (by omega), hl, Nat.sub_add_eq, List.append_assoc, padded, recordOf_page]

/-! ### Every record (R159 to R161, R196) -/

theorem pageSelectBytes_record (s : State) (daily weekly : Nat) :
    s.pageSelectBytes = recordOf s .pageSelect daily weekly := by
  unfold State.pageSelectBytes recordOf
  cases s.ign.power <;> rfl

theorem recordBytes_record {s : State} (h : s.alert.stack.length ≤ 16) (k : RecordKind) :
    s.recordBytes k =
      recordOf s k (Config.absentPageDaily s.fresh).toNat (Config.absentPageWeekly s.fresh).toNat := by
  cases k with
  | topAlert => exact topAlertBytes_record s _ _
  | pageSelect => exact pageSelectBytes_record s _ _
  | driverPage1 => exact driverPageBytes_record s .one
  | driverPage2 => exact driverPageBytes_record s .two
  | distancePage => rfl
  | alertList => exact alertListBytes_record h _ _

/-- The length of each kind of record (R196). -/
def recordLength (k : RecordKind) : Nat :=
  match k with
  | .topAlert => 16
  | .pageSelect => 4
  | .driverPage1 => 64
  | .driverPage2 => 64
  | .distancePage => 12
  | .alertList => 50

theorem recordBytes_length (s : State) (k : RecordKind) : (s.recordBytes k).length = recordLength k := by
  cases k with
  | topAlert => exact padTo_length 16 _
  | pageSelect => rfl
  | driverPage1 => exact padTo_length 64 _
  | driverPage2 => exact padTo_length 64 _
  | distancePage => rfl
  | alertList => exact padTo_length 50 _

/-! ### The order of the bits (R151) -/

/-- One byte, its highest bit first. -/
def byteBits (b : Byte) : List Bool := (List.range 8).map (fun i => b.getLsbD (7 - i))

theorem wireBits_cons (b : Byte) (bytes : List Byte) : wireBits (b :: bytes) = byteBits b ++ wireBits bytes := rfl

theorem byteBits_length (b : Byte) : (byteBits b).length = 8 := rfl

theorem byteBits_get (b : Byte) {i : Nat} (h : i < 8) : (byteBits b)[i]? = some (b.getLsbD (7 - i)) := by
  simp [byteBits, h]

theorem wireBits_length (bytes : List Byte) : (wireBits bytes).length = 8 * bytes.length := by
  induction bytes with
  | nil => rfl
  | cons b bytes ih =>
    rw [wireBits_cons, List.length_append, byteBits_length, ih, List.length_cons]
    omega

theorem wireBits_get (bytes : List Byte) {i : Nat} (h : i < 8 * bytes.length) :
    (wireBits bytes)[i]? = some ((bytes.getD (i / 8) 0).getLsbD (7 - i % 8)) := by
  induction bytes generalizing i with
  | nil => exact absurd h (Nat.not_lt_zero i)
  | cons b bytes ih =>
    rw [List.length_cons] at h
    rw [wireBits_cons]
    by_cases hi : i < 8
    · rw [List.getElem?_append_left hi, byteBits_get b hi, Nat.div_eq_of_lt hi, Nat.mod_eq_of_lt hi]
      rfl
    · have hq : i / 8 = (i - 8) / 8 + 1 := by omega
      have hr : i % 8 = (i - 8) % 8 := by omega
      rw [List.getElem?_append_right (Nat.not_lt.mp hi), byteBits_length, ih (by omega), hq, hr]
      rfl

end Sys2Proof.Machine
end

section
/-! The events of the display link: READY, its two timers and its transfers (R151 to R156): O59. -/

namespace Sys2Proof.Machine

/-! ### The choice of the link (R154) -/

/-- The choice does not look at the link state, the ready timer and the retry timer (R154). -/
theorem linkChooses_afresh (d : Display) (ready : Bool) (now : Nat) :
    linkChooses { d with link := .idle, readyTimer := none, retryTimer := none } ready now = linkChooses d ready now := rfl

theorem settle_chooses (d : Display) (ready : Bool) (now : Nat) : d.settle ready now = linkChooses d ready now := by
  obtain ⟨rests, sends⟩ := poll_chooses { d with link := .idle, readyTimer := none, retryTimer := none } ready now rfl
  by_cases h : d.due = none
  · exact (rests h).trans (by rw [linkChooses, if_pos h])
  · exact (sends h).trans (linkChooses_afresh d ready now)

theorem settleLink_eq (s : State) :
    s.settleLink = { s with display := linkChooses s.display s.pins.ready s.clock } := by
  unfold State.settleLink
  rw [settle_chooses]

/-! ### READY and the two timers (R154, R155) -/

theorem readyUp_waiting {s : State} (h : s.display.link = .waiting) :
    s.readyUp = { s with pins.ready := true, display := linkChooses s.display true s.clock } :=
  (if_pos h).trans (settleLink_eq _)

theorem readyUp_other {s : State} (h : s.display.link ≠ .waiting) : s.readyUp = { s with pins.ready := true } := if_neg h

theorem readyTimer_expires {s : State} {due : Nat} (h : s.display.readyTimer = some due) :
    exec .readyTimerExpiry s = .next (s.reach due).readyTimedOut := onExpiry_running h _ s

theorem retryTimer_expires {s : State} {due : Nat} (h : s.display.retryTimer = some due) :
    exec .retryTimerExpiry s = .next (s.reach due).retry := onExpiry_running h _ s

theorem retry_eq (s : State) :
    s.retry =
      if s.pins.ready = true then { s with display := linkChooses s.display true s.clock }
      else { s with display.retryTimer := some (s.clock + 500000) } := by
  unfold State.retry
  split
  · next h => rw [settleLink_eq, h]
  · rfl

/-! ### Transfers (R151, R154, R156) -/

section
variable {s : State} {k : RecordKind} {due : Nat}

theorem transfer_starts (h : s.display.startTimer = some due) :
    exec .displayTransferStart s = .next (s.reach due).startRecord := onExpiry_running h _ s

theorem transfer_completes (h : s.display.doneTimer = some due) :
    exec .displayTransferComplete s = .next (s.reach due).endTransfer := onExpiry_running h _ s

theorem startRecord_waits (hk : s.display.due = some k) (h : s.pins.ready = false) :
    s.startRecord =
      { s with
        display.link := .waiting, display.startTimer := none, display.readyTimer := some (s.clock + 100000),
        display.retryTimer := none } := by
  unfold State.startRecord
  rw [hk]
  exact if_neg (by rw [h]; decide)

theorem startRecord_begins (hk : s.display.due = some k) (h : s.pins.ready = true) :
    s.startRecord = s.beginTransfer k := by
  unfold State.startRecord
  rw [hk]
  exact if_pos h

end

theorem endTransfer_eq (s : State) :
    s.endTransfer =
      { s with
        display := linkChooses
          { s.display with
            sent := min (s.display.sent + 1) 65535, sending := none, doneTimer := none, csFree := s.clock + 4 }
          s.pins.ready s.clock } := settleLink_eq _

/-- Settles O59: the link chooses as R154 states at each of its events, and a record's bytes are built at its start. -/
theorem displayLink : Obligations.DisplayLink := by
  refine ⟨fun d => ?_, fun s => ⟨fun h => ?_, fun h => ?_, rfl⟩, fun s due h => ?_, fun s due h => ?_,
    fun s due k h hk => ⟨fun hr => ?_, fun hr hs => ?_⟩, fun bytes => ⟨wireBits_length bytes, fun i => wireBits_get bytes⟩,
    fun s due h => ?_, fun d => ?_⟩
  · unfold Display.due
    match d.page with
    | 0 => rfl
    | 1 => rfl
    | 2 => rfl
    | n + 3 => rfl
  · exact congrArg Host.Outcome.next (readyUp_waiting h)
  · exact congrArg Host.Outcome.next (readyUp_other h)
  · exact readyTimer_expires h
  · exact (retryTimer_expires h).trans (congrArg Host.Outcome.next (retry_eq (s.reach due)))
  · exact (transfer_starts h).trans
      (congrArg Host.Outcome.next (startRecord_waits (s := s.reach due) hk hr))
  · have begun := (transfer_starts h).trans
      (congrArg Host.Outcome.next (startRecord_begins (s := s.reach due) hk hr))
    refine ⟨(s.reach due).recordBytes k, _, begun, rfl, rfl, ?_, _, _, BitVec.isLt _, BitVec.isLt _,
      recordBytes_record (s := s.reach due) hs k⟩
    rw [recordBytes_length]
    rfl
  · exact (transfer_completes h).trans (congrArg Host.Outcome.next (endTransfer_eq (s.reach due)))
  · exact Option.isSome_iff_ne_none

end Sys2Proof.Machine
end

section
/-! The bytes of a response and of a notice, the event flags, and the requests that read and clear them (R165, R166, R168 to R171, R193):
O16, O17. -/

namespace Sys2Proof.Machine

/-! ### The bytes of a response (R165, R193) -/

/-- Two bytes of data, each as its own byte of the number. -/
theorem u16_bytes (n : Nat) : u16 n = [BitVec.ofNat 8 (n % 256), BitVec.ofNat 8 (n / 256)] := by
  have low : BitVec.ofNat 8 (n % 256) = BitVec.ofNat 8 n := BitVec.eq_of_toNat_eq (by simp)
  rw [low]
  rfl

/-- Codes that already hold their high bit keep it, and the two codes of seven ones come to 0x80 (R165). -/
theorem responseCode_of_byte {code : Nat} (h : code < 256) :
    responseCode code = if code = 0x7F ∨ code = 0xFF then 0x80 else code % 128 + 128 := by
  have ones : code % 128 = 127 ↔ code = 0x7F ∨ code = 0xFF := by omega
  unfold responseCode
  simp only [ones]

theorem statusByte_eq (s : State) : s.statusByte = statusBits s := by
  unfold State.statusByte statusBits
  cases s.ign.power <;> cases s.store.save <;> rfl

/-- Settles O16: each byte by what its field holds, and the data padded to four bytes. -/
theorem responseLayout : Obligations.ResponseLayout := by
  intro s r result d hd
  refine ⟨rfl, ?_⟩
  unfold State.response
  rw [responseCode_of_byte (byte_lt r 0), statusByte_eq, pad4 d hd]
  rfl

/-! ### The event flags (R168, R193) -/

/-- The flags from bit 0 of the event-flag word (R168). -/
def eventFlags : List EventFlag :=
  [.intakeOverflow, .busOffT, .busOffL, .configInvalid, .saveDone, .saveFailed, .alertLost, .lampFault, .gaugeFault,
   .sensorFault, .tachoReadFailed, .buildAbandoned]

theorem eventFlags_index (f : EventFlag) : eventFlags[f.index]? = some f := by
  cases f <;> rfl

theorem EventFlag.index_lt (f : EventFlag) : f.index < 12 := by
  obtain ⟨h, _⟩ := List.getElem?_eq_some_iff.mp (eventFlags_index f)
  exact h

/-- No two flags share a bit. -/
theorem EventFlag.index_inj {f g : EventFlag} : f.index = g.index ↔ f = g := by
  refine ⟨fun h => Option.some.inj ?_, congrArg _⟩
  rw [← eventFlags_index f, h, eventFlags_index g]

/-- The mask of a flag holds that flag alone. -/
theorem inWord_mask (f g : EventFlag) : g.inWord f.mask = decide (g = f) := by
  have hg := EventFlag.index_lt g
  have bits : ((g.index < 12 ∧ ¬ g.index < f.index) ∧ g.index - f.index = 0) ↔ g.index = f.index := by omega
  rw [← Bool.coe_iff_coe, decide_eq_true_iff, ← EventFlag.index_inj, ← bits]
  simp [EventFlag.inWord, EventFlag.mask, BitVec.getLsbD_one]

theorem inWord_or_mask (w : BitVec 12) (f g : EventFlag) : g.inWord (w ||| f.mask) = (g.inWord w || decide (g = f)) := by
  rw [← inWord_mask f g]
  exact BitVec.getLsbD_or

theorem inWord_and_mask (w : BitVec 12) (f g : EventFlag) : g.inWord (w &&& f.mask) = (g.inWord w && decide (g = f)) := by
  rw [← inWord_mask f g]
  exact BitVec.getLsbD_and

theorem flagsAfterRead_inWord (w : BitVec 12) (valid : Bool) (f : EventFlag) :
    f.inWord (flagsAfterRead w valid) = (f.inWord w && decide (f = .configInvalid) && !valid) := by
  unfold flagsAfterRead
  cases valid with
  | true => simp [EventFlag.inWord]
  | false => simp [inWord_and_mask]

/-! ### A flag's rise and its notice (R168, R171) -/

theorem notice_setFlag (s : State) (f : EventFlag) :
    (s.setFlag f).notice = noticeFrame s (s.mgmt.flags ||| f.mask) := by
  have status : (s.setFlag f).statusByte = statusBits s := statusByte_eq s
  unfold State.notice
  rw [status, u16_bytes, u16_bytes]
  rfl

theorem raise_of_flagged {s : State} {f : EventFlag} (h : Flagged s f) : s.raise f = s := if_pos h

theorem raise_unmasked {s : State} {f : EventFlag} (h : ¬ Flagged s f) (hm : f.inWord s.mgmt.mask = false) :
    s.raise f = { s with mgmt.flags := s.mgmt.flags ||| f.mask } :=
  (if_neg h).trans (if_neg (by rw [hm]; decide))

theorem raise_masked {s : State} {f : EventFlag} (h : ¬ Flagged s f) (hm : f.inWord s.mgmt.mask = true) :
    s.raise f =
      if s.intake.transmit.length < 8 then
        { s with
          mgmt.flags := s.mgmt.flags ||| f.mask,
          intake.transmit := s.intake.transmit ++ [noticeFrame s (s.mgmt.flags ||| f.mask)] }
      else { s with mgmt.flags := s.mgmt.flags ||| f.mask, portT.txDrop := min (s.portT.txDrop + 1) 65535 } := by
  have rise : s.raise f = (s.setFlag f).offer (s.setFlag f).notice := (if_neg h).trans (if_pos hm)
  rw [rise, notice_setFlag]
  rfl

/-! ### READ_EVENTS and SET_NOTICE_MASK (R169, R170) -/

theorem exec_readEvents (s : State) : exec .readEvents s = onRequest 0x01 judgeReadEvents s := rfl

theorem exec_setNoticeMask (s : State) : exec .setNoticeMask s = onRequest 0x02 judgeSetNoticeMask s := rfl

section

variable {s : State} {r : FrameRecord} {rest : List FrameRecord}

theorem readEvents_answers (h : Asked 0x01 s r rest) :
    exec .readEvents s = .next
      { answered s r rest .ok (u16 s.mgmt.flags.toNat ++ u16 s.mgmt.mask.toNat) with
        mgmt.flags := flagsAfterRead s.mgmt.flags s.store.report } := by
  rw [exec_readEvents, onRequest_verdict h (v := judgeReadEvents r s) rfl]
  unfold judgeReadEvents
  simp only [answered_mgmt, answered_store]

theorem setNoticeMask_answers (h : Asked 0x02 s r rest) :
    exec .setNoticeMask s = .next
      (if r.word 2 < 4096 then
        { answered s r rest .ok (u16 s.mgmt.mask.toNat) with mgmt.mask := BitVec.ofNat 12 (r.word 2) }
       else answered s r rest .badArg []) := by
  rw [exec_setNoticeMask]
  split
  · next hw => exact onRequest_verdict h (judge := judgeSetNoticeMask) (if_pos hw)
  · next hw => exact onRequest_answers h (judge := judgeSetNoticeMask) (if_neg hw)

end

/-- Settles O17: a raised flag joins the word alone, and both requests are answered before the flags or the mask change. -/
theorem eventRequests : Obligations.EventRequests :=
  ⟨fun _ => rfl,
    fun s f => ⟨raise_of_flagged, fun hf =>
      ⟨s.mgmt.flags ||| f.mask, inWord_or_mask s.mgmt.flags f, raise_unmasked hf, raise_masked hf⟩⟩,
    fun s _ _ => ⟨fun h => ⟨_, readEvents_answers h, rfl, flagsAfterRead_inWord s.mgmt.flags s.store.report⟩,
      setNoticeMask_answers⟩⟩

end Sys2Proof.Machine
end

section
/-! READ_COUNTERS and GET_PARAM (R172, R173, R175): O18. -/

namespace Sys2Proof.Machine

theorem exec_readCounters (s : State) : exec .readCounters s = onRequest 0x03 judgeReadCounters s := rfl

theorem exec_getParam (s : State) : exec .getParam s = onRequest 0x05 judgeGetParam s := rfl

theorem judgeReadCounters_effect (r : FrameRecord) (s : State) : (judgeReadCounters r s).effect = id := by
  unfold judgeReadCounters
  split <;> rfl

theorem deferred_iff (id : Nat) : deferred id = true ↔ id ∈ [0, 1, 3, 7, 8, 23, 24, 25, 26] := by
  simp only [deferred, Bool.or_eq_true, Bool.and_eq_true, beq_iff_eq, decide_eq_true_iff, List.mem_cons, List.not_mem_nil,
    or_false]
  omega

theorem param_eq (s : State) (id : Nat) :
    s.param id = if id ∈ [0, 1, 3, 7, 8, 23, 24, 25, 26] then s.mgmt.inEffect.get id 0 else s.mgmt.held.get id 0 := by
  unfold State.param State.held
  simp only [deferred_iff]

section

variable {s : State} {r : FrameRecord} {rest : List FrameRecord}

theorem readCounters_answers (h : Asked 0x03 s r rest) :
    exec .readCounters s = .next
      (answered s r rest (judgeReadCounters r { s with intake.queue := rest }).result
        (judgeReadCounters r { s with intake.queue := rest }).data) := by
  rw [exec_readCounters, onRequest_asked h, judgeReadCounters_effect]
  rfl

theorem getParam_answers (h : Asked 0x05 s r rest) :
    exec .getParam s = .next
      (if 26 < r.byte 2 ∨ 1 < r.byte 3 then answered s r rest .badArg []
       else if r.byte 3 = 0 then answered s r rest .ok (s32 (s.held (r.byte 2)))
       else answered s r rest .ok (s32 (s.param (r.byte 2)))) := by
  rw [exec_getParam]
  by_cases hid : 26 < r.byte 2
  · rw [if_pos (.inl hid)]
    exact onRequest_answers h (if_pos hid)
  · have hj : judgeGetParam r { s with intake.queue := rest } =
        match r.byte 3 with
        | 0 => reads (s32 (s.held (r.byte 2)))
        | 1 => reads (s32 (s.param (r.byte 2)))
        | _ => refuse .badArg := if_neg hid
    generalize r.byte 3 = selector at hj ⊢
    match selector with
    | 0 => rw [if_neg (by omega)]; exact onRequest_answers h hj
    | 1 => rw [if_neg (by omega)]; exact onRequest_answers h hj
    | n + 2 => rw [if_pos (by omega)]; exact onRequest_answers h hj

end

/-- Settles O18: both requests answer by their selector and have no effect. -/
theorem managementReads : Obligations.ManagementReads := by
  refine ⟨fun s r rest h => (readCounters_answers h).trans (congrArg Host.Outcome.next ?_), fun s r rest h => ?_⟩
  · unfold judgeReadCounters
    generalize r.byte 2 = selector
    match selector with
    | 0 | 1 | 2 | 3 | 4 | 5 | 6 | 7 | 8 => rfl
    | n + 9 => rfl
  · rw [getParam_answers h, param_eq, apply_ite s32, apply_ite (answered s r rest .ok)]
    rfl

end Sys2Proof.Machine
end

section
/-! What a pending restart and a save in flight hold back (R167, R177): O23. -/

namespace Sys2Proof.Machine

/-! ### A pending restart (R177) -/

/-- The commands of the records that are no request (R8). -/
def recordCommands : List Instr :=
  [.routedFrame, .unroutedFrame, .foreignMgmt, .badRequest, .xferOpen, .xferData, .xferClose, .xferAbort, .xferStray]

/-- The classifier hands a record to a request that its code names, or to the command of another path (R8). -/
theorem headCommands_cases :
    ∀ c ∈ headCommands, (∃ code ∈ requestCodes, requestOf code = some c) ∨ c ∈ recordCommands := by
  decide

/-- The request that a code names judges the record at the head (R164). -/
theorem exec_request {code : Nat} {c : Instr} (h : requestOf code = some c) :
    ∃ judge, ∀ s, exec c s = onRequest code judge s := by
  unfold requestOf at h
  split at h <;> cases h <;> exact ⟨_, fun _ => rfl⟩

theorem onRequest_restarting {code : Nat} {judge : FrameRecord → State → Verdict} {s : State} (h : s.mgmt.restart ≠ none) :
    onRequest code judge s = .next s := by
  unfold onRequest
  exact takeHead_restarting _ _ h

theorem recordCommand_waits {c : Instr} {s : State} (hc : c ∈ recordCommands) (h : s.mgmt.restart ≠ none) :
    exec c s = .next s := by
  simp only [recordCommands, List.mem_cons, List.not_mem_nil, or_false] at hc
  rcases hc with rfl | rfl | rfl | rfl | rfl | rfl | rfl | rfl | rfl <;>
    simp only [exec, execRoutedFrame, execUnroutedFrame, execForeignMgmt, execBadRequest, execXferOpen, execXferData,
      execXferClose, execXferAbort, execXferStray, takeHead_restarting _ _ h]

/-- No command of the classifier takes the record at the head before the restart (R177). -/
theorem headCommand_waits {c : Instr} {s : State} (hc : c ∈ headCommands) (h : s.mgmt.restart ≠ none) :
    exec c s = .next s := by
  rcases headCommands_cases c hc with ⟨code, -, hcode⟩ | hrecord
  · obtain ⟨judge, run⟩ := exec_request hcode
    rw [run, onRequest_restarting h]
  · exact recordCommand_waits hrecord h

/-! ### A save in flight (R167) -/

/-- The judgement of a request that R167 lists looks at the save first. -/
theorem exec_busyRequest {code : Nat} {c : Instr} (h : (code, c) ∈ busyRequests) :
    ∃ judge, (∀ s, exec c s = onRequest code judge s) ∧ ∀ r s, Saving s → judge r s = refuse .busy := by
  simp only [busyRequests, List.mem_cons, Prod.mk.injEq, List.not_mem_nil, or_false] at h
  rcases h with ⟨rfl, rfl⟩ | ⟨rfl, rfl⟩ | ⟨rfl, rfl⟩ | ⟨rfl, rfl⟩ | ⟨rfl, rfl⟩ | ⟨rfl, rfl⟩ | ⟨rfl, rfl⟩ | ⟨rfl, rfl⟩ |
    ⟨rfl, rfl⟩ | ⟨rfl, rfl⟩ | ⟨rfl, rfl⟩ | ⟨rfl, rfl⟩ <;> exact ⟨_, fun _ => rfl, fun _ _ => unlessSaving_saving _⟩

theorem busyRequest_refused {code : Nat} {c : Instr} {s : State} {r : FrameRecord} {rest : List FrameRecord}
    (hc : (code, c) ∈ busyRequests) (h : Asked code s r rest) (hs : Saving s) :
    exec c s = .next (answered s r rest .busy []) := by
  obtain ⟨judge, run, busy⟩ := exec_busyRequest hc
  rw [run]
  exact onRequest_answers h (busy r _ hs)

/-- Settles O23: the classifier's commands wait for the restart, and the listed requests look at the save before their own
checks. -/
theorem requestsHeldBack : Obligations.RequestsHeldBack :=
  ⟨fun _ _ => headCommand_waits, fun _ _ _ _ _ => busyRequest_refused⟩

end Sys2Proof.Machine
end

section
/-! CONFIG_SAVE, CONFIG_ERASE, the end of a save and the end of a calibration write (R178 to R182, R190): O21 and O22. -/

namespace Sys2Proof.Machine

/-! ### CONFIG_SAVE and CONFIG_ERASE (R178, R179, R181) -/

theorem exec_configSave (s : State) : exec .configSave s = onRequest 0x08 judgeConfigSave s := rfl

theorem exec_configErase (s : State) : exec .configErase s = onRequest 0x09 judgeConfigErase s := rfl

/-- The image of R178 depends on the live tables and the held parameters alone. -/
theorem configImage_congr {s t : State} (hi : t.intake.routes = s.intake.routes) (hg : t.gauges = s.gauges)
    (hr : t.telltale = s.telltale) (hm : t.mgmt = s.mgmt) : t.configImage = s.configImage := by
  unfold State.configImage State.storedRule State.rule
  rw [hi, hg, hr, hm]

section

variable {s : State} {r : FrameRecord} {rest : List FrameRecord}

/-- CONFIG_SAVE answers OK and starts a save of the live tables (R179). -/
theorem configSave_answers (h : Asked 0x08 s r rest) (hs : ¬ Saving s) :
    exec .configSave s = .next
      { answered s r rest .ok [] with
        store.save := some s.configImage, store.saveLimit := some (s.clock + 400000), ign.saveMark := true } := by
  have verdict : judgeConfigSave r { s with intake.queue := rest } = accepts State.startSave := unlessSaving_idle _ hs
  have image : (answered s r rest .ok []).configImage = s.configImage :=
    configImage_congr (answered_routes ..) (answered_gauges ..) (answered_telltale ..) (answered_mgmt ..)
  have limit : (answered s r rest .ok []).clock = s.clock := answered_clock ..
  rw [exec_configSave, onRequest_verdict h verdict, ← image, ← limit]
  rfl

/-- CONFIG_ERASE answers OK and blanks the store (R181). -/
theorem configErase_answers (h : Asked 0x09 s r rest) (hs : ¬ Saving s) :
    exec .configErase s = .next { answered s r rest .ok [] with store.config := .blank } := by
  have verdict : judgeConfigErase r { s with intake.queue := rest } =
      accepts (fun t => { t with store.config := .blank }) := unlessSaving_idle _ hs
  rw [exec_configErase, onRequest_verdict h verdict]
  rfl

end

/-- Settles O21: both requests are accepted where no save is in flight, and each is its effect behind the answer. -/
theorem configRequests : Obligations.ConfigRequests := fun _ _ _ hs =>
  ⟨fun h => configSave_answers h hs, fun h => configErase_answers h hs⟩

/-! ### The SLEEP condition after a store's operation (R190) -/

theorem judgeSleep_stays {s : State} (h : ¬ SleepReady s) : s.judgeSleep = s := by
  unfold State.judgeSleep
  exact if_neg (mt (maySleep_iff s).mp h)

theorem judgeSleep_sleeps {s : State} (h : SleepReady s) : s.judgeSleep = s.sleepEntry := by
  unfold State.judgeSleep
  exact if_pos ((maySleep_iff s).mpr h)

/-- The SLEEP condition reads the power state and the reports, besides the two marks. -/
theorem staysUp_congr {s t : State} (hp : t.ign.power = s.ign.power) (hr : t.ign.reports = s.ign.reports) :
    StaysUp t ↔ StaysUp s := by
  unfold StaysUp
  rw [hp, hr]

/-- A part that stays up, or the mark of the other operation, holds SLEEP back. -/
theorem not_ready_of_stays {s : State} {mark : Bool} (h : StaysUp s ∨ mark = true) : ¬ (¬ StaysUp s ∧ mark = false) := by
  rintro ⟨hup, rfl⟩
  exact h.elim hup Bool.false_ne_true

/-- SLEEP entry leaves the stores and the event flags but for a save that it cuts short (R180, R190). -/
theorem sleepEntry_stores (s : State) :
    s.sleepEntry.store = s.cutSave.store ∧ s.sleepEntry.mgmt.flags = s.cutSave.mgmt.flags := by
  have cut (g : Ignition) : ({ s with ign := g } : State).cutSave.store = s.cutSave.store ∧
      ({ s with ign := g } : State).cutSave.mgmt.flags = s.cutSave.mgmt.flags := by
    unfold State.cutSave
    split <;> exact ⟨rfl, rfl⟩
  have slept (x : State) : x.sleepBlocks.settleLamps.compareIgn.store = x.store ∧
      x.sleepBlocks.settleLamps.compareIgn.mgmt.flags = x.mgmt.flags := by
    obtain ⟨lamps, settled⟩ := settleLamps_only x.sleepBlocks
    rw [settled]
    exact ⟨rfl, rfl⟩
  exact ⟨(slept _).1.trans (cut _).1, (slept _).2.trans (cut _).2⟩

theorem cutSave_unsaving {s : State} (h : s.store.save = none) : s.cutSave = s := by
  unfold State.cutSave
  rw [h]
  rfl

/-! ### CONFIG_SAVE_END (R179, R180) -/

theorem exec_configSaveEnd {s : State} {image : ConfigImage} (h : s.store.save = some image) (equal : Bool) :
    exec (.configSaveEnd equal) s = .next (s.saveRead image equal).judgeSleep := by
  show execConfigSaveEnd equal s = _
  unfold execConfigSaveEnd
  rw [h]

/-- The stores and the controller's mark once no save is in flight any more, with those contents and that report. -/
def State.saveOver (s : State) (contents : StoreContents ConfigImage) (valid : Bool) : State :=
  { s with
    store := { s.store with save := none, saveLimit := none, config := contents, report := valid }, ign.saveMark := false }

/-- The report is no part of a notice. -/
theorem raise_report (s : State) (f : EventFlag) (valid : Bool) :
    ({ s with store.report := valid } : State).raise f = { s.raise f with store.report := valid } := by
  have offered (x : State) (frame : TxFrame) :
      ({ x with store.report := valid } : State).offer frame = { x.offer frame with store.report := valid } := by
    unfold State.offer
    split <;> rfl
  unfold State.raise
  split
  · rfl
  · split
    · exact offered (s.setFlag f) (s.setFlag f).notice
    · rfl

/-- The end of a save with its flag and the notice, before an alert is released (log 6). -/
def State.saveNoted (s : State) (image : ConfigImage) (equal : Bool) : State :=
  (s.saveOver (if equal then .image image else .bad) (s.store.report || equal)).raise
    (if equal then .saveDone else .saveFailed)

theorem reportValid_valid {s : State} (h : s.store.report = true) : s.reportValid = s := by
  unfold State.reportValid
  exact if_pos h

theorem reportValid_invalid {s : State} (h : s.store.report = false) :
    s.reportValid = (({ s with store.report := true } : State).release 0xF001 .config).settleLamps := by
  unfold State.reportValid
  exact if_neg (by rw [h]; exact Bool.false_ne_true)

theorem saveRead_false (s : State) (image : ConfigImage) :
    s.saveRead image false = (s.saveOver .bad s.store.report).raise .saveFailed := rfl

theorem saveRead_true (s : State) (image : ConfigImage) :
    s.saveRead image true = ((s.saveOver (.image image) s.store.report).raise .saveDone).reportValid := rfl

/-- A save that reads back its image where the report was INVALID releases 0xF001 behind its flag (R179). -/
theorem saveRead_releases (s : State) (image : ConfigImage) (hr : s.store.report = false) :
    s.saveRead image true = ((s.saveNoted image true).release 0xF001 .config).settleLamps := by
  have noted : s.saveNoted image true =
      { (s.saveOver (.image image) s.store.report).raise .saveDone with store.report := true } := by
    unfold State.saveNoted
    rw [Bool.or_true]
    exact raise_report (s.saveOver (.image image) s.store.report) .saveDone true
  have before : ((s.saveOver (.image image) s.store.report).raise .saveDone).store.report = false := by
    rw [State.raise_store]
    exact hr
  rw [saveRead_true, noted, reportValid_invalid before]

/-- Any other end of a save is its flag alone (R179, R180). -/
theorem saveRead_notes (s : State) (image : ConfigImage) (equal : Bool) (h : ¬ (equal = true ∧ s.store.report = false)) :
    s.saveRead image equal = s.saveNoted image equal := by
  cases equal with
  | false =>
    unfold State.saveNoted
    rw [Bool.or_false]
    exact saveRead_false s image
  | true =>
    have hr : s.store.report = true := by simpa using h
    have noted : s.saveNoted image true = (s.saveOver (.image image) s.store.report).raise .saveDone := by
      unfold State.saveNoted
      rw [Bool.or_true, hr]
      rfl
    have valid : ((s.saveOver (.image image) s.store.report).raise .saveDone).store.report = true := by
      rw [State.raise_store]
      exact hr
    rw [saveRead_true, noted, reportValid_valid valid]

/-- What the end of a save comes to (R179, R180). -/
theorem saveRead_ended (s : State) (image : ConfigImage) (equal : Bool) : SaveEnded s image equal (s.saveRead image equal) := by
  have noted : Ripple (fun _ => False) (s.saveOver (if equal then .image image else .bad) (s.store.report || equal))
      (s.saveNoted image equal) := ripple_raise _ _ _
  have flagged : Flagged (s.saveNoted image equal) (if equal then .saveDone else .saveFailed) := raise_flagged _ _
  have alert : (s.saveNoted image equal).alert = s.alert := State.raise_alert _ _
  have table : (s.saveNoted image equal).table = s.table := State.raise_table _ _
  have released : Ripple (· = 13) (s.saveNoted image equal) (s.saveRead image equal) ∧
      (s.saveRead image equal).alert =
        (if equal = true ∧ s.store.report = false then (s.saveNoted image equal).release 0xF001 .config
          else s.saveNoted image equal).alert := by
    by_cases h : equal = true ∧ s.store.report = false
    · rw [if_pos h]
      obtain ⟨rfl, hr⟩ := h
      rw [saveRead_releases s image hr]
      exact ⟨(ripple_release (· = 13) _ _ _ rfl).trans (ripple_settleLamps (· = 13) _), settle_alert _⟩
    · rw [if_neg h, saveRead_notes s image equal h]
      exact ⟨Ripple.refl _ _, rfl⟩
  obtain ⟨R, released⟩ := released
  have store := R.store.trans noted.store
  have ign := R.ign.trans noted.ign
  refine ⟨store, ign, R.flags _ flagged, ⟨s.saveNoted image equal, ?_, alert, table, released⟩, ?_⟩
  · rw [store, ign]
    exact noted
  · rw [store, ign]
    exact (ripple_raise _ _ _).trans R

theorem saveRead_unsaving (s : State) (image : ConfigImage) (equal : Bool) : (s.saveRead image equal).store.save = none := by
  have ⟨store, _⟩ := saveRead_ended s image equal
  rw [store]

/-- SLEEP begins at a save's end where no calibration write holds it back (R190). -/
theorem saveRead_sleepReady (s : State) (image : ConfigImage) (equal : Bool) :
    SleepReady (s.saveRead image equal) ↔ ¬ StaysUp s ∧ s.ign.writeMark = false := by
  have ⟨_, ign, _⟩ := saveRead_ended s image equal
  unfold SleepReady
  rw [staysUp_congr (s := s) (by rw [ign]) (by rw [ign]), ign]
  exact and_congr_right fun _ => and_iff_right rfl

/-! ### CAL_WRITE_COMPLETE (R182) -/

theorem calWriteComplete_judges {s : State} {due : Nat} (h : s.store.writeTimer = some due) :
    exec .calWriteComplete s = .next (s.reach due).calWritten.judgeSleep := by
  rw [exec_calWriteComplete, onExpiry_running h]

/-- A write with no follow-on leaves its image in the store (R182). -/
theorem calWritten_writing {s : State} {image : CalImage} (h : s.store.write = .writing image) :
    s.calWritten =
      { s with
        store.calibration := .image image, store.write := .idle, store.writeTimer := none, ign.writeMark := false } := by
  unfold State.calWritten
  rw [h]

/-- A write with a follow-on leaves its image, and the follow-on starts with 5 ms (R182). -/
theorem calWritten_pending {s : State} {image : CalImage} (h : s.store.write = .writingPending image) :
    s.calWritten =
      { s with
        store.calibration := .image image, store.writeTimer := some (s.clock + 5000), ign.writeMark := true,
        store.write := .writing s.calImage } := by
  unfold State.calWritten
  rw [h]
  rfl

/-- The follow-on write holds SLEEP back (R190). -/
theorem calWriteComplete_follows {s : State} {due : Nat} {image : CalImage} (hd : s.store.writeTimer = some due)
    (hw : s.store.write = .writingPending image) :
    exec .calWriteComplete s = .next
      { s.reach due with
        store.calibration := .image image, store.writeTimer := some (max s.clock due + 5000), ign.writeMark := true,
        store.write := .writing s.calImage } := by
  have written := calWritten_pending (s := s.reach due) hw
  have awake : ¬ SleepReady (s.reach due).calWritten := by
    rw [written]
    exact fun ⟨_, _, mark⟩ => Bool.noConfusion mark
  rw [calWriteComplete_judges hd, judgeSleep_stays awake, written]
  rfl

/-- SLEEP begins at a write's end where no save holds it back (R190). -/
theorem calWritten_sleepReady {s : State} {image : CalImage} (hw : s.store.write = .writing image) :
    SleepReady s.calWritten ↔ ¬ StaysUp s ∧ s.ign.saveMark = false := by
  rw [calWritten_writing hw]
  exact and_congr_right fun _ => and_iff_left rfl

theorem calWriteComplete_sleeps {s : State} {due : Nat} {image : CalImage} (hd : s.store.writeTimer = some due)
    (hw : s.store.write = .writing image) (hup : ¬ StaysUp s) (hmark : s.ign.saveMark = false) :
    exec .calWriteComplete s = .next (s.reach due).calWritten.sleepEntry := by
  rw [calWriteComplete_judges hd, judgeSleep_sleeps ((calWritten_sleepReady (s := s.reach due) hw).mpr ⟨hup, hmark⟩)]

theorem calWriteComplete_rests {s : State} {due : Nat} {image : CalImage} (hd : s.store.writeTimer = some due)
    (hw : s.store.write = .writing image) (h : StaysUp s ∨ s.ign.saveMark = true) :
    exec .calWriteComplete s = .next
      { s.reach due with
        store.calibration := .image image, store.write := .idle, store.writeTimer := none, ign.writeMark := false } := by
  have awake := mt (calWritten_sleepReady (s := s.reach due) hw).mp (not_ready_of_stays h)
  rw [calWriteComplete_judges hd, judgeSleep_stays awake, calWritten_writing (s := s.reach due) hw]

/-- SLEEP entry behind a calibration write leaves what the write gave the store. -/
theorem calWritten_slept {s : State} {image : CalImage} (hw : s.store.write = .writing image) :
    s.calWritten.sleepEntry.store.calibration = .image image ∧ s.calWritten.sleepEntry.store.write = .idle := by
  obtain ⟨-, -, -, -, -, -, -, -, -, -, -, -, -, -, calibration, write, -, -⟩ := cutSave_frame s.calWritten
  rw [(sleepEntry_stores _).1, calibration, write, calWritten_writing hw]
  exact ⟨rfl, rfl⟩

/-- Settles O22: what each operation's end gives the stores, and then the SLEEP condition, which reads the other one's mark. -/
theorem storeWrites : Obligations.StoreWrites := by
  refine ⟨fun s image equal hsave => ?_, fun s due hd =>
    ⟨fun image hw => ⟨calWriteComplete_rests hd hw, fun hup hmark => ?_⟩, fun image hw => calWriteComplete_follows hd hw⟩⟩
  · refine ⟨_, _, exec_configSaveEnd hsave equal, saveRead_ended s image equal, fun stays => ?_, fun hup hmark => ?_⟩
    · exact judgeSleep_stays (mt (saveRead_sleepReady s image equal).mp (not_ready_of_stays stays))
    · rw [judgeSleep_sleeps ((saveRead_sleepReady s image equal).mpr ⟨hup, hmark⟩)]
      obtain ⟨store, flags⟩ := sleepEntry_stores (s.saveRead image equal)
      rw [cutSave_unsaving (saveRead_unsaving s image equal)] at store flags
      obtain ⟨-, power, hold, -, -, -, -, -, -, -, -, -, stack, -⟩ := sleepEntry_entered (s.saveRead image equal)
      exact ⟨power, hold, store, flags, stack⟩
  · obtain ⟨calibration, write⟩ := calWritten_slept (s := s.reach due) hw
    obtain ⟨-, power, hold, -, -, -, -, -, -, -, -, -, stack, -⟩ := sleepEntry_entered (s.reach due).calWritten
    exact ⟨_, calWriteComplete_sleeps hd hw hup hmark, power, hold, calibration, write, stack⟩

end Sys2Proof.Machine
end

section
/-! POWER_ON and SUPPLY_LOSS (R180, R182, R185, R192): O24. -/

namespace Sys2Proof.Machine

theorem exec_powerOn (s : State) : exec .powerOn s = .next (if s.powered then s else s.start) := rfl

theorem exec_supplyLoss (s : State) : exec .supplyLoss s = .next (if s.powered then s.loseSupply else s) := rfl

/-- A part without supply starts from the power-on condition and samples the IGN line (R192). -/
theorem powerOn_starts {s : State} (h : s.powered = false) : exec .powerOn s = .next (powerOnFrom s).sampleIgn := by
  rw [exec_powerOn, if_neg (by rw [h]; exact Bool.false_ne_true)]
  rfl

theorem powerOn_powered {s : State} (h : s.powered = true) : exec .powerOn s = .next s := by rw [exec_powerOn, if_pos h]

theorem supplyLoss_powered {s : State} (h : s.powered = true) : exec .supplyLoss s = .next s.loseSupply := by
  rw [exec_supplyLoss, if_pos h]

theorem supplyLoss_unpowered {s : State} (h : s.powered = false) : exec .supplyLoss s = .next s := by
  rw [exec_supplyLoss, if_neg (by rw [h]; exact Bool.false_ne_true)]

/-- A save in flight at the loss leaves its store bad (R180). -/
theorem loseSupply_config (s : State) :
    s.loseSupply.store.config = if s.store.save = none then s.store.config else .bad := by
  show (if s.store.save.isSome then StoreContents.bad else s.store.config) = _
  cases s.store.save <;> rfl

/-- A calibration write in flight at the loss completes, and its follow-on is lost (R182, log 11). -/
theorem loseSupply_calibration (s : State) :
    s.loseSupply.store.calibration =
      match s.store.write with
      | .idle => s.store.calibration
      | .writing image => .image image
      | .writingPending image => .image image := by
  unfold State.loseSupply
  cases s.store.write <;> rfl

/-- Settles O24: power-on is the power-on condition with the IGN line sampled, and a supply loss is that condition with the stores
as it leaves them. -/
theorem supplyEvents : Obligations.SupplyEvents := by
  refine fun s => ⟨powerOn_powered, fun off => ⟨_, powerOn_starts off, ?_⟩, supplyLoss_unpowered, fun on =>
    ⟨_, supplyLoss_powered on, rfl, rfl, rfl, rfl, rfl, rfl, rfl, rfl, rfl, rfl, loseSupply_config s,
      loseSupply_calibration s⟩⟩
  obtain ⟨powered, clock, pins, _, level, hold, power, queue, restart, _, config, calibration, _, port⟩ :=
    sampleIgn_spec (powerOnFrom s) rfl rfl rfl rfl rfl rfl rfl
  refine ⟨powered, clock, pins, level, hold, power, queue, restart, config, calibration, port, fun low => sampleIgn_low low,
    fun high => ?_⟩
  rw [sampleIgn_high (x := powerOnFrom s) high]
  exact wakingEntry_entered _

end Sys2Proof.Machine
end

section
/-! One step: the front of the queue, and the empty queue (log 1, log 29): O1 and O2. -/

namespace Sys2Proof.Machine

theorem step_front (c : Instr) (rest : List Instr) (s : State) :
    step { s with pending := c :: rest } = exec c { s with pending := rest } := rfl

theorem step_empty {s : State} (h : s.pending = []) : step s = idle s := by
  unfold step
  rw [h]

/-- With nothing on its way to the alert block, what is due runs as its command. -/
theorem idle_due {s : State} {c : Instr} (hb : s.alert.backlog = []) (hd : s.dueNow = some c) : idle s = exec c s := by
  unfold idle
  rw [if_neg (not_not_intro hb), hd]

/-- With nothing on its way, due or overdue, one microsecond passes. -/
theorem idle_tick {s : State} (hb : s.alert.backlog = []) (hd : s.dueNow = none) (ho : s.saveOverdue = false) :
    idle s = .next s.tick := by
  unfold idle
  rw [if_neg (not_not_intro hb), hd]
  exact if_neg (ho ▸ Bool.false_ne_true)

/-- Settles O1: a step on a queue with a command at its front is that command on the queue's rest. -/
theorem stepRunsFront : Obligations.StepRunsFront := step_front

/-- Settles O2: a step on an empty queue is the idle step, which runs what is due or else lets the clock tick. -/
theorem emptyQueueStep : Obligations.EmptyQueueStep := fun _ queue backlog =>
  ⟨fun _ due => (step_empty queue).trans (idle_due backlog due),
    fun due overdue => (step_empty queue).trans (idle_tick backlog due overdue)⟩

end Sys2Proof.Machine
end
